-- ==== Sys2Proof/Word.lean ====
section
/-! DEFINITION. The words of the machine: bytes, 32-bit words, 64-bit addresses and counts. -/

namespace Sys2Proof

/-- One byte of memory. -/
abbrev Byte := BitVec 8

/-- One 32-bit word: a lane or uniform register, an instruction word (R61, R64). -/
abbrev Word := BitVec 32

/-- One 64-bit word: a program counter, a register pair read whole (R21, R62). -/
abbrev DWord := BitVec 64

/-- The word of a number modulo 2^32. -/
def word (n : Nat) : Word := BitVec.ofNat 32 n

/-- The word of an integer modulo 2^32. -/
def wordOfInt (n : Int) : Word := BitVec.ofInt 32 n

end Sys2Proof
end

