-- ==== Sys2Proof/Syntax.lean ====
section
/-! DEFINITION. The instructions and the device's steps: one constructor per row of spec/opcode_table.json. -/

namespace Sys2Proof

/-! ### Operand records shared by several rows

Register fields are numbers as the field holds them (R61); WellFormed bounds them. `x` is the LX
extension: `none` is the LR form (R73). -/

/-- Three-register lane form (R73): guard, D, A, B and an optional extension. -/
structure LOp (ε : Type) where
  g : Nat
  d : Nat
  a : Nat
  b : Nat
  x : Option ε
  deriving DecidableEq, Repr

/-- Three-register lane form that exists as LX only. -/
structure LXOp (ε : Type) where
  g : Nat
  d : Nat
  a : Nat
  b : Nat
  x : ε
  deriving DecidableEq, Repr

/-- Two-register lane form: B holds a sub-operation fixed by the constructor. -/
structure L2Op (ε : Type) where
  g : Nat
  d : Nat
  a : Nat
  x : Option ε
  deriving DecidableEq, Repr

/-- Integer LX extension, Table 5.1 (R83). -/
structure IExt where
  c : Nat
  q : Nat
  k : Bool
  u : Bool
  m : Bool
  ci : Bool
  co : Bool
  imm : Nat
  deriving DecidableEq, Repr

/-- ISETP's extension: combining predicate, second destination, combiner (R87). -/
structure ISetpExt where
  pc : Nat
  pe : Nat
  comb : Nat
  k : Bool
  u : Bool
  imm : Nat
  deriving DecidableEq, Repr

/-- A lane comparison (R87, R108): D holds the comparison and pd. -/
structure SetpOp (ε : Type) where
  g : Nat
  cmp : Nat
  pd : Nat
  a : Nat
  b : Nat
  x : Option ε
  deriving DecidableEq, Repr

/-- PSET (R90): inputs, their negations, the operation; `x` is pc, its negation and op2. -/
structure PsetOp where
  g : Nat
  pd : Nat
  pa : Nat
  na : Bool
  pb : Nat
  nb : Bool
  op : Nat
  x : Option (Nat × Bool × Nat)
  deriving DecidableEq, Repr

/-- SHFL's extension (R95). -/
structure ShflExt where
  mode : Nat
  k : Bool
  pd : Nat
  imm : Nat
  deriving DecidableEq, Repr

/-- VOTE (R96): `x` is gd and sd. -/
structure VoteOp where
  g : Nat
  sub : Nat
  d : Nat
  pa : Nat
  neg : Bool
  x : Option (Nat × Nat)
  deriving DecidableEq, Repr

/-- REDW (R97): `x` is the rounding mode and sd. -/
structure RedwOp where
  g : Nat
  d : Nat
  a : Nat
  op : Nat
  x : Option (Nat × Nat)
  deriving DecidableEq, Repr

/-- MATCH (R98): `all`; `x` is the pair bit and pd. -/
structure MatchOp where
  g : Nat
  d : Nat
  a : Nat
  all : Bool
  x : Option (Bool × Nat)
  deriving DecidableEq, Repr

/-- Floating-point LX extension, Table 6.1 (R104). `imm` is used when `k`, the rest when not. -/
structure FExt where
  c : Nat
  rm : Nat
  sa : Nat
  sb : Nat
  sc : Nat
  k : Bool
  imm : Nat
  q : Nat
  cb : Nat
  u : Bool
  bf : Bool
  ft : Nat
  deriving DecidableEq, Repr

/-- FUNC (R109): `x` is H and the sign operation. -/
structure FuncOp where
  g : Nat
  d : Nat
  a : Nat
  fn : Nat
  x : Option (Bool × Nat)
  deriving DecidableEq, Repr

/-- The extension of FLERP and BYSEL: register or immediate weight or selector (R110, R115). -/
structure PickExt where
  c : Nat
  k : Bool
  imm : Nat
  deriving DecidableEq, Repr

/-- CVT's extension, Table 6.4 (R111). -/
structure CvtExt where
  df : Nat
  sf : Nat
  rm : Nat
  sat : Bool
  ri : Bool
  so : Nat
  sp : Nat
  dp : Nat
  ins : Bool
  deriving DecidableEq, Repr

/-- CVT's two forms (R111, R112): an LR code of Table 6.6, or the LX fields. -/
inductive CvtForm where
  | lr (code : Nat)
  | lx (x : CvtExt)
  deriving DecidableEq, Repr

/-- The address space an access names (R117, Table 7.4). -/
inductive Space where
  | global | priv | team | quire
  deriving DecidableEq, Repr

/-- LD and ST (R129). In quire space `quire`, `sk` and `nr` name the slot; otherwise they are 0. -/
structure MemOp where
  g : Nat
  d : Nat
  a : Nat
  space : Space
  ty : Nat
  ord : Nat
  scope : Nat
  rd : Nat
  inv : Bool
  poll : Bool
  off : Int
  quire : Nat
  sk : Nat
  nr : Bool
  deriving DecidableEq, Repr

/-- LDP (R129, R133): element width minus 1 in `ty`, index register `vb`. -/
structure LdpOp where
  g : Nat
  d : Nat
  a : Nat
  vb : Nat
  space : Space
  ty : Nat
  rd : Nat
  inv : Bool
  sgn : Bool
  off : Int
  quire : Nat
  sk : Nat
  nr : Bool
  deriving DecidableEq, Repr

/-- ATOM, RED and CAS (R134); `team` selects team space. -/
structure AtomOp where
  g : Nat
  d : Nat
  a : Nat
  b : Nat
  c : Nat
  op : Nat
  team : Bool
  ty : Nat
  ord : Nat
  scope : Nat
  off : Int
  deriving DecidableEq, Repr

/-- CCTL (R140). -/
structure CctlOp where
  g : Nat
  a : Nat
  priv : Bool
  rd : Nat
  off : Int
  deriving DecidableEq, Repr

/-- RJN's mask operand (R162): a uniform register or a literal. -/
inductive RjnMask where
  | reg (n : Nat)
  | lit (m : Nat)
  deriving DecidableEq, Repr

/-- A uniform instruction of majors 0 to 13 (R74, R77): B, or a literal in its place. -/
structure UOp where
  g : Nat
  d : Nat
  a : Nat
  b : Nat
  lit : Option Nat
  deriving DecidableEq, Repr

/-- The five plain fields of a UX instruction whose FIELDS are zero or named apart (R74). -/
structure UXOp where
  g : Nat
  d : Nat
  a : Nat
  b : Nat
  deriving DecidableEq, Repr

/-- USETP (R99). -/
structure USetpOp where
  g : Nat
  gd : Nat
  a : Nat
  b : Nat
  cmp : Nat
  u : Bool
  gc : Nat
  comb : Nat
  lit : Option Nat
  deriving DecidableEq, Repr

/-- UPSET (R99). -/
structure UPsetOp where
  g : Nat
  gd : Nat
  ga : Nat
  na : Bool
  gb : Nat
  nb : Bool
  op : Nat
  deriving DecidableEq, Repr

/-- ULD and UST (R141). `cst` is constant space; `lit` says the offset stood in a third word. -/
structure UMemOp where
  g : Nat
  d : Nat
  a : Nat
  cst : Bool
  width : Nat
  ord : Bool
  scope : Nat
  off : Int
  lit : Bool
  deriving DecidableEq, Repr

/-- The level a BAR names (R167). -/
structure BarOp where
  g : Nat
  level : Nat
  id : Nat
  deriving DecidableEq, Repr

/-- A sample-row segment of an incoming ST 2110-20 packet: line, first pixel, and its bytes (R270). -/
structure Segment where
  line : Nat
  first : Nat
  data : List Nat
  deriving DecidableEq, Repr

/-- An incoming media packet (R269, R270); `good` is its frame check sequence (Table 24.1). -/
structure MediaPacket where
  good : Bool
  dst : Nat
  udp : Nat
  pt : Nat
  src : Nat
  ssrc : Nat
  seq : Nat
  rtp : Nat
  stamp : Nat
  segs : List Segment
  deriving DecidableEq, Repr

/-- A collective packet (R284): the header's fields and the payload bytes. -/
structure CollPacket where
  ver : Nat
  hops : Nat
  plen : Nat
  route : List Nat
  ops : List Nat
  mcast : Nat
  handle : Nat
  inst : Nat
  rank : Nat
  chunk : Nat
  offset : Nat
  part : Nat
  payload : List Nat
  deriving DecidableEq, Repr

/-- What a translation walk looks up, and for whom: a walker of `stack`; `waiters` are the partitions of cores, as 4 * core + partition,
that take the result (R320). -/
structure WalkFor where
  va : Nat
  stack : Nat
  waiters : List Nat
  deriving DecidableEq, Repr

/-- The media port and the PTP domain that a message comes from (R265). -/
structure PtpSource where
  port : Nat
  domain : Nat
  deriving DecidableEq, Repr

/-- An accepted Sync: measured offset in ns, and the servo's new RATE in parts per 10^9 (R263). -/
structure PtpOffset where
  offset : Int
  rate : Int
  deriving DecidableEq, Repr

/-- An Announce: log2 of its interval in s; `accept` says that the unit selects its master (R265). -/
structure PtpMaster where
  log : Int
  accept : Bool
  deriving DecidableEq, Repr

/-- A flit (R282): 60 bytes of data and the CRC-32C over them. -/
structure Flit where
  data : List Nat
  crc : Nat
  deriving DecidableEq, Repr

/-- What the flits of a link bring (R282): bytes of a packet that goes on in the next flit; its last bytes, with the partition whose
handle it names; the news that the peer has received the packet whose first flit has a number, or asks for a flit again; that a
packet of this card has been consumed; or that one of an instance has been lost on another card's link. -/
inductive FlitMsg where
  | more
  | packet (part : Nat)
  | delivered (seq : Nat)
  | resend (seq : Nat)
  | consumed (part header : Nat)
  | lost (part handle inst : Nat)
  deriving DecidableEq, Repr

/-- What a vertical bus carries (R362): a line of memory, or a contained node's staged copy of it; a register of a warp that lies in the
backing tier or in a saved image, a lane's or, with lane 32, one of the warp's own; a word of a saved core's operand memory, weight
sets or banks. -/
inductive BusData where
  | line (node : Option Nat) (pa : Nat)
  | vreg (w lane n : Nat)
  | preg (w lane n : Nat)
  | sreg (w n : Nat)
  | word (core key : Nat)
  deriving DecidableEq, Repr

/-- One row of spec/opcode_table.json each. The first part are the instructions of chapters 04 to
20; then the stream commands of chapter 12; then the steps of the device's other agents, with the
data that says which one happens. -/
inductive Instr where
  -- Lane integer (05)
  | iadd (o : LOp IExt)
  | isub (o : LOp IExt)
  | imul (o : LOp IExt)
  | imad (o : LXOp IExt)
  | imin (o : LOp IExt)
  | imax (o : LOp IExt)
  | and (o : LOp IExt)
  | or (o : LOp IExt)
  | xor (o : LOp IExt)
  | logt (o : LOp IExt)
  | shl (o : LOp IExt)
  | shr (o : LOp IExt)
  | sar (o : LOp IExt)
  | shf (o : LOp IExt)
  | bfe (o : LOp IExt)
  | bfi (o : LOp IExt)
  | popc (o : L2Op Bool)
  | clz (o : L2Op Bool)
  | ctz (o : L2Op Bool)
  | brev (o : L2Op Bool)
  | iabs (o : L2Op Bool)
  | ineg (o : L2Op Bool)
  | isetp (o : SetpOp ISetpExt)
  | sel (o : LOp IExt)
  | mov (o : L2Op Bool)
  | movi (g d imm : Nat) (lit : Bool)
  | movu (g d n : Nat) (x : Option Bool)
  | spr (g d n : Nat)
  | pset (o : PsetOp)
  | p2v (g d : Nat) (x : Option Nat)
  | v2p (g a : Nat) (x : Option Nat)
  -- Cross-lane (05)
  | shfl (o : LOp ShflExt)
  | vote (o : VoteOp)
  | redw (o : RedwOp)
  | matchw (o : MatchOp)
  -- Lane floating point (06)
  | fadd (o : LOp FExt)
  | fmul (o : LOp FExt)
  | ffma (o : LOp FExt)
  | fmin (o : LOp FExt)
  | fmax (o : LOp FExt)
  | fsetp (o : SetpOp FExt)
  | func (o : FuncOp)
  | flerp (o : LOp PickExt)
  | pkadd (o : LOp FExt)
  | pkmul (o : LOp FExt)
  | pkfma (o : LOp FExt)
  | pkmnmx (o : LOp FExt)
  | dadd (o : LOp FExt)
  | dmul (o : LOp FExt)
  | dfma (o : LOp FExt)
  | cvt (g d a : Nat) (f : CvtForm)
  | plnp (g d a : Nat) (lx : Bool)
  | plnu (g d a : Nat) (x : Option (Nat × Bool))
  | bysel (o : LOp PickExt)
  -- Memory (07)
  | ld (o : MemOp)
  | st (o : MemOp)
  | ldp (o : LdpOp)
  | atom (o : AtomOp)
  | red (o : AtomOp)
  | cas (o : AtomOp)
  | fenceAcq (g scope : Nat)
  | fenceRel (g scope : Nat)
  | fenceAr (g scope : Nat)
  | fenceSc (g scope : Nat)
  | cctlPf (o : CctlOp)
  | cctlPf2 (o : CctlOp)
  | cctlInv (o : CctlOp)
  | cctlWb (o : CctlOp)
  | cctlInvall (o : CctlOp)
  -- Lane control (09)
  | bra (g : Nat) (off : Int)
  | brx (g a : Nat) (lit : Option Nat)
  | call (g d : Nat) (off : Int)
  | rjn (g pd : Nat) (m : RjnMask)
  | exit (g scope : Nat)
  | trap (g n : Nat)
  | bkpt (g : Nat)
  -- Textures, continuations, compositing, media lane forms (14, 15, 17)
  | sample (g d a b : Nat)
  | txf (g d a b : Nat)
  | trace (g n a b : Nat) (off : Int)
  | march (g n a b c : Nat) (buf all : Bool) (lim : Nat) (off : Int)
  | susp (g n : Nat) (off : Int)
  | samplec (g n a b : Nat) (off : Int)
  | cadd (g d a b c : Nat)
  | crd (g d b : Nat)
  | crdCnt (g d b : Nat)
  | crpl (g d a b : Nat)
  | rnd (g d a b : Nat) (int : Bool)
  | srd (g d a : Nat) (norm : Bool) (pd m : Nat)
  | swr (g a b : Nat) (norm : Bool) (m : Nat)
  | tnow (g d sel : Nat)
  -- Uniform (04, 05, 07, 09)
  | uadd (o : UOp)
  | usub (o : UOp)
  | umul (o : UOp)
  | uand (o : UOp)
  | uor (o : UOp)
  | uxor (o : UOp)
  | ushl (o : UOp)
  | ushr (o : UOp)
  | usar (o : UOp)
  | umin (o : UOp)
  | umax (o : UOp)
  | uminu (o : UOp)
  | umaxu (o : UOp)
  | umov (o : UOp)
  | ubra (g : Nat) (off : Int)
  | umovi (g d imm : Nat) (lit : Bool)
  | usetp (o : USetpOp)
  | upset (o : UPsetOp)
  | usel (o : UOp) (gc : Nat)
  | ubfe (o : UOp) (u : Bool)
  | ubit (g d a op : Nat) (sat : Bool)
  | umulh (o : UOp) (u : Bool)
  | usprRead (g d n : Nat)
  | usprWrite (g a n : Nat)
  | ureadl (g d va lane : Nat) (first : Bool)
  | uld (o : UMemOp)
  | ust (o : UMemOp)
  | ucall (g d : Nat) (off : Int)
  | uret (g a : Nat)
  | ujmpx (g a b n : Nat)
  | barSync (o : BarOp)
  | barArrive (o : BarOp)
  | tsleep (g d a : Nat)
  | tbar (g d a id : Nat)
  | utime (g d sel : Nat)
  | launch (g d a : Nat)
  -- Quires and matrix (12, 13)
  | qbind (g d a : Nat) (out : Bool) (n : Nat)
  | sego (o : UXOp) (any : Bool)
  | qwait (g d a n : Nat)
  | qrel (g d a n : Nat)
  | qstat (g d sel n : Nat)
  | secan (g d a : Nat)
  | mclaim (g d : Nat) (wset : Bool) (count : Nat)
  | mrel (g d a : Nat) (wset : Bool) (count : Nat)
  /-- `len` and `doff` in bytes. -/
  | mlds (g a b len doff : Nat)
  | mldsQ (g a b n len doff : Nat)
  | mwld (g a b planes fmt : Nat)
  | mma (g a : Nat)
  | mhad (g a : Nat) (scale : Int) (size fmt : Nat)
  | maccSt (g a b rows cvt : Nat)
  | maccLd (g a b rows cvt : Nat)
  | mzero (g a : Nat)
  | mwait (g d a : Nat)
  -- Compositing banks, triangles, media and collectives (14, 15, 17, 19)
  | cbind (g d a : Nat) (logs : Bool) (logsz : Nat)
  | cbindUnb (g d a : Nat)
  | cflush (g d a : Nat)
  | trisub (o : UXOp) (count : Nat)
  | mbindRx (g d a m : Nat)
  | mbindOut (g d a m : Nat) (inh : Option Nat)
  | frpub (g d a m : Nat)
  | cstart (g d a : Nat)
  | cwait (o : UXOp)
  | cstat (g d a sel : Nat)
  -- System (20)
  | mfsr (g d : Nat) (w : Bool) (n : Nat)
  | mtsr (g a : Nat) (w : Bool) (n : Nat)
  | eret (g : Nat)
  | tlbiPage (g a b part : Nat)
  | tlbiPart (g part : Nat)
  | tlbiAll (g part : Nat)
  | cinvIcache (g part : Nat)
  | cinvCcache (g part : Nat)
  | cinvL1 (g part : Nat)
  | wfi (g : Nat)
  | hirq (g a part : Nat)
  | ecall (g d a code : Nat)
  | halt (g : Nat)
  -- Events: traps, warps, grids
  /-- The next waiting control-core ECALL reaches CC3 (R314). -/
  | serviceCallDelivery
  /-- Warp `w` is served ahead of its class at port `port` (R30). -/
  | starvationPromotion (w port : Nat)
  /-- The rejoin deadlock of warp `w` is broken (R163). -/
  | rejoinDeadlock (w : Nat)
  | registerSpill (w : Nat)
  | registerRecall (w : Nat)
  /-- The exit wait of lane `l` of warp `w` ends (R41). -/
  | completionCountIncrement (w l : Nat)
  | gridRetire (grid : Nat)
  -- Events: scheduler (22)
  /-- The host writes `v` to the notify register of queue `q` through PCIe function `fn` (R330). -/
  | queueNotify (fn q v : Nat)
  | activeSlotClaim (part q : Nat)
  | ringEntryRead (part q : Nat)
  | dispatchDecision (part : Nat)
  | teamPlacement (grid : Nat)
  | wholeCoreSave (core : Nat)
  | coreRestore (core : Nat)
  /-- Kills the relaunched warp `w`, or with `bin` the work of that bin of draw `w` (R326). -/
  | killAndReplay (w : Nat) (bin : Option Nat)
  | recordCompleted (r : Nat)
  /-- The gathering of record `r` is dispatched as a warp on `core` (R227). -/
  | gatheringDispatch (r core : Nat)
  -- Events: translation (21)
  | translationWalk (part asid : Nat) (x : WalkFor)
  | faultRecordWrite (fault : Nat)
  | faultReplyRetry (fn seq : Nat)
  | faultReplyFatal (fn seq : Nat)
  -- Events: memory system (07, 08)
  | mergingFill (core line : Nat)
  | storeApply (id : Nat)
  | storeAcknowledgement (id : Nat)
  | remoteAcknowledgement (id : Nat)
  | atomicAtHome (id : Nat)
  | updateOnlyRecall (core line : Nat)
  /-- The host reads (`none`) or writes the bytes at physical address `pa` (R155). -/
  | hostMemoryAccess (pa size : Nat) (write : Option (List Nat))
  -- Stream commands (12)
  | streamNop
  | base (index : Bool) (addr : Nat)
  | dim (d count : Nat) (stride : Int)
  | tile (rows rowBytes : Nat) (pitch : Int)
  | push (q mask : Nat)
  | pull (q mask : Nat)
  | gath (q mask : Nat)
  | conv (mode : Nat)
  | loop (d : Nat)
  | next (d : Nat)
  | sig (addr : Nat)
  | stop
  -- Events: engines and matrix (12, 13)
  | listCancelled (e p : Nat)
  /-- The transfer `t` has written every byte of its slot on member core `core` (R184). -/
  | slotReady (t core : Nat)
  | drainComplete (t : Nat)
  | tileHandleRequest (core : Nat)
  | matrixOpComplete (core op : Nat)
  | rasterBinProcess (draw bin : Nat)
  -- Events: presentation time and media (17, 18)
  | ptpSync (src : PtpSource) (m : PtpOffset)
  | holdoverEntry (failover : Bool)
  | delayReq
  | mediaPacketReceive (port : Nat) (pkt : MediaPacket)
  | frameObjectClear (flow k : Nat)
  | srdDeadline (w : Nat)
  | tsleepRelease (w : Nat)
  | frameCommit (flow k : Nat)
  | mediaPacketSend (flow : Nat)
  -- Events: Tlalet fabric (19)
  /-- A flit of `link` arrives, and what it brings (R282). -/
  | flitReceive (link : Nat) (flit : Flit) (msg : FlitMsg)
  | linkRetrain (link : Nat) (up : Bool)
  | hopForward (p : Nat)
  | hopAdd (p : Nat)
  | hopDeposit (p : Nat)
  | hopMulticast (p : Nat)
  | chunkSweep (part handle run chunk : Nat)
  | handleWrite (part handle : Nat) (words : List Nat)
  | tbarArrival (group rank time : Nat)
  | tbarListSend (group time : Nat)
  | tbarListReceipt (group time : Nat) (ranks : List Nat)
  | tbarRelease (group time : Nat)
  -- Events: power and heat (22, 23)
  | tokenRefill (stack : Nat)
  | logicTemperatureSample (temps : List Nat)
  | dramTemperatureSample (stack reading : Nat)
  | refreshBlock (vault group : Nat)
  /-- The average inlet power in W over the last ms (R346). -/
  | quietModeAdjust (watts : Nat)
  /-- A vertical-bus transfer of `vault` failed `fails` times, and what it carries (R362). -/
  | verticalBusRetry (vault fails : Nat) (x : BusData)
  -- Events: reliability, control cores, service (20, 24, 26)
  | machineCheckWindowRead (fn : Nat)
  | lrepairWrite (v : Nat)
  | lrepairSelect (v : Nat)
  | laneMapApply (x : Nat)
  | ccrunStart (who cc : Nat)
  | ccrunStop (who cc : Nat)
  | wdogWrite (cc v : Nat)
  | watchdogExpiry (cc : Nat)
  | tick
  | intpClear (cc v : Nat)
  | svcrecRead (cc : Nat)
  | svcrplAnswer (cc v : Nat)
  | svcrplAnswerCc (cc v : Nat)
  | sqctlHoldSet (cc : Nat)
  | sqctlHoldClear (cc : Nat)
  | sqctlSccWrite (cc scc : Nat)
  | mapperQuiet
  | arm (cc operand : Nat)
  | endw (cc operand : Nat)
  | raise (cc operand : Nat)
  -- Events: mailbox, SPDM, bring-up (25)
  | mailboxErase (fn off len : Nat)
  | mailboxProgram (fn off len : Nat)
  | mailboxRead (fn off len : Nat)
  | mailboxCommandDone
  | getVersion
  | getCapabilities
  | negotiateAlgorithms
  | getDigests
  | getCertificate (slot off len : Nat)
  | challenge (slot : Nat) (nonce : List Nat)
  | getMeasurements (index : Nat) (signed : Bool) (nonce : List Nat)
  | unsupportedSpdmRequest (code : Nat)
  | reset
  | hostWake
  | deepestSleepEntry
  | powerRemoval
  | ptpAnnounce (src : PtpSource) (m : PtpMaster)
  | flowDescriptorWrite (flow : Nat) (words : List Nat)
  | queueContextWrite (part q : Nat) (words : List Nat)
  | partitionDescriptorWrite (part : Nat) (words : List Nat)
  | remoteWriteReceive (pa : Nat) (bytes : List Nat)
  | hostDoorbell
  | dtimePassesWch (w : Nat)
  deriving DecidableEq, Repr

end Sys2Proof
end

