-- ==== Sys2Proof/WellFormed.lean ====
section
/-! DEFINITION. Which instructions are well formed: the static checks of R61, R62, R79 and of each instruction's own rules. Register counts declared by a launch are checked at issue. -/

namespace Sys2Proof

/-! ### Fields -/

/-- Lane register field (R61). -/
def okV (n : Nat) : Bool := decide (n < 128)

/-- Start of a lane register group of `k` registers, aligned on `k` (R62). -/
def okVk (k n : Nat) : Bool := decide (n < 128) && n % k == 0

/-- Predicate or lane guard field: 12 to 14 are illegal. -/
def okP (n : Nat) : Bool := decide (n < 12) || n == 15

/-- Uniform register field: 192 to 254 are illegal. -/
def okS (n : Nat) : Bool := decide (n < 192) || n == 255

/-- Start of a uniform group of `k` registers within s0 to s191. -/
def okSk (k n : Nat) : Bool := decide (n + k ≤ 192) && n % k == 0

/-- Uniform predicate or guard field. -/
def okG (n : Nat) : Bool := decide (n < 8)

/-- Signed value within an `n`-bit field. -/
def okI (n : Nat) (v : Int) : Bool := decide (-(2 ^ (n - 1) : Nat) ≤ v) && decide (v < (2 ^ (n - 1) : Nat))

/-- Numbers of Table 4.2. -/
def sprKnown (n : Nat) : Bool := decide (n ≤ 0x18) || n == 0x20 || n == 0x21 || n == 0x22

def LOp.base {ε : Type} (o : LOp ε) : Bool := okP o.g && okV o.d && okV o.a && okV o.b

/-! ### Integer lane instructions (Tables 5.1, 5.2) -/

/-- Which fields of Table 5.1 a major uses. -/
structure IUse where
  c : Bool
  q : Bool
  k : Bool
  u : Bool
  m : Bool
  ci : Bool
  lut : Bool
  deriving DecidableEq, Repr

def IExt.ok (z : IUse) (b : Nat) (e : IExt) : Bool :=
  (if z.c then okV e.c else e.c == 0) &&
  (if z.q then okP e.q else e.q == 0) &&
  (z.k || !e.k) && (z.u || !e.u) && (z.m || !e.m) && (z.ci || (!e.ci && !e.co)) &&
  !(e.m && (e.ci || e.co)) &&
  (if e.k then b == 0 && decide (e.imm < 65536) else if z.lut then decide (e.imm < 256) else e.imm == 0)

def LOp.okI (z : IUse) (o : LOp IExt) : Bool :=
  o.base && (match o.x with
    | none => true
    | some e => e.ok z o.b)

def useAdd : IUse := ⟨false, true, true, true, true, true, false⟩
def useMul : IUse := ⟨false, false, true, true, true, false, false⟩
def useMad : IUse := ⟨true, false, true, true, true, false, false⟩
def useMm : IUse := ⟨false, false, true, true, false, false, false⟩
def useLog : IUse := ⟨false, false, true, false, false, false, false⟩
def useLut : IUse := ⟨true, false, false, false, false, false, true⟩
def useShf : IUse := ⟨true, false, true, false, true, false, false⟩
def useBfi : IUse := ⟨true, false, true, false, false, false, false⟩
def useSel : IUse := ⟨false, true, true, true, false, false, false⟩

/-- BIT (R86): SAT only with IABS and INEG. -/
def L2Op.okBit (sat : Bool) (o : L2Op Bool) : Bool :=
  okP o.g && okV o.d && okV o.a && (sat || o.x != some true)

def SetpOp.okISetp (o : SetpOp ISetpExt) : Bool :=
  okP o.g && decide (o.cmp < 6) && okP o.pd && okV o.a && okV o.b && (match o.x with
    | none => true
    | some e => okP e.pc && okP e.pe && decide (e.comb < 3) && !(o.pd == e.pe && o.pd != 15) &&
        (if e.k then o.b == 0 && decide (e.imm < 65536) else e.imm == 0))

def PsetOp.ok (o : PsetOp) : Bool :=
  okP o.g && okP o.pd && okP o.pa && okP o.pb && decide (o.op < 3) && (match o.x with
    | none => true
    | some (pc, _, op2) => okP pc && decide (op2 < 3))

def LOp.okShfl (o : LOp ShflExt) : Bool :=
  o.base && (match o.x with
    | none => true
    | some e => decide (e.mode < 4) && okP e.pd && (if e.k then o.b == 0 && decide (e.imm < 32) else e.imm == 0))

def VoteOp.ok (o : VoteOp) : Bool :=
  okP o.g && decide (o.sub < 4) && okP o.pa && (if o.sub = 3 then okV o.d else okP o.d) && (match o.x with
    | none => true
    | some (gd, sd) => if o.sub = 3 then gd == 0 && okS sd else okG gd && sd == 0)

def RedwOp.ok (o : RedwOp) : Bool :=
  okP o.g && okV o.d && okV o.a && decide (o.op ≤ 10) && (match o.x with
    | none => true
    | some (rm, sd) => okS sd && decide (rm < 4) && (o.op == 8 || rm == 0))

def MatchOp.ok (o : MatchOp) : Bool :=
  okP o.g && okV o.d && okV o.a && (match o.x with
    | none => true
    | some (pair, pd) => okP pd && (o.all || pd == 15) && (!pair || o.a % 2 == 0))

/-! ### Floating-point lane instructions (Tables 6.1 to 6.7) -/

/-- Which fields of Table 6.1 a major uses. -/
structure FUse where
  c : Bool
  rm : Bool
  k : Bool
  u : Bool
  bf : Bool
  ft : Bool
  deriving DecidableEq, Repr

def FExt.small (e : FExt) : Bool :=
  decide (e.rm < 4) && decide (e.sa < 4) && decide (e.sb < 4) && decide (e.sc < 4) && decide (e.cb < 4) &&
    decide (e.ft < 4)

def FExt.ok (z : FUse) (b : Nat) (e : FExt) : Bool :=
  e.small && (if z.c then okV e.c else e.c == 0 && e.sc == 0) && (z.rm || e.rm == 0) && (z.k || !e.k) &&
  e.q == 0 && e.cb == 0 && (z.u || !e.u) && (z.bf || !e.bf) && (z.ft || e.ft == 0) && decide (e.ft < 2) &&
  (if e.k then b == 0 && e.sb == 0 && e.ft == 0 && !e.u && !e.bf && decide (e.imm < 65536) else e.imm == 0)

/-- `pair` says that the operands are register pairs. -/
def LOp.okF (z : FUse) (pair : Bool) (o : LOp FExt) : Bool :=
  let wide := pair || (match o.x with
    | some e => e.ft == 1
    | none => false)
  o.base && (!wide || (o.d % 2 == 0 && o.a % 2 == 0 && o.b % 2 == 0)) && (match o.x with
    | none => true
    | some e => e.ok z o.b && (!(pair && z.c) || e.c % 2 == 0))

def fuseAdd : FUse := ⟨false, true, true, false, false, false⟩
def fuseFma : FUse := ⟨true, true, true, false, false, false⟩
def fuseMm : FUse := ⟨false, false, true, false, false, true⟩
def fusePk : FUse := ⟨false, true, false, false, true, false⟩
def fusePkFma : FUse := ⟨true, true, false, false, true, false⟩
def fusePkMm : FUse := ⟨false, false, false, true, true, false⟩
def fuseD : FUse := ⟨false, true, false, false, false, false⟩
def fuseDFma : FUse := ⟨true, true, false, false, false, false⟩

def SetpOp.okF (o : SetpOp FExt) : Bool :=
  okP o.g && decide (o.cmp < 8) && okP o.pd && okV o.a && okV o.b && (match o.x with
    | none => true
    | some e => e.small && okP e.c && e.rm == 0 && e.sc == 0 && !e.k && e.imm == 0 && okP e.q && decide (e.cb < 3) &&
        !e.bf && !(e.u && decide (6 ≤ o.cmp)) && !(o.pd == e.q && o.pd != 15) &&
        (e.ft != 1 || (o.a % 2 == 0 && o.b % 2 == 0)))

def LOp.okPick (o : LOp PickExt) : Bool :=
  o.base && (match o.x with
    | none => true
    | some e => if e.k then e.c == 0 && decide (e.imm < 65536) else okV e.c && e.imm == 0)

/-- Width of a CVT format (Table 6.5). -/
def cvtWidth (f : Nat) : Nat :=
  if f = 5 ∨ f = 12 ∨ f = 13 then 64
  else if f = 0 ∨ f = 6 ∨ f = 7 then 32
  else if f = 3 ∨ f = 4 ∨ f = 10 ∨ f = 11 ∨ f = 14 then 8
  else 16

def cvtFloat (f : Nat) : Bool := decide (f ≤ 5)
def cvtInt (f : Nat) : Bool := decide (6 ≤ f) && decide (f ≤ 13)
def cvtUn (f : Nat) : Bool := decide (14 ≤ f) && decide (f ≤ 17)

/-- The pair of formats and the fields its row of Table 6.7 admits. -/
def CvtExt.pairOk (e : CvtExt) : Bool :=
  if cvtFloat e.sf && cvtFloat e.df then
    if e.sf = e.df then
      if e.ri then !e.sat && e.so == 0 else e.rm == 0 && !e.sat
    else !e.ri && e.so == 0
  else !e.ri && e.so == 0 &&
    (if cvtFloat e.sf && cvtInt e.df then !e.sat
     else if cvtInt e.sf && cvtFloat e.df then true
     else if cvtInt e.sf && cvtInt e.df then e.rm == 0
     else if cvtFloat e.sf && cvtUn e.df then e.rm == 0 && !e.sat
     else cvtUn e.sf && decide (e.df < 2) && e.rm == 0 && !e.sat)

def cvtPartOk (f p : Nat) : Bool :=
  if cvtWidth f = 8 then decide (p < 4) else if cvtWidth f = 16 then decide (p < 2) else p == 0

def CvtExt.ok (d a : Nat) (e : CvtExt) : Bool :=
  decide (e.df < 18) && decide (e.sf < 18) && decide (e.rm < 4) && decide (e.so < 4) && e.pairOk &&
    cvtPartOk e.sf e.sp && cvtPartOk e.df e.dp &&
    (cvtWidth e.sf != 64 || a % 2 == 0) && (cvtWidth e.df != 64 || d % 2 == 0)

/-! ### Memory (Tables 7.4 to 7.8) -/

def Space.lanes : Space → Nat
  | .global => 2
  | _ => 1

/-- Registers of a datum of TYPE (Table 7.4). -/
def tyRegs (ty : Nat) : Nat := if ty = 5 then 2 else if ty = 6 then 4 else 1

def ordOk (ord scope : Nat) : Bool := decide (scope < 5) && (ord != 0 || scope == 0)

def MemOp.okCommon (o : MemOp) : Bool :=
  okP o.g && okVk (tyRegs o.ty) o.d && okVk o.space.lanes o.a && decide (o.ty < 7) && ordOk o.ord o.scope &&
  decide (o.rd < 4) &&
  (match o.space with
    | .quire => decide (o.quire < 16) && okS o.sk && (!o.nr || o.a == 0) && okI 9 o.off && o.ord == 0 && o.rd == 0 &&
        !o.inv && !o.poll
    | .global => o.quire == 0 && o.sk == 0 && !o.nr && okI 16 o.off
    | .priv => o.quire == 0 && o.sk == 0 && !o.nr && okI 16 o.off && !o.inv && !o.poll
    | .team => o.quire == 0 && o.sk == 0 && !o.nr && okI 16 o.off && !o.inv && !o.poll && o.rd == 0)

def MemOp.okLd (o : MemOp) : Bool := o.okCommon && decide (o.ord < 2)

def MemOp.okSt (o : MemOp) : Bool :=
  o.okCommon && (o.ord == 0 || o.ord == 2) && o.ty != 1 && o.ty != 3 && !o.inv && !o.poll

def LdpOp.ok (o : LdpOp) : Bool :=
  okP o.g && okV o.d && okVk o.space.lanes o.a && okV o.vb && decide (1 ≤ o.ty) && decide (o.ty < 8) &&
  decide (o.rd < 4) && okI 9 o.off &&
  (match o.space with
    | .quire => decide (o.quire < 16) && okS o.sk && (!o.nr || o.a == 0) && o.rd == 0 && !o.inv
    | .global => o.quire == 0 && o.sk == 0 && !o.nr
    | .priv => false
    | .team => o.quire == 0 && o.sk == 0 && !o.nr && o.rd == 0 && !o.inv)

/-- Registers of an atomic's operand. -/
def atomRegs (ty : Nat) : Nat := if ty = 2 ∨ ty = 3 ∨ ty = 5 then 2 else 1

/-- Types that Table 7.7 lists for an operation. -/
def atomOk (op ty : Nat) : Bool :=
  if op ≤ 2 then decide (ty ≤ 3)
  else if op ≤ 6 then ty == 0 || ty == 2
  else if op ≤ 8 then ty == 0
  else decide (op ≤ 11) && decide (4 ≤ ty) && decide (ty ≤ 7)

def AtomOp.okCommon (o : AtomOp) : Bool :=
  okP o.g && okVk (if o.team then 1 else 2) o.a && decide (o.ord < 4) && ordOk o.ord o.scope && okI 9 o.off

def AtomOp.okAtom (o : AtomOp) : Bool :=
  o.okCommon && atomOk o.op o.ty && okVk (atomRegs o.ty) o.d && okVk (atomRegs o.ty) o.b && o.c == 0

def AtomOp.okRed (o : AtomOp) : Bool :=
  o.okCommon && atomOk o.op o.ty && o.d == 0 && okVk (atomRegs o.ty) o.b && o.c == 0

def AtomOp.okCas (o : AtomOp) : Bool :=
  o.okCommon && decide (o.op < 3) && o.ty == 0 && okVk (2 ^ o.op) o.d && okVk (2 ^ o.op) o.b && okVk (2 ^ o.op) o.c

def CctlOp.ok (pf : Bool) (o : CctlOp) : Bool :=
  okP o.g && okVk (if o.priv then 1 else 2) o.a && okI 16 o.off && (if pf then decide (o.rd < 3) else o.rd == 0)

/-! ### Uniform instructions -/

def litOk (b : Nat) : Option Nat → Bool
  | none => true
  | some l => b == 0 && decide (l < 2 ^ 32)

def UOp.ok (o : UOp) : Bool := okG o.g && okS o.d && okS o.a && okS o.b && litOk o.b o.lit


/-- UST reads its data from D; ULD of one word may discard to sz. -/
def UMemOp.dOk (o : UMemOp) : Bool := if o.width = 0 then okS o.d else okSk (2 ^ o.width) o.d

def UMemOp.okLd (o : UMemOp) : Bool :=
  okG o.g && o.dOk && decide (o.width < 3) && decide (o.scope < 5) && (o.ord || o.scope == 0) &&
  (if o.cst then okS o.a && !o.ord else o.a == 255 || okSk 2 o.a) &&
  (if o.lit then okI 32 o.off else okI 15 o.off)

def UMemOp.okSt (o : UMemOp) : Bool := o.okLd && !o.cst

def BarOp.ok (o : BarOp) : Bool := okG o.g && decide (o.level < 3) && decide (o.id < 16)

def claimOk (wset : Bool) (count : Nat) : Bool :=
  decide (1 ≤ count) && decide (count ≤ 32) && (!wset || count == 1)

/-- MLDS's byte count and offset within a slot (Table 13.3). -/
def mldsOk (len doff : Nat) : Bool :=
  len % 128 == 0 && doff % 128 == 0 && decide (128 ≤ len) && decide (len + doff ≤ 8192)

/-- Members of Table 12.6's field limits that do not depend on the list's state. -/
def tileOk (rows rowBytes : Nat) (pitch : Int) : Bool :=
  decide (1 ≤ rows) && decide (rows ≤ 65536) && decide (1 ≤ rowBytes) && decide (rowBytes ≤ 65536) &&
    rowBytes % 4 == 0 && okI 24 pitch

/-- Well-formed instructions. The steps of the device's other agents carry data of the outside world and
are all well formed. -/
def Instr.wf : Instr → Bool
  | .iadd o => o.okI useAdd
  | .isub o => o.okI useAdd
  | .imul o => o.okI useMul
  | .imad o => okP o.g && okV o.d && okV o.a && okV o.b && o.x.ok useMad o.b
  | .imin o => o.okI useMm
  | .imax o => o.okI useMm
  | .and o => o.okI useLog
  | .or o => o.okI useLog
  | .xor o => o.okI useLog
  | .logt o => o.okI useLut
  | .shl o => o.okI useLog
  | .shr o => o.okI useLog
  | .sar o => o.okI useLog
  | .shf o => o.okI useShf
  | .bfe o => o.okI useMm
  | .bfi o => o.okI useBfi
  | .popc o => o.okBit false
  | .clz o => o.okBit false
  | .ctz o => o.okBit false
  | .brev o => o.okBit false
  | .iabs o => o.okBit true
  | .ineg o => o.okBit true
  | .isetp o => o.okISetp
  | .sel o => o.okI useSel && (o.x.isSome || okP o.b)
  | .mov o => okP o.g && okV o.d && okV o.a && (o.x != some true || (o.d % 2 == 0 && o.a % 2 == 0))
  | .movi g d imm lit => okP g && okV d && (if lit then decide (imm < 2 ^ 32) else decide (imm < 2 ^ 14))
  | .movu g d n x => okP g && okV d && okS n && (x != some true || (d % 2 == 0 && okSk 2 n))
  | .spr g d n => okP g && okV d && sprKnown n
  | .pset o => o.ok
  | .p2v g d x => okP g && okV d && (match x with
      | none => true
      | some m => decide (m < 4096))
  | .v2p g a x => okP g && okV a && (match x with
      | none => true
      | some m => decide (m < 4096))
  | .shfl o => o.okShfl
  | .vote o => o.ok
  | .redw o => o.ok
  | .matchw o => o.ok
  | .fadd o => o.okF fuseAdd false
  | .fmul o => o.okF fuseAdd false
  | .ffma o => o.okF fuseFma false
  | .fmin o => o.okF fuseMm false
  | .fmax o => o.okF fuseMm false
  | .fsetp o => o.okF
  | .func o => okP o.g && okV o.d && okV o.a && decide (o.fn ≤ 6) && (match o.x with
      | none => true
      | some (_, so) => decide (so < 4))
  | .flerp o => o.okPick
  | .pkadd o => o.okF fusePk false
  | .pkmul o => o.okF fusePk false
  | .pkfma o => o.okF fusePkFma false
  | .pkmnmx o => o.okF fusePkMm false
  | .dadd o => o.okF fuseD true
  | .dmul o => o.okF fuseD true
  | .dfma o => o.okF fuseDFma true
  | .cvt g d a f => okP g && okV d && okV a && (match f with
      | .lr c => decide (c < 8)
      | .lx e => e.ok d a)
  | .plnp g d a _ => okP g && okVk 2 d && okVk 2 a
  | .plnu g d a x => okP g && okVk 2 d && okVk 2 a && (match x with
      | none => true
      | some (p, _) => decide (2 ≤ p) && decide (p ≤ 8))
  | .bysel o => o.okPick
  | .ld o => o.okLd
  | .st o => o.okSt
  | .ldp o => o.ok
  | .atom o => o.okAtom
  | .red o => o.okRed
  | .cas o => o.okCas
  | .fenceAcq g s => okP g && decide (s < 5)
  | .fenceRel g s => okP g && decide (s < 5)
  | .fenceAr g s => okP g && decide (s < 5)
  | .fenceSc g s => okP g && decide (s < 5)
  | .cctlPf o => o.ok true
  | .cctlPf2 o => o.ok false
  | .cctlInv o => o.ok false
  | .cctlWb o => o.ok false
  | .cctlInvall o => o.ok false
  | .bra g off => okP g && okI 21 off
  | .brx g a lit => okP g && okV a && litOk 0 lit
  | .call g d off => okP g && okV d && okI 14 off
  | .rjn g pd m => okP g && okP pd && (match m with
      | .reg n => okS n
      | .lit l => decide (l < 2 ^ 32))
  | .exit g s => okP g && decide (1 ≤ s) && decide (s < 5)
  | .trap g n => okP g && decide (n < 128)
  | .bkpt g => okP g
  | .sample g d a b => okP g && okVk 4 d && okVk 4 a && okVk 2 b
  | .txf g d a b => okP g && okVk 4 d && okVk 4 a && okVk 2 b
  | .trace g n a b off => okP g && okV n && okVk 8 a && okVk 2 b && okI 15 off
  | .march g n a b c _ _ lim off => okP g && okV n && okVk 8 a && okVk 2 b && okVk 4 c && decide (lim < 8) && okI 15 off
  | .susp g n off => okP g && okV n && okI 15 off
  | .samplec g n a b off => okP g && okV n && okVk 4 a && okVk 2 b && okI 15 off
  | .cadd g d a b c => okP g && okV d && okVk 4 a && okV b && okV c
  | .crd g d b => okP g && okVk 4 d && okV b
  | .crdCnt g d b => okP g && okVk 4 d && okV b
  | .crpl g d a b => okP g && okVk 8 d && okVk 8 a && okV b
  | .rnd g d a b _ => okP g && okV d && okVk 2 a && okVk 2 b
  | .srd g d a _ pd m => okP g && okVk 4 d && okV a && okP pd && decide (m < 4)
  | .swr g a b _ m => okP g && okVk 4 a && okV b && decide (m < 4)
  | .tnow g d sl => okP g && okVk 2 d && decide (sl < 2)
  | .uadd o => o.ok
  | .usub o => o.ok
  | .umul o => o.ok
  | .uand o => o.ok
  | .uor o => o.ok
  | .uxor o => o.ok
  | .ushl o => o.ok
  | .ushr o => o.ok
  | .usar o => o.ok
  | .umin o => o.ok
  | .umax o => o.ok
  | .uminu o => o.ok
  | .umaxu o => o.ok
  | .umov o => o.ok && o.a == 0
  | .ubra g off => okG g && okI 24 off
  | .umovi g d imm lit => okG g && okS d && (if lit then decide (imm < 2 ^ 32) else decide (imm < 2 ^ 23))
  | .usetp o => okG o.g && okG o.gd && okS o.a && okS o.b && decide (o.cmp < 6) && okG o.gc && decide (o.comb < 3) &&
      litOk o.b o.lit
  | .upset o => okG o.g && okG o.gd && okG o.ga && okG o.gb && decide (o.op < 3)
  | .usel o gc => o.ok && okG gc
  | .ubfe o _ => o.ok
  | .ubit g d a op sat => okG g && okS d && okS a && decide (op < 6) && (decide (4 ≤ op) || !sat)
  | .umulh o _ => o.ok
  | .usprRead g d n => okG g && okS d && sprKnown n
  | .usprWrite g a n => okG g && okS a && n == 0x20
  | .ureadl g d va lane first => okG g && okS d && okV va && decide (lane < 32) && (!first || lane == 0)
  | .uld o => o.okLd
  | .ust o => o.okSt
  | .ucall g d off => okG g && okS d && okI 23 off
  | .uret g a => okG g && okS a
  | .ujmpx g a b n => okG g && okS a && okS b && decide (n < 2 ^ 23)
  | .barSync o => o.ok
  | .barArrive o => o.ok
  | .tsleep g d a => okG g && okS d && okSk 2 a
  | .tbar g d a id => okG g && okS d && okSk 2 a && decide (id < 4)
  | .utime g d sl => okG g && decide (sl < 3) && (if sl = 2 then okS d else okSk 2 d)
  | .launch g d a => okG g && okS d && okSk 2 a
  | .qbind g d a _ n => okG g && okS d && okSk 4 a && decide (n < 16)
  | .sego o any => okG o.g && okS o.d && okSk 2 o.a && okS o.b && (!any || o.b == 0)
  | .qwait g d a n => okG g && okS d && okS a && decide (n < 16)
  | .qrel g d a n => okG g && okS d && okS a && decide (n < 16)
  | .qstat g d sl n => okG g && okS d && decide (sl < 6) && decide (n < 16)
  | .secan g d a => okG g && okS d && okS a
  | .mclaim g d w c => okG g && okS d && claimOk w c
  | .mrel g d a w c => okG g && okS d && okS a && claimOk w c
  | .mlds g a b len doff => okG g && okS a && okS b && mldsOk len doff
  | .mldsQ g a b n len doff => okG g && okS a && okS b && decide (n < 16) && mldsOk len doff
  | .mwld g a b planes fmt => okG g && okS a && okS b && decide (fmt < 6) &&
      (if fmt = 5 then decide (2 ≤ planes) && decide (planes ≤ 8) else planes == 0)
  | .mma g a => okG g && decide (a ≤ 184) && a % 8 == 0
  | .mhad g a scale size fmt => okG g && okS a && okI 5 scale && decide (1 ≤ size) && decide (size < 4) && decide (fmt < 4)
  | .maccSt g a b rows cv => okG g && okS a && okS b && decide (1 ≤ rows) && decide (rows ≤ 128) && decide (cv < 5)
  | .maccLd g a b rows cv => okG g && okS a && okS b && decide (1 ≤ rows) && decide (rows ≤ 128) && decide (cv < 3)
  | .mzero g a => okG g && okS a
  | .mwait g d a => okG g && okS d && okS a
  | .cbind g d a logs logsz => okG g && okS d && okSk 4 a && decide (logsz < 13) && (logs || logsz == 0)
  | .cbindUnb g d a => okG g && okS d && okSk 4 a
  | .cflush g d a => okG g && okS d && okS a
  | .trisub o count => okG o.g && okS o.d && okSk 2 o.a && okS o.b && decide (1 ≤ count) && decide (count ≤ 64)
  | .mbindRx g d a m => okG g && okS d && okSk 4 a && decide (m < 4)
  | .mbindOut g d a m inh => okG g && okS d && okSk 4 a && decide (m < 4) && (match inh with
      | none => true
      | some k => decide (k < 4))
  | .frpub g d a m => okG g && okS d && okSk 2 a && decide (m < 4)
  | .cstart g d a => okG g && okS d && okS a
  | .cwait o => okG o.g && okS o.d && okS o.a && okS o.b
  | .cstat g d a sl => okG g && okS d && okS a && decide (sl < 2)
  | .mfsr g d w n => okG g && (if w then okSk 2 d else okS d) && decide (n < 1024)
  | .mtsr g a w n => okG g && (if w then okSk 2 a else okS a) && decide (n < 1024)
  | .eret g => okG g
  | .tlbiPage g a b part => okG g && okSk 2 a && okS b && decide (part < 8)
  | .tlbiPart g part => okG g && decide (part < 8)
  | .tlbiAll g part => okG g && part == 0
  | .cinvIcache g part => okG g && decide (part < 8)
  | .cinvCcache g part => okG g && decide (part < 8)
  | .cinvL1 g part => okG g && decide (part < 8)
  | .wfi g => okG g
  | .hirq g a part => okG g && okS a && decide (part < 8)
  | .ecall g d a code => okG g && okS d && okS a && decide (code < 256)
  | .halt g => okG g
  | .base _ addr => decide (addr < 2 ^ 52)
  | .dim d count stride => decide (d < 4) && decide (1 ≤ count) && decide (count < 2 ^ 24) && okI 32 stride
  | .tile rows rb pitch => tileOk rows rb pitch
  | .push q mask => decide (q < 16) && decide (mask < 65536)
  | .pull q mask => decide (q < 16) && decide (mask < 65536)
  | .gath q mask => decide (q < 16) && decide (mask < 65536)
  | .conv mode => decide (mode ≤ 5)
  | .loop d => decide (d < 4)
  | .next d => decide (d < 4)
  | .sig addr => decide (addr < 2 ^ 52) && addr % 8 == 0
  | _ => true

end Sys2Proof
end

