-- ==== Sys2Proof/Decode.lean ====
section
/-! DEFINITION. Decoding of words, leaves and stream commands, total and rejecting by name, and the encoder (chapter 04 and the encoding tables of each chapter). -/

namespace Sys2Proof

/-- Why words are not an instruction (Tables 4.4, 4.9, 12.5). -/
inductive Reject where
  /-- Lane major 0x00, the all-zero word included. -/
  | noMajor
  /-- An LX-only major or UX without X. -/
  | needsX
  /-- X on a form that takes none. -/
  | takesNoX
  /-- L on a sub-major that takes no literal. -/
  | takesNoL
  /-- Unassigned sub-operation or sub-major. -/
  | subOp
  /-- A reserved or unused field that is not zero. -/
  | reserved
  /-- A field value the rules call illegal. -/
  | field
  /-- Leaf checks of Table 4.4. -/
  | leafControl | leafX7 | leafLong | leafSlot
  /-- Stream opcode 0x0C to 0x3F. -/
  | badCommand
  /-- Too few bytes. -/
  | short
  deriving DecidableEq, Repr

/-- The words of one instruction: the first, the extension, the third. -/
structure Code where
  w : Nat
  x : Option Nat
  l : Option Nat
  deriving DecidableEq, Repr

def Code.words (c : Code) : Nat := 1 + (if c.x.isSome then 1 else 0) + (if c.l.isSome then 1 else 0)

/-! ### Fields -/

/-- Bits [lo+n-1 : lo]. -/
def bits (w lo n : Nat) : Nat := w / 2 ^ lo % 2 ^ n

def bit (w lo : Nat) : Bool := w / 2 ^ lo % 2 == 1

/-- sext of an `n`-bit field. -/
def signed (v n : Nat) : Int := if v % 2 ^ n < 2 ^ (n - 1) then ((v % 2 ^ n : Nat) : Int) else ((v % 2 ^ n : Nat) : Int) - (2 ^ n : Nat)

/-- The `n`-bit field of a signed value. -/
def field (v : Int) (n : Nat) : Nat := (v % ((2 ^ n : Nat) : Int)).toNat

def b2n (b : Bool) : Nat := if b then 1 else 0

/-- All the named fields (low bit, width) are zero. -/
def zeros (w : Nat) (fs : List (Nat × Nat)) : Bool := fs.all (fun f => bits w f.1 f.2 == 0)

/-- An instruction whose reserved fields hold and which is well formed. -/
def accept (res : Bool) (i : Instr) : Except Reject Instr :=
  if !res then .error .reserved else if i.wf then .ok i else .error .field

/-! ### Extensions -/

def decIExt (e : Nat) : IExt :=
  { c := bits e 25 7, q := bits e 21 4, k := bit e 20, u := bit e 19, m := bit e 18, ci := bit e 17, co := bit e 16,
    imm := bits e 0 16 }

def encIExt (e : IExt) : Nat :=
  e.c * 2 ^ 25 + e.q * 2 ^ 21 + b2n e.k * 2 ^ 20 + b2n e.u * 2 ^ 19 + b2n e.m * 2 ^ 18 + b2n e.ci * 2 ^ 17 +
    b2n e.co * 2 ^ 16 + e.imm

def decISetp (e : Nat) : ISetpExt :=
  { pc := bits e 25 4, pe := bits e 21 4, comb := bits e 17 2, k := bit e 20, u := bit e 19, imm := bits e 0 16 }

def encISetp (e : ISetpExt) : Nat :=
  e.pc * 2 ^ 25 + e.pe * 2 ^ 21 + b2n e.k * 2 ^ 20 + b2n e.u * 2 ^ 19 + e.comb * 2 ^ 17 + e.imm

def decShfl (e : Nat) : ShflExt := { mode := bits e 20 2, k := bit e 19, pd := bits e 15 4, imm := bits e 0 5 }

def encShfl (e : ShflExt) : Nat := e.mode * 2 ^ 20 + b2n e.k * 2 ^ 19 + e.pd * 2 ^ 15 + e.imm

/-- Table 6.1: with K the low half is the immediate. -/
def decFExt (e : Nat) : FExt :=
  let k := bit e 16
  { c := bits e 25 7, rm := bits e 23 2, sa := bits e 21 2, sb := bits e 19 2, sc := bits e 17 2, k := k,
    imm := if k then bits e 0 16 else 0
    q := if k then 0 else bits e 12 4
    cb := if k then 0 else bits e 10 2
    u := !k && bit e 9
    bf := !k && bit e 8
    ft := if k then 0 else bits e 6 2 }

def fextRes (e : Nat) : Bool := bit e 16 || zeros e [(0, 6)]

def encFExt (e : FExt) : Nat :=
  e.c * 2 ^ 25 + e.rm * 2 ^ 23 + e.sa * 2 ^ 21 + e.sb * 2 ^ 19 + e.sc * 2 ^ 17 + b2n e.k * 2 ^ 16 +
    (if e.k then e.imm else e.q * 2 ^ 12 + e.cb * 2 ^ 10 + b2n e.u * 2 ^ 9 + b2n e.bf * 2 ^ 8 + e.ft * 2 ^ 6)

def decPick (e : Nat) : PickExt := { c := bits e 25 7, k := bit e 16, imm := bits e 0 16 }

def encPick (e : PickExt) : Nat := e.c * 2 ^ 25 + b2n e.k * 2 ^ 16 + e.imm

def decCvt (e : Nat) : CvtExt :=
  { df := bits e 20 5, sf := bits e 15 5, rm := bits e 13 2, sat := bit e 12, ri := bit e 11, so := bits e 9 2,
    sp := bits e 7 2, dp := bits e 5 2, ins := bit e 4 }

def encCvt (e : CvtExt) : Nat :=
  e.df * 2 ^ 20 + e.sf * 2 ^ 15 + e.rm * 2 ^ 13 + b2n e.sat * 2 ^ 12 + b2n e.ri * 2 ^ 11 + e.so * 2 ^ 9 + e.sp * 2 ^ 7 +
    e.dp * 2 ^ 5 + b2n e.ins * 2 ^ 4

/-! ### Lane words (R73, Table 4.6) -/

def decSpace (n : Nat) : Option Space :=
  match n with
  | 0 => some .global
  | 1 => some .priv
  | 2 => some .team
  | 3 => some .quire
  | _ => none

def encSpace : Space → Nat
  | .global => 0
  | .priv => 1
  | .team => 2
  | .quire => 3

/-- LD and ST (R129). -/
def decMem (g d a b e : Nat) (sp : Space) : MemOp :=
  match sp with
  | .quire =>
    { g := g, d := d, a := a, space := sp, ty := bits e 18 3, ord := bits e 16 2, scope := bits e 13 3, rd := bits e 11 2,
      inv := bit e 10, poll := bit e 9, off := signed (bits e 0 9) 9, quire := bits b 0 4, sk := bits e 24 8, nr := bit b 4 }
  | _ =>
    { g := g, d := d, a := a, space := sp, ty := bits e 18 3, ord := bits e 16 2, scope := bits e 13 3, rd := bits e 11 2,
      inv := bit e 10, poll := bit e 9, off := signed (b * 2 ^ 9 + bits e 0 9) 16, quire := 0, sk := 0, nr := false }

/-- Reserved fields of LD and ST: B[6:5] in quire space, SK elsewhere. -/
def memRes (b e : Nat) (sp : Space) : Bool :=
  match sp with
  | .quire => zeros b [(5, 2)]
  | _ => zeros e [(24, 8)]

def encMemExt (o : MemOp) : Nat :=
  o.sk * 2 ^ 24 + encSpace o.space * 2 ^ 21 + o.ty * 2 ^ 18 + o.ord * 2 ^ 16 + o.scope * 2 ^ 13 + o.rd * 2 ^ 11 +
    b2n o.inv * 2 ^ 10 + b2n o.poll * 2 ^ 9 + field o.off 9

def encMemB (o : MemOp) : Nat :=
  match o.space with
  | .quire => o.quire + b2n o.nr * 2 ^ 4
  | _ => field o.off 16 / 2 ^ 9

def decLdp (g d a b e : Nat) (sp : Space) : LdpOp :=
  let q := sp == .quire
  { g := g, d := d, a := a, vb := b, space := sp, ty := bits e 18 3, rd := bits e 11 2, inv := bit e 10, sgn := bit e 9,
    off := signed (bits e 0 9) 9, quire := if q then bits e 13 4 else 0, sk := if q then bits e 24 8 else 0,
    nr := q && bit e 17 }

def ldpRes (e : Nat) (sp : Space) : Bool := sp == .quire || zeros e [(24, 8), (13, 5)]

def encLdpExt (o : LdpOp) : Nat :=
  o.sk * 2 ^ 24 + encSpace o.space * 2 ^ 21 + o.ty * 2 ^ 18 + b2n o.nr * 2 ^ 17 + o.quire * 2 ^ 13 + o.rd * 2 ^ 11 +
    b2n o.inv * 2 ^ 10 + b2n o.sgn * 2 ^ 9 + field o.off 9

def decAtom (g d a b e : Nat) : AtomOp :=
  { g := g, d := d, a := a, b := b, c := bits e 25 7, op := bits e 20 5, team := bit e 18, ty := bits e 15 3,
    ord := bits e 13 2, scope := bits e 10 3, off := signed (bits e 0 9) 9 }

def encAtomExt (o : AtomOp) : Nat :=
  o.c * 2 ^ 25 + o.op * 2 ^ 20 + b2n o.team * 2 ^ 18 + o.ty * 2 ^ 15 + o.ord * 2 ^ 13 + o.scope * 2 ^ 10 + field o.off 9

def decCctl (g a b e : Nat) : CctlOp :=
  { g := g, a := a, priv := bit e 18, rd := bits e 11 2, off := signed (b * 2 ^ 9 + bits e 0 9) 16 }

def encCctlExt (op : Nat) (o : CctlOp) : Nat := op * 2 ^ 20 + b2n o.priv * 2 ^ 18 + o.rd * 2 ^ 11 + field (o.off) 9

def decFence (g d a b e : Nat) : Except Reject Instr :=
  let res := d == 0 && a == 0 && b == 0 && zeros e [(20, 12), (18, 1), (0, 13)]
  let sc := bit e 19
  let scope := bits e 13 3
  match bits e 16 2 with
  | 1 => accept (res && !sc) (.fenceAcq g scope)
  | 2 => accept (res && !sc) (.fenceRel g scope)
  | 3 => accept res (if sc then .fenceSc g scope else .fenceAr g scope)
  | _ => .error .subOp

/-- BIT (R86): the sub-operation and SAT. -/
def decBit (g d a sub : Nat) (x : Option Bool) : Except Reject Instr :=
  let o : L2Op Bool := { g := g, d := d, a := a, x := x }
  match sub with
  | 0 => accept true (.popc o)
  | 1 => accept true (.clz o)
  | 2 => accept true (.ctz o)
  | 3 => accept true (.brev o)
  | 4 => accept true (.iabs o)
  | 5 => accept true (.ineg o)
  | _ => .error .subOp

/-- XCALL (R230, R250). -/
def decXcall (g d a b e : Nat) : Except Reject Instr :=
  let off := signed (bits e 0 15) 15
  let plain := zeros e [(25, 7), (15, 5)]
  match bits e 20 5 with
  | 0 => accept plain (.trace g d a b off)
  | 1 => accept true (.march g d a b (bits e 25 7) (bit e 19) (bit e 18) (bits e 15 3) off)
  | 2 => accept (plain && a == 0 && b == 0) (.susp g d off)
  | 3 => accept plain (.samplec g d a b off)
  | _ => .error .subOp

/-- ESC in LX (R248, R274, R276). -/
def decEsc (g d a b e : Nat) : Except Reject Instr :=
  match bits e 20 5 with
  | 0 => accept (zeros e [(0, 20)]) (.cadd g d a b (bits e 25 7))
  | 1 => accept (zeros e [(25, 7), (0, 19)] && a == 0) (if bit e 19 then .crdCnt g d b else .crd g d b)
  | 2 => accept (zeros e [(25, 7), (0, 20)]) (.crpl g d a b)
  | 3 => accept (zeros e [(25, 7), (0, 19)]) (.rnd g d a b (bit e 19))
  | 4 => accept (zeros e [(25, 7), (0, 13)] && b == 0) (.srd g d a (bit e 19) (bits e 15 4) (bits e 13 2))
  | 5 => accept (zeros e [(25, 7), (15, 4), (0, 13)] && d == 0) (.swr g a b (bit e 19) (bits e 13 2))
  | _ => .error .subOp

/-- Majors that exist as LX only (Table 4.6). -/
def lxOnly (maj : Nat) : Bool := maj == 0x04 || (decide (0x30 ≤ maj) && decide (maj ≤ 0x37)) || maj == 0x3D || maj == 0x3E

/-- Majors that exist as LR only. -/
def lrOnly (maj : Nat) : Bool := maj == 0x17 || maj == 0x38 || maj == 0x3A || maj == 0x3C

def decLane (w : Nat) (x : Option Nat) : Except Reject Instr :=
  let g := bits w 27 4
  let maj := bits w 21 6
  let d := bits w 14 7
  let a := bits w 7 7
  let b := bits w 0 7
  let e := x.getD 0
  let iop : LOp IExt := { g := g, d := d, a := a, b := b, x := x.map decIExt }
  let fop : LOp FExt := { g := g, d := d, a := a, b := b, x := x.map decFExt }
  let fres := fextRes e
  let pop : LOp PickExt := { g := g, d := d, a := a, b := b, x := x.map decPick }
  let pres := zeros e [(17, 8)]
  if maj == 0 then .error .noMajor
  else if lxOnly maj && x.isNone then .error .needsX
  else if lrOnly maj && x.isSome then .error .takesNoX
  else match maj with
  | 0x01 => accept true (.iadd iop)
  | 0x02 => accept true (.isub iop)
  | 0x03 => accept true (.imul iop)
  | 0x04 => accept true (.imad { g := g, d := d, a := a, b := b, x := decIExt e })
  | 0x05 => accept true (.imin iop)
  | 0x06 => accept true (.imax iop)
  | 0x07 => accept true (.and iop)
  | 0x08 => accept true (.or iop)
  | 0x09 => accept true (.xor iop)
  | 0x0A => accept true (.logt iop)
  | 0x0B => accept true (.shl iop)
  | 0x0C => accept true (.shr iop)
  | 0x0D => accept true (.sar iop)
  | 0x0E => accept true (.shf iop)
  | 0x0F => accept true (.bfe iop)
  | 0x10 => accept true (.bfi iop)
  | 0x11 =>
    match x with
    | none => decBit g d a b none
    | some e => if b == 0 && zeros e [(25, 7), (0, 19)] then decBit g d a (bits e 20 5) (some (bit e 19)) else .error .reserved
  | 0x12 => accept (zeros e [(29, 3), (16, 1)]) (.isetp { g := g, cmp := bits d 4 3, pd := bits d 0 4, a := a, b := b, x := x.map decISetp })
  | 0x13 => accept true (.sel iop)
  | 0x14 => accept (b == 0 && zeros e [(17, 15), (0, 16)]) (.mov { g := g, d := d, a := a, x := x.map (fun e => bit e 16) })
  | 0x15 =>
    match x with
    | none => accept true (.movi g d (a * 2 ^ 7 + b) false)
    | some e => accept (a == 0 && b == 0) (.movi g d e true)
  | 0x16 => accept (zeros a [(1, 6)] && zeros e [(17, 15), (0, 16)]) (.movu g d (bits a 0 1 * 128 + b) (x.map (fun e => bit e 16)))
  | 0x17 => accept (b == 0) (.spr g d a)
  | 0x18 => accept (zeros d [(4, 3)] && zeros a [(5, 2)] && zeros e [(30, 2), (19, 6), (0, 17)])
      (.pset { g := g, pd := bits d 0 4, pa := bits a 0 4, na := bit a 4, pb := bits b 0 4, nb := bit b 4, op := bits b 5 2,
               x := x.map (fun e => (bits e 25 4, bit e 29, bits e 17 2)) })
  | 0x19 =>
    let sub := match x with
      | none => b
      | some e => bits e 20 5
    let res := (x.isNone || b == 0) && zeros e [(25, 7), (12, 8)]
    let m := x.map (fun e => bits e 0 12)
    match sub with
    | 0 => accept (res && a == 0) (.p2v g d m)
    | 1 => accept (res && d == 0) (.v2p g a m)
    | _ => .error .subOp
  | 0x1A => accept (zeros e [(22, 10), (5, 10)]) (.shfl { g := g, d := d, a := a, b := b, x := x.map decShfl })
  | 0x1B =>
    let sub := match x with
      | none => b
      | some e => bits e 20 5
    accept ((x.isNone || b == 0) && zeros a [(5, 2)] && zeros e [(25, 7), (19, 1), (0, 8)])
      (.vote { g := g, sub := sub, d := d, pa := bits a 0 4, neg := bit a 4, x := x.map (fun e => (bits e 16 3, bits e 8 8)) })
  | 0x1C =>
    let sub := match x with
      | none => b
      | some e => bits e 20 5
    accept ((x.isNone || b == 0) && zeros e [(25, 7), (16, 2), (0, 8)])
      (.redw { g := g, d := d, a := a, op := sub, x := x.map (fun e => (bits e 18 2, bits e 8 8)) })
  | 0x1D =>
    let sub := match x with
      | none => b
      | some e => bits e 20 5
    let res := (x.isNone || b == 0) && zeros e [(25, 7), (17, 3), (0, 12)]
    if decide (1 < sub) then .error .subOp
    else accept res (.matchw { g := g, d := d, a := a, all := sub == 1, x := x.map (fun e => (bit e 16, bits e 12 4)) })
  | 0x1E => accept fres (.fadd fop)
  | 0x1F => accept fres (.fmul fop)
  | 0x20 => accept fres (.ffma fop)
  | 0x21 => accept fres (.fmin fop)
  | 0x22 => accept fres (.fmax fop)
  | 0x23 => accept fres (.fsetp { g := g, cmp := bits d 4 3, pd := bits d 0 4, a := a, b := b, x := x.map decFExt })
  | 0x24 =>
    match x with
    | none => accept true (.func { g := g, d := d, a := a, fn := b, x := none })
    | some e => accept (b == 0 && zeros e [(25, 7), (0, 17)])
        (.func { g := g, d := d, a := a, fn := bits e 20 5, x := some (bit e 19, bits e 17 2) })
  | 0x25 => accept pres (.flerp pop)
  | 0x26 => accept fres (.pkadd fop)
  | 0x27 => accept fres (.pkmul fop)
  | 0x28 => accept fres (.pkfma fop)
  | 0x29 => accept fres (.pkmnmx fop)
  | 0x2A => accept fres (.dadd fop)
  | 0x2B => accept fres (.dmul fop)
  | 0x2C => accept fres (.dfma fop)
  | 0x2D =>
    match x with
    | none => accept true (.cvt g d a (.lr b))
    | some e => accept (b == 0 && zeros e [(25, 7), (0, 4)]) (.cvt g d a (.lx (decCvt e)))
  | 0x2E =>
    match x with
    | none =>
      match b with
      | 0 => accept true (.plnp g d a false)
      | 1 => accept true (.plnu g d a none)
      | _ => .error .subOp
    | some e =>
      let res := b == 0 && zeros e [(25, 7), (0, 15)]
      match bits e 20 5 with
      | 0 => accept (res && zeros e [(15, 5)]) (.plnp g d a true)
      | 1 => accept res (.plnu g d a (some (bits e 16 4, bit e 15)))
      | _ => .error .subOp
  | 0x2F => accept pres (.bysel pop)
  | 0x30 =>
    match decSpace (bits e 21 3) with
    | some sp => accept (memRes b e sp) (.ld (decMem g d a b e sp))
    | none => .error .field
  | 0x31 =>
    match decSpace (bits e 21 3) with
    | some sp => accept (memRes b e sp) (.st (decMem g d a b e sp))
    | none => .error .field
  | 0x32 =>
    match decSpace (bits e 21 3) with
    | some sp => accept (ldpRes e sp) (.ldp (decLdp g d a b e sp))
    | none => .error .field
  | 0x33 => accept (zeros e [(19, 1), (9, 1)]) (.atom (decAtom g d a b e))
  | 0x34 => accept (zeros e [(19, 1), (9, 1)]) (.red (decAtom g d a b e))
  | 0x35 => accept (zeros e [(19, 1), (9, 1)]) (.cas (decAtom g d a b e))
  | 0x36 => decFence g d a b e
  | 0x37 =>
    let o := decCctl g a b e
    let res := d == 0 && zeros e [(25, 7), (19, 1), (13, 5), (9, 2)]
    match bits e 20 5 with
    | 0 => accept res (.cctlPf o)
    | 1 => accept res (.cctlPf2 o)
    | 2 => accept res (.cctlInv o)
    | 3 => accept res (.cctlWb o)
    | 4 => accept res (.cctlInvall o)
    | _ => .error .subOp
  | 0x38 => accept true (.bra g (signed (bits w 0 21) 21))
  | 0x39 => accept (d == 0 && b == 0) (.brx g a x)
  | 0x3A => accept true (.call g d (signed (bits w 0 14) 14))
  | 0x3B =>
    match x with
    | none => accept (zeros d [(4, 3)] && zeros a [(1, 6)]) (.rjn g (bits d 0 4) (.reg (bits a 0 1 * 128 + b)))
    | some e => accept (zeros d [(4, 3)] && a == 0 && b == 0) (.rjn g (bits d 0 4) (.lit e))
  | 0x3C =>
    match b with
    | 0 => accept (a == 0) (.exit g d)
    | 1 => accept (a == 0) (.trap g d)
    | 2 => accept (a == 0 && d == 0) (.bkpt g)
    | _ => .error .subOp
  | 0x3D =>
    match bits e 20 5 with
    | 0 => accept (zeros e [(25, 7), (0, 20)]) (.sample g d a b)
    | 1 => accept (zeros e [(25, 7), (0, 20)]) (.txf g d a b)
    | _ => .error .subOp
  | 0x3E => decXcall g d a b e
  | _ =>
    match x with
    | some e => decEsc g d a b e
    | none => if b == 6 then accept (zeros a [(2, 5)]) (.tnow g d (bits a 0 2)) else .error .subOp

/-! ### Uniform words (R74, R77, Tables 4.7, 4.8) -/

/-- Sub-majors that accept L. -/
def takesL (sub : Nat) : Bool :=
  sub == 0x00 || sub == 0x01 || sub == 0x03 || sub == 0x04 || sub == 0x06 || sub == 0x07 || sub == 0x08

def decUMem (g d a f : Nat) (l : Option Nat) : UMemOp :=
  { g := g, d := d, a := a, cst := bit f 21, width := bits f 19 2, ord := bit f 18, scope := bits f 15 3,
    off := match l with
      | some v => signed v 32
      | none => signed (bits f 0 15) 15
    lit := l.isSome }

def encUMemF (o : UMemOp) : Nat :=
  b2n o.cst * 2 ^ 21 + o.width * 2 ^ 19 + b2n o.ord * 2 ^ 18 + o.scope * 2 ^ 15 + (if o.lit then 0 else field o.off 15)

/-- The sub-majors of UX: sub-major, register fields, FIELDS and the literal. -/
def decUX (g d a b sub f : Nat) (l : Option Nat) : Except Reject Instr :=
  if l.isSome && !takesL sub then .error .takesNoL
  else
  let uop : UOp := { g := g, d := d, a := a, b := b, lit := l }
  match sub with
  | 0x00 =>
    match l with
    | none => accept (a == 0 && b == 0) (.umovi g d f false)
    | some v => accept (a == 0 && b == 0 && f == 0) (.umovi g d v true)
  | 0x01 => accept (zeros d [(3, 5)] && zeros f [(0, 14)])
      (.usetp { g := g, gd := bits d 0 3, a := a, b := b, cmp := bits f 20 3, u := bit f 19, gc := bits f 16 3, comb := bits f 14 2, lit := l })
  | 0x02 => accept (zeros d [(3, 5)] && zeros a [(4, 4)] && zeros b [(4, 4)] && zeros f [(2, 21)])
      (.upset { g := g, gd := bits d 0 3, ga := bits a 0 3, na := bit a 3, gb := bits b 0 3, nb := bit b 3, op := bits f 0 2 })
  | 0x03 => accept (zeros f [(3, 20)]) (.usel uop (bits f 0 3))
  | 0x04 => accept (zeros f [(1, 22)]) (.ubfe uop (bit f 0))
  | 0x05 => accept (b == 0 && zeros f [(4, 19)]) (.ubit g d a (bits f 0 3) (bit f 3))
  | 0x06 => accept (zeros f [(1, 22)]) (.umulh uop (bit f 0))
  | 0x07 => accept (b == 0 && zeros f [(22, 1)] && (l.isNone || zeros f [(0, 15)])) (.uld (decUMem g d a f l))
  | 0x08 => accept (b == 0 && zeros f [(22, 1)] && (l.isNone || zeros f [(0, 15)])) (.ust (decUMem g d a f l))
  | 0x09 =>
    if bit f 7 then accept (b == 0 && d == 255 && zeros f [(8, 15)]) (.usprWrite g a (bits f 0 7))
    else accept (b == 0 && a == 0 && zeros f [(8, 15)]) (.usprRead g d (bits f 0 7))
  | 0x0A => accept (a == 0 && b == 0) (.ucall g d (signed f 23))
  | 0x0B => accept (d == 0 && b == 0 && f == 0) (.uret g a)
  | 0x0C => accept (d == 0) (.ujmpx g a b f)
  | 0x0D => accept (zeros a [(7, 1)] && b == 0 && zeros f [(6, 17)]) (.ureadl g d (bits a 0 7) (bits f 0 5) (bit f 5))
  | 0x10 =>
    let o : BarOp := { g := g, level := bits f 19 2, id := bits f 0 4 }
    let res := d == 0 && a == 0 && b == 0 && zeros f [(4, 15)]
    match bits f 21 2 with
    | 0 => accept res (.barSync o)
    | 1 => accept res (.barArrive o)
    | _ => .error .subOp
  | 0x11 => accept (b == 0 && zeros f [(2, 21)]) (.tbar g d a (bits f 0 2))
  | 0x12 => accept (b == 0 && f == 0) (.tsleep g d a)
  | 0x13 => accept (a == 0 && b == 0 && zeros f [(2, 21)]) (.utime g d (bits f 0 2))
  | 0x14 => accept (b == 0 && f == 0) (.launch g d a)
  | 0x18 => accept (b == 0 && zeros f [(5, 18)]) (.qbind g d a (bit f 4) (bits f 0 4))
  | 0x19 => accept (zeros f [(1, 22)]) (.sego { g := g, d := d, a := a, b := b } (bit f 0))
  | 0x1A => accept (b == 0 && zeros f [(4, 19)]) (.qwait g d a (bits f 0 4))
  | 0x1B => accept (b == 0 && zeros f [(4, 19)]) (.qrel g d a (bits f 0 4))
  | 0x1C => accept (a == 0 && b == 0 && zeros f [(7, 16)]) (.qstat g d (bits f 4 3) (bits f 0 4))
  | 0x1D => accept (b == 0 && f == 0) (.secan g d a)
  | 0x20 => accept (a == 0 && b == 0 && zeros f [(9, 14), (6, 2)]) (.mclaim g d (bit f 8) (bits f 0 6))
  | 0x21 => accept (b == 0 && zeros f [(9, 14), (6, 2)]) (.mrel g d a (bit f 8) (bits f 0 6))
  | 0x22 =>
    let res := d == 0 && zeros f [(17, 1), (0, 5)]
    if bit f 22 then accept res (.mldsQ g a b (bits f 18 4) (128 * (bits f 11 6 + 1)) (128 * bits f 5 6))
    else accept (res && zeros f [(18, 4)]) (.mlds g a b (128 * (bits f 11 6 + 1)) (128 * bits f 5 6))
  | 0x23 => accept (d == 0 && zeros f [(8, 15)]) (.mwld g a b (bits f 4 4) (bits f 0 4))
  | 0x24 => accept (d == 0 && b == 0 && f == 0) (.mma g a)
  | 0x25 => accept (d == 0 && b == 0 && zeros f [(13, 10), (6, 2)]) (.mhad g a (signed (bits f 8 5) 5) (bits f 4 2) (bits f 0 4))
  | 0x26 =>
    let res := d == 0 && zeros f [(16, 7), (4, 4)]
    if bit f 8 then accept res (.maccLd g a b (bits f 9 7 + 1) (bits f 0 4))
    else accept res (.maccSt g a b (bits f 9 7 + 1) (bits f 0 4))
  | 0x27 => accept (d == 0 && b == 0 && f == 0) (.mzero g a)
  | 0x28 => accept (b == 0 && f == 0) (.mwait g d a)
  | 0x30 =>
    if bit f 1 then accept (b == 0 && zeros f [(13, 10), (2, 6), (0, 1), (8, 5)]) (.cbindUnb g d a)
    else accept (b == 0 && zeros f [(13, 10), (2, 6)]) (.cbind g d a (bit f 0) (bits f 8 5))
  | 0x31 => accept (b == 0 && f == 0) (.cflush g d a)
  | 0x32 => accept (zeros f [(6, 17)]) (.trisub { g := g, d := d, a := a, b := b } (bits f 0 6 + 1))
  | 0x38 =>
    let res := b == 0 && zeros f [(6, 17)]
    if bit f 2 then
      if bit f 3 then accept res (.mbindOut g d a (bits f 0 2) (some (bits f 4 2)))
      else accept (res && zeros f [(4, 2)]) (.mbindOut g d a (bits f 0 2) none)
    else accept (res && zeros f [(3, 3)]) (.mbindRx g d a (bits f 0 2))
  | 0x39 => accept (b == 0 && zeros f [(2, 21)]) (.frpub g d a (bits f 0 2))
  | 0x40 => accept (b == 0 && f == 0) (.cstart g d a)
  | 0x41 => accept (f == 0) (.cwait { g := g, d := d, a := a, b := b })
  | 0x42 => accept (b == 0 && zeros f [(1, 22)]) (.cstat g d a (bits f 0 1))
  | 0x80 => accept (a == 0 && b == 0 && zeros f [(13, 10), (10, 2)]) (.mfsr g d (bit f 12) (bits f 0 10))
  | 0x81 => accept (d == 0 && b == 0 && zeros f [(13, 10), (10, 2)]) (.mtsr g a (bit f 12) (bits f 0 10))
  | 0x82 => accept (d == 0 && a == 0 && b == 0 && f == 0) (.eret g)
  | 0x83 =>
    let res := d == 0 && zeros f [(5, 18)]
    let part := bits f 2 3
    match bits f 0 2 with
    | 0 => accept res (.tlbiPage g a b part)
    | 1 => accept (res && a == 0 && b == 0) (.tlbiPart g part)
    | 2 => accept (res && a == 0 && b == 0) (.tlbiAll g part)
    | _ => .error .subOp
  | 0x84 =>
    let res := d == 0 && a == 0 && b == 0 && zeros f [(5, 18)]
    let part := bits f 2 3
    match bits f 0 2 with
    | 0 => accept res (.cinvIcache g part)
    | 1 => accept res (.cinvCcache g part)
    | 2 => accept res (.cinvL1 g part)
    | _ => .error .subOp
  | 0x85 => accept (d == 0 && a == 0 && b == 0 && f == 0) (.wfi g)
  | 0x86 => accept (d == 0 && b == 0 && zeros f [(3, 20)]) (.hirq g a (bits f 0 3))
  | 0x87 => accept (b == 0 && zeros f [(8, 15)]) (.ecall g d a (bits f 0 8))
  | 0x88 => accept (d == 0 && a == 0 && b == 0 && f == 0) (.halt g)
  | _ => .error .subOp

def decUniform (w : Nat) (x l : Option Nat) : Except Reject Instr :=
  let g := bits w 28 3
  let d := bits w 16 8
  let a := bits w 8 8
  let b := bits w 0 8
  let o : UOp := { g := g, d := d, a := a, b := b, lit := x }
  match bits w 24 4 with
  | 0 => accept true (.uadd o)
  | 1 => accept true (.usub o)
  | 2 => accept true (.umul o)
  | 3 => accept true (.uand o)
  | 4 => accept true (.uor o)
  | 5 => accept true (.uxor o)
  | 6 => accept true (.ushl o)
  | 7 => accept true (.ushr o)
  | 8 => accept true (.usar o)
  | 9 => accept true (.umin o)
  | 10 => accept true (.umax o)
  | 11 => accept true (.uminu o)
  | 12 => accept true (.umaxu o)
  | 13 => accept true (.umov o)
  | 14 => if x.isSome then .error .takesNoX else accept true (.ubra g (signed (bits w 0 24) 24))
  | _ =>
    match x with
    | none => .error .needsX
    | some e => decUX g d a b (bits e 24 8) (bits e 0 23) l

/-- Decodes the words of one instruction (R73, R74). -/
def decode (c : Code) : Except Reject Instr :=
  if bit c.w 31 then decUniform c.w c.x c.l else decLane c.w c.x

/-! ### Leaves (R64, R65, R67) -/

/-- The control field of slot `k`. -/
def slotField (ctl k : Nat) : Nat := bits ctl (4 * k - 4) 4

/-- The words of the instruction whose first word stands in slot `k` of a leaf, and its stall count; a
leaf violation is named (Table 4.4). -/
def leafCode (leaf : List Nat) (k : Nat) : Except Reject (Code × Nat) :=
  let ctl := leaf[0]?.getD 0
  let f := slotField ctl k
  let x := decide (8 ≤ f)
  if bits ctl 28 4 != 0 then .error .leafControl
  else if k == 7 && x then .error .leafX7
  else
    let w := leaf[k]?.getD 0
    let e := leaf[k + 1]?.getD 0
    let three := x && bit w 31 && bits w 24 4 == 15 && bit e 23
    if three && decide (6 ≤ k) then .error .leafLong
    else if x && slotField ctl (k + 1) != 0 then .error .leafSlot
    else if three && slotField ctl (k + 2) != 0 then .error .leafSlot
    else .ok ({ w := w, x := if x then some e else none, l := if three then some (leaf[k + 2]?.getD 0) else none }, f % 8)

/-- A little-endian 32-bit word of four bytes. -/
def wordAt (bs : List Byte) (i : Nat) : Nat :=
  (bs[4 * i]?.getD 0).toNat + 2 ^ 8 * (bs[4 * i + 1]?.getD 0).toNat + 2 ^ 16 * (bs[4 * i + 2]?.getD 0).toNat +
    2 ^ 24 * (bs[4 * i + 3]?.getD 0).toNat

/-- The eight words of a leaf's 32 bytes. -/
def leafWords (bs : List Byte) : List Nat := (List.range 8).map (wordAt bs)

/-- Decodes the instruction at slot `k` of the 32 bytes of a leaf: the instruction, its words and its stall count. -/
def decodeLeaf (bs : List Byte) (k : Nat) : Except Reject (Instr × Nat × Nat) :=
  match leafCode (leafWords bs) k with
  | .error r => .error r
  | .ok (c, s) =>
    match decode c with
    | .error r => .error r
    | .ok i => .ok (i, c.words, s)

/-- Decodes an instruction from its bytes, with the X bit of its control field: the instruction and the bytes after it. -/
def decodeBytes (x : Bool) (bs : List Byte) : Except Reject (Instr × List Byte) :=
  let w := wordAt bs 0
  let e := wordAt bs 1
  let three := x && bit w 31 && bits w 24 4 == 15 && bit e 23
  let n := 4 * (1 + b2n x + b2n three)
  if bs.length < n then .error .short
  else
    match decode { w := w, x := if x then some e else none, l := if three then some (wordAt bs 2) else none } with
    | .error r => .error r
    | .ok i => .ok (i, bs.drop n)

/-! ### Stream commands (R196, Table 12.6) -/

def decodeCommand (w : Nat) : Except Reject Instr :=
  match bits w 58 6 with
  | 0x00 => accept (zeros w [(0, 58)]) .streamNop
  | 0x01 => accept (zeros w [(52, 5)]) (.base (bit w 57) (bits w 0 52))
  | 0x02 => accept true (.dim (bits w 56 2) (bits w 32 24) (signed (bits w 0 32) 32))
  | 0x03 => accept true (.tile (bits w 41 17) (bits w 24 17) (signed (bits w 0 24) 24))
  | 0x04 => accept (zeros w [(53, 1), (0, 37)]) (.push (bits w 54 4) (bits w 37 16))
  | 0x05 => accept (zeros w [(53, 1), (0, 37)]) (.pull (bits w 54 4) (bits w 37 16))
  | 0x06 => accept (zeros w [(53, 1), (0, 37)]) (.gath (bits w 54 4) (bits w 37 16))
  | 0x07 => accept (zeros w [(0, 54)]) (.conv (bits w 54 4))
  | 0x08 => accept (zeros w [(0, 56)]) (.loop (bits w 56 2))
  | 0x09 => accept (zeros w [(0, 56)]) (.next (bits w 56 2))
  | 0x0A => accept (zeros w [(52, 6)]) (.sig (bits w 0 52))
  | 0x0B => accept (zeros w [(0, 58)]) .stop
  | _ => .error .badCommand

def encodeCommand : Instr → Option Nat
  | .streamNop => some 0
  | .base ix addr => some (0x01 * 2 ^ 58 + b2n ix * 2 ^ 57 + addr)
  | .dim d count stride => some (0x02 * 2 ^ 58 + d * 2 ^ 56 + count * 2 ^ 32 + field stride 32)
  | .tile rows rb pitch => some (0x03 * 2 ^ 58 + rows * 2 ^ 41 + rb * 2 ^ 24 + field pitch 24)
  | .push q m => some (0x04 * 2 ^ 58 + q * 2 ^ 54 + m * 2 ^ 37)
  | .pull q m => some (0x05 * 2 ^ 58 + q * 2 ^ 54 + m * 2 ^ 37)
  | .gath q m => some (0x06 * 2 ^ 58 + q * 2 ^ 54 + m * 2 ^ 37)
  | .conv mode => some (0x07 * 2 ^ 58 + mode * 2 ^ 54)
  | .loop d => some (0x08 * 2 ^ 58 + d * 2 ^ 56)
  | .next d => some (0x09 * 2 ^ 58 + d * 2 ^ 56)
  | .sig addr => some (0x0A * 2 ^ 58 + addr)
  | .stop => some (0x0B * 2 ^ 58)
  | _ => none

/-! ### The encoder -/

/-- A lane word (Table 4.6a). -/
def laneW (g maj d a b : Nat) : Nat := g * 2 ^ 27 + maj * 2 ^ 21 + d * 2 ^ 14 + a * 2 ^ 7 + b

/-- A uniform word (Table 4.6b). -/
def uniW (g maj d a b : Nat) : Nat := 2 ^ 31 + g * 2 ^ 28 + maj * 2 ^ 24 + d * 2 ^ 16 + a * 2 ^ 8 + b

/-- A UX pair of words, with L for a literal (Table 4.6c). -/
def uxC (g d a b sub f : Nat) (l : Option Nat) : Code :=
  { w := uniW g 15 d a b, x := some (sub * 2 ^ 24 + b2n l.isSome * 2 ^ 23 + f), l := l }

def LOp.code {ε : Type} (maj : Nat) (f : ε → Nat) (o : LOp ε) : Code :=
  { w := laneW o.g maj o.d o.a o.b, x := o.x.map f, l := none }

def UOp.code (maj : Nat) (o : UOp) : Code := { w := uniW o.g maj o.d o.a o.b, x := o.lit, l := none }

def L2Op.bitCode (sub : Nat) (o : L2Op Bool) : Code :=
  match o.x with
  | none => { w := laneW o.g 0x11 o.d o.a sub, x := none, l := none }
  | some s => { w := laneW o.g 0x11 o.d o.a 0, x := some (sub * 2 ^ 20 + b2n s * 2 ^ 19), l := none }

/-- A form whose sub-operation stands in B without X and at [24:20] with it. -/
def subCode (g maj d a sub : Nat) (x : Option Nat) : Code :=
  match x with
  | none => { w := laneW g maj d a sub, x := none, l := none }
  | some e => { w := laneW g maj d a 0, x := some (sub * 2 ^ 20 + e), l := none }

def lxC (g maj d a b e : Nat) : Code := { w := laneW g maj d a b, x := some e, l := none }

def lrC (g maj d a b : Nat) : Code := { w := laneW g maj d a b, x := none, l := none }

/-- The words of an instruction; none for the steps of agents that execute no instruction words, and for
stream commands, whose doubleword is `encodeCommand`'s. -/
def encode : Instr → Option Code
  | .iadd o => some (o.code 0x01 encIExt)
  | .isub o => some (o.code 0x02 encIExt)
  | .imul o => some (o.code 0x03 encIExt)
  | .imad o => some (lxC o.g 0x04 o.d o.a o.b (encIExt o.x))
  | .imin o => some (o.code 0x05 encIExt)
  | .imax o => some (o.code 0x06 encIExt)
  | .and o => some (o.code 0x07 encIExt)
  | .or o => some (o.code 0x08 encIExt)
  | .xor o => some (o.code 0x09 encIExt)
  | .logt o => some (o.code 0x0A encIExt)
  | .shl o => some (o.code 0x0B encIExt)
  | .shr o => some (o.code 0x0C encIExt)
  | .sar o => some (o.code 0x0D encIExt)
  | .shf o => some (o.code 0x0E encIExt)
  | .bfe o => some (o.code 0x0F encIExt)
  | .bfi o => some (o.code 0x10 encIExt)
  | .popc o => some (o.bitCode 0)
  | .clz o => some (o.bitCode 1)
  | .ctz o => some (o.bitCode 2)
  | .brev o => some (o.bitCode 3)
  | .iabs o => some (o.bitCode 4)
  | .ineg o => some (o.bitCode 5)
  | .isetp o => some { w := laneW o.g 0x12 (o.cmp * 16 + o.pd) o.a o.b, x := o.x.map encISetp, l := none }
  | .sel o => some (o.code 0x13 encIExt)
  | .mov o => some { w := laneW o.g 0x14 o.d o.a 0, x := o.x.map (fun p => b2n p * 2 ^ 16), l := none }
  | .movi g d imm lit => some (if lit then lxC g 0x15 d 0 0 imm else lrC g 0x15 d (imm / 2 ^ 7) (imm % 2 ^ 7))
  | .movu g d n x => some { w := laneW g 0x16 d (n / 128) (n % 128), x := x.map (fun p => b2n p * 2 ^ 16), l := none }
  | .spr g d n => some (lrC g 0x17 d n 0)
  | .pset o => some { w := laneW o.g 0x18 o.pd (o.pa + b2n o.na * 16) (o.pb + b2n o.nb * 16 + o.op * 32),
                      x := o.x.map (fun e => b2n e.2.1 * 2 ^ 29 + e.1 * 2 ^ 25 + e.2.2 * 2 ^ 17), l := none }
  | .p2v g d x => some (subCode g 0x19 d 0 0 x)
  | .v2p g a x => some (subCode g 0x19 0 a 1 x)
  | .shfl o => some (o.code 0x1A encShfl)
  | .vote o => some (subCode o.g 0x1B o.d (o.pa + b2n o.neg * 16) o.sub (o.x.map (fun e => e.1 * 2 ^ 16 + e.2 * 2 ^ 8)))
  | .redw o => some (subCode o.g 0x1C o.d o.a o.op (o.x.map (fun e => e.1 * 2 ^ 18 + e.2 * 2 ^ 8)))
  | .matchw o => some (subCode o.g 0x1D o.d o.a (b2n o.all) (o.x.map (fun e => b2n e.1 * 2 ^ 16 + e.2 * 2 ^ 12)))
  | .fadd o => some (o.code 0x1E encFExt)
  | .fmul o => some (o.code 0x1F encFExt)
  | .ffma o => some (o.code 0x20 encFExt)
  | .fmin o => some (o.code 0x21 encFExt)
  | .fmax o => some (o.code 0x22 encFExt)
  | .fsetp o => some { w := laneW o.g 0x23 (o.cmp * 16 + o.pd) o.a o.b, x := o.x.map encFExt, l := none }
  | .func o => some (subCode o.g 0x24 o.d o.a o.fn (o.x.map (fun e => b2n e.1 * 2 ^ 19 + e.2 * 2 ^ 17)))
  | .flerp o => some (o.code 0x25 encPick)
  | .pkadd o => some (o.code 0x26 encFExt)
  | .pkmul o => some (o.code 0x27 encFExt)
  | .pkfma o => some (o.code 0x28 encFExt)
  | .pkmnmx o => some (o.code 0x29 encFExt)
  | .dadd o => some (o.code 0x2A encFExt)
  | .dmul o => some (o.code 0x2B encFExt)
  | .dfma o => some (o.code 0x2C encFExt)
  | .cvt g d a f => some (match f with
      | .lr c => lrC g 0x2D d a c
      | .lx e => lxC g 0x2D d a 0 (encCvt e))
  | .plnp g d a lx => some (if lx then lxC g 0x2E d a 0 0 else lrC g 0x2E d a 0)
  | .plnu g d a x => some (subCode g 0x2E d a 1 (x.map (fun e => e.1 * 2 ^ 16 + b2n e.2 * 2 ^ 15)))
  | .bysel o => some (o.code 0x2F encPick)
  | .ld o => some (lxC o.g 0x30 o.d o.a (encMemB o) (encMemExt o))
  | .st o => some (lxC o.g 0x31 o.d o.a (encMemB o) (encMemExt o))
  | .ldp o => some (lxC o.g 0x32 o.d o.a o.vb (encLdpExt o))
  | .atom o => some (lxC o.g 0x33 o.d o.a o.b (encAtomExt o))
  | .red o => some (lxC o.g 0x34 o.d o.a o.b (encAtomExt o))
  | .cas o => some (lxC o.g 0x35 o.d o.a o.b (encAtomExt o))
  | .fenceAcq g s => some (lxC g 0x36 0 0 0 (1 * 2 ^ 16 + s * 2 ^ 13))
  | .fenceRel g s => some (lxC g 0x36 0 0 0 (2 * 2 ^ 16 + s * 2 ^ 13))
  | .fenceAr g s => some (lxC g 0x36 0 0 0 (3 * 2 ^ 16 + s * 2 ^ 13))
  | .fenceSc g s => some (lxC g 0x36 0 0 0 (2 ^ 19 + 3 * 2 ^ 16 + s * 2 ^ 13))
  | .cctlPf o => some (lxC o.g 0x37 0 o.a (field o.off 16 / 2 ^ 9) (encCctlExt 0 o))
  | .cctlPf2 o => some (lxC o.g 0x37 0 o.a (field o.off 16 / 2 ^ 9) (encCctlExt 1 o))
  | .cctlInv o => some (lxC o.g 0x37 0 o.a (field o.off 16 / 2 ^ 9) (encCctlExt 2 o))
  | .cctlWb o => some (lxC o.g 0x37 0 o.a (field o.off 16 / 2 ^ 9) (encCctlExt 3 o))
  | .cctlInvall o => some (lxC o.g 0x37 0 o.a (field o.off 16 / 2 ^ 9) (encCctlExt 4 o))
  | .bra g off => some { w := g * 2 ^ 27 + 0x38 * 2 ^ 21 + field off 21, x := none, l := none }
  | .brx g a lit => some { w := laneW g 0x39 0 a 0, x := lit, l := none }
  | .call g d off => some { w := g * 2 ^ 27 + 0x3A * 2 ^ 21 + d * 2 ^ 14 + field off 14, x := none, l := none }
  | .rjn g pd m => some (match m with
      | .reg n => lrC g 0x3B pd (n / 128) (n % 128)
      | .lit l => lxC g 0x3B pd 0 0 l)
  | .exit g s => some (lrC g 0x3C s 0 0)
  | .trap g n => some (lrC g 0x3C n 0 1)
  | .bkpt g => some (lrC g 0x3C 0 0 2)
  | .sample g d a b => some (lxC g 0x3D d a b 0)
  | .txf g d a b => some (lxC g 0x3D d a b (1 * 2 ^ 20))
  | .trace g n a b off => some (lxC g 0x3E n a b (field off 15))
  | .march g n a b c buf all lim off => some (lxC g 0x3E n a b
      (c * 2 ^ 25 + 1 * 2 ^ 20 + b2n buf * 2 ^ 19 + b2n all * 2 ^ 18 + lim * 2 ^ 15 + field off 15))
  | .susp g n off => some (lxC g 0x3E n 0 0 (2 * 2 ^ 20 + field off 15))
  | .samplec g n a b off => some (lxC g 0x3E n a b (3 * 2 ^ 20 + field off 15))
  | .cadd g d a b c => some (lxC g 0x3F d a b (c * 2 ^ 25))
  | .crd g d b => some (lxC g 0x3F d 0 b (1 * 2 ^ 20))
  | .crdCnt g d b => some (lxC g 0x3F d 0 b (1 * 2 ^ 20 + 2 ^ 19))
  | .crpl g d a b => some (lxC g 0x3F d a b (2 * 2 ^ 20))
  | .rnd g d a b int => some (lxC g 0x3F d a b (3 * 2 ^ 20 + b2n int * 2 ^ 19))
  | .srd g d a norm pd m => some (lxC g 0x3F d a 0 (4 * 2 ^ 20 + b2n norm * 2 ^ 19 + pd * 2 ^ 15 + m * 2 ^ 13))
  | .swr g a b norm m => some (lxC g 0x3F 0 a b (5 * 2 ^ 20 + b2n norm * 2 ^ 19 + m * 2 ^ 13))
  | .tnow g d sl => some (lrC g 0x3F d sl 6)
  | .uadd o => some (o.code 0)
  | .usub o => some (o.code 1)
  | .umul o => some (o.code 2)
  | .uand o => some (o.code 3)
  | .uor o => some (o.code 4)
  | .uxor o => some (o.code 5)
  | .ushl o => some (o.code 6)
  | .ushr o => some (o.code 7)
  | .usar o => some (o.code 8)
  | .umin o => some (o.code 9)
  | .umax o => some (o.code 10)
  | .uminu o => some (o.code 11)
  | .umaxu o => some (o.code 12)
  | .umov o => some (o.code 13)
  | .ubra g off => some { w := 2 ^ 31 + g * 2 ^ 28 + 14 * 2 ^ 24 + field off 24, x := none, l := none }
  | .umovi g d imm lit => some (if lit then uxC g d 0 0 0x00 0 (some imm) else uxC g d 0 0 0x00 imm none)
  | .usetp o => some (uxC o.g o.gd o.a o.b 0x01 (o.cmp * 2 ^ 20 + b2n o.u * 2 ^ 19 + o.gc * 2 ^ 16 + o.comb * 2 ^ 14) o.lit)
  | .upset o => some (uxC o.g o.gd (o.ga + b2n o.na * 8) (o.gb + b2n o.nb * 8) 0x02 o.op none)
  | .usel o gc => some (uxC o.g o.d o.a o.b 0x03 gc o.lit)
  | .ubfe o u => some (uxC o.g o.d o.a o.b 0x04 (b2n u) o.lit)
  | .ubit g d a op sat => some (uxC g d a 0 0x05 (op + b2n sat * 8) none)
  | .umulh o u => some (uxC o.g o.d o.a o.b 0x06 (b2n u) o.lit)
  | .usprRead g d n => some (uxC g d 0 0 0x09 n none)
  | .usprWrite g a n => some (uxC g 255 a 0 0x09 (128 + n) none)
  | .ureadl g d va lane first => some (uxC g d va 0 0x0D (lane + b2n first * 32) none)
  | .uld o => some (uxC o.g o.d o.a 0 0x07 (encUMemF o) (if o.lit then some (field o.off 32) else none))
  | .ust o => some (uxC o.g o.d o.a 0 0x08 (encUMemF o) (if o.lit then some (field o.off 32) else none))
  | .ucall g d off => some (uxC g d 0 0 0x0A (field off 23) none)
  | .uret g a => some (uxC g 0 a 0 0x0B 0 none)
  | .ujmpx g a b n => some (uxC g 0 a b 0x0C n none)
  | .barSync o => some (uxC o.g 0 0 0 0x10 (o.level * 2 ^ 19 + o.id) none)
  | .barArrive o => some (uxC o.g 0 0 0 0x10 (1 * 2 ^ 21 + o.level * 2 ^ 19 + o.id) none)
  | .tsleep g d a => some (uxC g d a 0 0x12 0 none)
  | .tbar g d a id => some (uxC g d a 0 0x11 id none)
  | .utime g d sl => some (uxC g d 0 0 0x13 sl none)
  | .launch g d a => some (uxC g d a 0 0x14 0 none)
  | .qbind g d a out n => some (uxC g d a 0 0x18 (b2n out * 16 + n) none)
  | .sego o any => some (uxC o.g o.d o.a o.b 0x19 (b2n any) none)
  | .qwait g d a n => some (uxC g d a 0 0x1A n none)
  | .qrel g d a n => some (uxC g d a 0 0x1B n none)
  | .qstat g d sl n => some (uxC g d 0 0 0x1C (sl * 16 + n) none)
  | .secan g d a => some (uxC g d a 0 0x1D 0 none)
  | .mclaim g d w c => some (uxC g d 0 0 0x20 (b2n w * 256 + c) none)
  | .mrel g d a w c => some (uxC g d a 0 0x21 (b2n w * 256 + c) none)
  | .mlds g a b len doff => some (uxC g 0 a b 0x22 ((len / 128 - 1) * 2 ^ 11 + doff / 128 * 2 ^ 5) none)
  | .mldsQ g a b n len doff => some (uxC g 0 a b 0x22 (2 ^ 22 + n * 2 ^ 18 + (len / 128 - 1) * 2 ^ 11 + doff / 128 * 2 ^ 5) none)
  | .mwld g a b planes fmt => some (uxC g 0 a b 0x23 (planes * 16 + fmt) none)
  | .mma g a => some (uxC g 0 a 0 0x24 0 none)
  | .mhad g a scale size fmt => some (uxC g 0 a 0 0x25 (field scale 5 * 2 ^ 8 + size * 16 + fmt) none)
  | .maccSt g a b rows cv => some (uxC g 0 a b 0x26 ((rows - 1) * 2 ^ 9 + cv) none)
  | .maccLd g a b rows cv => some (uxC g 0 a b 0x26 ((rows - 1) * 2 ^ 9 + 2 ^ 8 + cv) none)
  | .mzero g a => some (uxC g 0 a 0 0x27 0 none)
  | .mwait g d a => some (uxC g d a 0 0x28 0 none)
  | .cbind g d a logs logsz => some (uxC g d a 0 0x30 (b2n logs + logsz * 2 ^ 8) none)
  | .cbindUnb g d a => some (uxC g d a 0 0x30 2 none)
  | .cflush g d a => some (uxC g d a 0 0x31 0 none)
  | .trisub o count => some (uxC o.g o.d o.a o.b 0x32 (count - 1) none)
  | .mbindRx g d a m => some (uxC g d a 0 0x38 m none)
  | .mbindOut g d a m inh => some (uxC g d a 0 0x38 (match inh with
      | none => m + 4
      | some k => m + 12 + k * 16) none)
  | .frpub g d a m => some (uxC g d a 0 0x39 m none)
  | .cstart g d a => some (uxC g d a 0 0x40 0 none)
  | .cwait o => some (uxC o.g o.d o.a o.b 0x41 0 none)
  | .cstat g d a sl => some (uxC g d a 0 0x42 sl none)
  | .mfsr g d w n => some (uxC g d 0 0 0x80 (b2n w * 2 ^ 12 + n) none)
  | .mtsr g a w n => some (uxC g 0 a 0 0x81 (b2n w * 2 ^ 12 + n) none)
  | .eret g => some (uxC g 0 0 0 0x82 0 none)
  | .tlbiPage g a b part => some (uxC g 0 a b 0x83 (part * 4) none)
  | .tlbiPart g part => some (uxC g 0 0 0 0x83 (part * 4 + 1) none)
  | .tlbiAll g part => some (uxC g 0 0 0 0x83 (part * 4 + 2) none)
  | .cinvIcache g part => some (uxC g 0 0 0 0x84 (part * 4) none)
  | .cinvCcache g part => some (uxC g 0 0 0 0x84 (part * 4 + 1) none)
  | .cinvL1 g part => some (uxC g 0 0 0 0x84 (part * 4 + 2) none)
  | .wfi g => some (uxC g 0 0 0 0x85 0 none)
  | .hirq g a part => some (uxC g 0 a 0 0x86 part none)
  | .ecall g d a code => some (uxC g d a 0 0x87 code none)
  | .halt g => some (uxC g 0 0 0 0x88 0 none)
  | _ => none

/-- Words of an instruction, 0 for the steps that have none. -/
def Instr.words (i : Instr) : Nat :=
  match encode i with
  | some c => c.words
  | none => 0

/-! ### Words numbered as the opcode table numbers them -/

/-- Whether an instruction of `nbits` bits starting with word `w` has an extension word: a longer form, UX, or a major that exists as LX only. -/
def tableX (nbits w : Nat) : Bool :=
  decide (32 < nbits) || (bit w 31 && bits w 24 4 == 15) || (!bit w 31 && lxOnly (bits w 21 6))

/-- The bytes of the instruction in memory, each word little-endian: three words, those above `nbits` zero. -/
def tableBytes (nbits w : Nat) : List Byte :=
  let v := w % 2 ^ nbits
  (List.range 12).map (fun i => BitVec.ofNat 8 (v / 2 ^ (8 * i)))

def decodeTableWord (nbits w : Nat) : Option Instr :=
  match decodeBytes (tableX nbits (w % 2 ^ 32)) (tableBytes nbits w) with
  | .ok (i, _) => some i
  | .error _ => none

end Sys2Proof
end

