-- ==== Sys2Proof/Config.lean ====
section
/-! DEFINITION. What the manual leaves open: free values, each an opaque constant with no body. -/

namespace Sys2Proof.Config

/-- A free choice among `n` possibilities: the model takes it modulo `n` (R71, R189, R204, R227).
The argument is the counter `Dev.nonce`. -/
opaque freeChoice : Nat → Nat

/-- A free 32-bit value (R221: elements of a failed bank). The argument is the counter `Dev.nonce`. -/
opaque freeWord : Nat → Word

/-- A byte of an accumulator bank that its team has not written: the bank is not cleared when a team begins (R205). The
argument is 32,768 times the bank's key, plus the byte. -/
opaque freeBank : Nat → Byte

/-- The L1 set of a line (R126): not specified, a function of the line number. -/
opaque l1Set : Nat → Nat

/-- The contents of the mask ROM that measurement 1 digests (Table 25.3). -/
opaque romImage : List Byte

/-- The number under which Farimon's registry of extended asymmetric algorithms lists SLH-DSA-SHA2-192s, with the registry's own in the
lowest byte (Table 25.2): the manual gives neither. -/
opaque spdmAlgorithm : Nat

/-- What CAPABILITIES states of this device beside its flags (DSP0274 1.3): the exponent of the time for a signature, the largest
message it takes in one transfer, and the largest message. The manual gives none of them. -/
opaque spdmExponent : Nat
opaque spdmTransfer : Nat
opaque spdmMessage : Nat

/-- The bytes of the flash device, which the manual does not size (R376). -/
opaque flashSize : Nat

/-- A locked run: consecutive Sync messages whose offset stays within 40 ns (R264). -/
abbrev lockRun : Nat := 16

end Sys2Proof.Config
end

