-- ==== Sys2Proof/Machine/Bits.lean ====
section
/-! DEFINITION. Bit fields, byte strings, lane masks and the finite maps of the state. -/

namespace Sys2Proof.Machine

/-! ### Containers -/

/-- A finite map by number: keys strictly rising. -/
abbrev Map (α : Type) := List (Nat × α)

/-- Physical memory (R315): address and byte pairs, addresses strictly rising, no entry equal to
`unlistedByte`. -/
abbrev Memory := List Host.Cell

/-- What an unlisted byte of memory reads as. [DESIGN CHOICE, unsafe] (entry 1) -/
abbrev unlistedByte : Byte := 0

/-! ### Numbers -/

/-- Bits [lo+n-1 : lo] of `w`. -/
def fld (w lo n : Nat) : Nat := w / 2 ^ lo % 2 ^ n

/-- Bit `i` of `w`. -/
def bitOf (w i : Nat) : Bool := w / 2 ^ i % 2 == 1

/-- sext(v, n): the signed value of the low `n` bits of `v`. -/
def sx (v n : Nat) : Int :=
  let u := v % 2 ^ n
  if u < 2 ^ (n - 1) then (u : Int) else (u : Int) - (2 ^ n : Nat)

/-- The `n`-bit field of an integer, modulo 2^n. -/
def ux (v : Int) (n : Nat) : Nat := (v % ((2 ^ n : Nat) : Int)).toNat

def boolN (b : Bool) : Nat := if b then 1 else 0

/-- Concatenation of two words, the high one first. -/
def cat (hi lo : Word) : Nat := hi.toNat * 2 ^ 32 + lo.toNat

/-- Low and high word of a number. -/
def lo32 (n : Nat) : Word := word n

def hi32 (n : Nat) : Word := word (n / 2 ^ 32)

/-- `n` rounded up to a multiple of `m`. -/
def alignUp (n m : Nat) : Nat := (n + m - 1) / m * m

/-- The `k` lowest bytes of `v`, lowest first. -/
def bytesOf : Nat → Nat → List Byte
  | 0, _ => []
  | k + 1, v => BitVec.ofNat 8 v :: bytesOf k (v / 256)

/-- The number of a little-endian byte string. -/
def ofBytes : List Byte → Nat
  | [] => 0
  | b :: bs => b.toNat + 256 * ofBytes bs

/-- The `k` words of `v`, least significant first. -/
def wordsOf : Nat → Nat → List Word
  | 0, _ => []
  | k + 1, v => word v :: wordsOf k (v / 2 ^ 32)

def ofWords : List Word → Nat
  | [] => 0
  | w :: ws => w.toNat + 2 ^ 32 * ofWords ws

/-- Nat values to bytes. -/
def toBytes (l : List Nat) : List Byte := l.map (BitVec.ofNat 8)

/-- CRC-32C after one more byte: the Castagnoli polynomial, bits lowest first. -/
def crc32cByte (c b : Nat) : Nat :=
  (List.range 8).foldl (fun c _ => if c % 2 = 1 then c / 2 ^^^ 0x82F63B78 else c / 2) (c ^^^ b % 256)

/-- CRC-32C of bytes (R282). -/
def crc32c (bs : List Nat) : Nat := bs.foldl crc32cByte 0xFFFFFFFF ^^^ 0xFFFFFFFF

/-! ### Lane masks -/

/-- The mask of a list of lane numbers. -/
def maskOf (ls : List Nat) : Word := ls.foldl (fun m l => m ||| (1#32 <<< l)) 0

/-- Membership in a mask. -/
def inMask (m : Word) (l : Nat) : Bool := m.getLsbD l

/-- The lanes of a mask, rising. -/
def lanesOf (m : Word) : List Nat := (List.range 32).filter (inMask m)

/-- A number's bits as a list of indices below `n`. -/
def bitsOf (m n : Nat) : List Nat := (List.range n).filter (bitOf m)

/-! ### Maps -/

/-- Entry of a map. -/
def lookM {α : Type} : Map α → Nat → Option α
  | [], _ => none
  | (j, v) :: m, k => if j = k then some v else lookM m k

/-- Insert or replace, keeping keys strictly rising. -/
def putM {α : Type} : Map α → Nat → α → Map α
  | [], k, v => [(k, v)]
  | (j, u) :: m, k, v =>
    if k < j then (k, v) :: (j, u) :: m
    else if k = j then (k, v) :: m
    else (j, u) :: putM m k v

/-- Remove an entry. -/
def delM {α : Type} : Map α → Nat → Map α
  | [], _ => []
  | (j, u) :: m, k => if j = k then delM m k else (j, u) :: delM m k

/-- Entry or a default value. -/
def lookD {α : Type} (m : Map α) (k : Nat) (d : α) : α := (lookM m k).getD d

/-- Put a value in a map whose unlisted entries read `d`, so that `d` itself is never listed. -/
def putD {α : Type} [DecidableEq α] (m : Map α) (k : Nat) (v d : α) : Map α :=
  if v = d then delM m k else putM m k v

/-- Change an entry that exists. -/
def modM {α : Type} (m : Map α) (k : Nat) (f : α → α) : Map α :=
  match lookM m k with
  | some v => putM m k (f v)
  | none => m

/-- Change every entry. -/
def mapM' {α : Type} (m : Map α) (f : Nat → α → α) : Map α := m.map (fun e => (e.1, f e.1 e.2))

/-- Keep the entries that satisfy a test. -/
def filterM {α : Type} (m : Map α) (f : Nat → α → Bool) : Map α := m.filter (fun e => f e.1 e.2)

/-- The least key not below `lo` that a map does not hold, trying `n` keys. -/
def freeKey {α : Type} (m : Map α) (lo : Nat) : Nat → Option Nat
  | 0 => none
  | n + 1 => if (lookM m lo).isNone then some lo else freeKey m (lo + 1) n

/-! ### Lists -/

/-- Element of a list or a default. -/
def nthD {α : Type} (l : List α) (i : Nat) (d : α) : α := (l[i]?).getD d

/-- Replace element `i`. -/
def setNth {α : Type} (l : List α) (i : Nat) (v : α) : List α := l.set i v

/-- Change element `i`. -/
def modNth {α : Type} (l : List α) (i : Nat) (f : α → α) : List α :=
  match l[i]? with
  | some v => l.set i (f v)
  | none => l

/-- Add to a list of distinct elements. -/
def addNew (l : List Nat) (x : Nat) : List Nat := if l.contains x then l else l ++ [x]

/-- Element `f` of those with the least measure, first on ties. -/
def minBy {α : Type} (f : α → Nat) : List α → Option α
  | [] => none
  | x :: xs =>
    match minBy f xs with
    | none => some x
    | some y => if f x ≤ f y then some x else some y

/-! ### Memory -/

/-- The byte at an address. -/
def Memory.read : Memory → Nat → Byte
  | [], _ => unlistedByte
  | (b, v) :: m, a => if b = a then v else if a < b then unlistedByte else Memory.read m a

/-- Store one byte, keeping the canonical form. -/
def Memory.write : Memory → Nat → Byte → Memory
  | [], a, v => if v = unlistedByte then [] else [(a, v)]
  | (b, u) :: m, a, v =>
    if a < b then (if v = unlistedByte then (b, u) :: m else (a, v) :: (b, u) :: m)
    else if a = b then (if v = unlistedByte then m else (a, v) :: m)
    else (b, u) :: Memory.write m a v

/-- Store a list of bytes in order. -/
def Memory.writes (m : Memory) : List (Nat × Byte) → Memory
  | [] => m
  | (a, v) :: l => Memory.writes (m.write a v) l

/-- The canonical form above address `lo`: addresses strictly rising, no unlisted value listed. -/
def Memory.wfFrom : Nat → Memory → Bool
  | _, [] => true
  | lo, (a, v) :: m => decide (lo ≤ a) && (v != unlistedByte) && Memory.wfFrom (a + 1) m

/-- The canonical form of memory. -/
def Memory.wf (m : Memory) : Bool := Memory.wfFrom 0 m

/-- `n` bytes from an address up. -/
def Memory.readN (m : Memory) (a : Nat) : Nat → List Byte
  | 0 => []
  | n + 1 => m.read a :: m.readN (a + 1) n

end Sys2Proof.Machine
end

