-- ==== Sys2Proof/Machine/Num.lean ====
section
/-! DEFINITION. Number formats and exact arithmetic (chapter 03): every value is exact until one rounding. -/

namespace Sys2Proof.Machine

/-! ### Formats (R44, Table 3.1) -/

structure Fmt where
  e : Nat
  f : Nat
  bias : Nat
  w : Nat
  /-- E4M3: no infinity, one NaN fraction (R44). -/
  e4m3 : Bool
  deriving DecidableEq, Repr

def Fmt.f64 : Fmt := ⟨11, 52, 1023, 64, false⟩
def Fmt.f32 : Fmt := ⟨8, 23, 127, 32, false⟩
def Fmt.f16 : Fmt := ⟨5, 10, 15, 16, false⟩
def Fmt.bf16 : Fmt := ⟨8, 7, 127, 16, false⟩
def Fmt.e4 : Fmt := ⟨4, 3, 7, 8, true⟩
def Fmt.e5 : Fmt := ⟨5, 2, 15, 8, false⟩

/-- Rounding modes (Table 3.3), by their codes. -/
inductive Rm where
  | rne | rz | ru | rd
  deriving DecidableEq, Repr

def Rm.of (n : Nat) : Rm := if n = 0 then .rne else if n = 1 then .rz else if n = 2 then .ru else .rd

/-- A decoded value: `fin neg m e` is ±m·2^e. -/
inductive Val where
  | nan (sig : Bool)
  | inf (neg : Bool)
  | fin (neg : Bool) (m : Nat) (e : Int)
  deriving DecidableEq, Repr

/-- A result pattern and its flags of Table 3.5: 16 NV, 8 DZ, 4 OF, 2 UF, 1 NX. -/
structure FR where
  bits : Nat
  fl : Nat
  deriving DecidableEq, Repr

def flNV : Nat := 16
def flDZ : Nat := 8

/-- Union of flag sets. -/
def orFl (a b : Nat) : Nat := a ||| b

/-- Canonical NaN (Table 3.1). -/
def Fmt.cnan (t : Fmt) : Nat :=
  if t.e4m3 then 0x7F else (2 ^ t.e - 1) * 2 ^ t.f + 2 ^ (t.f - 1)

/-- Pattern of +infinity; E4M3 has none, its canonical NaN stands there (Table 3.4). -/
def Fmt.infP (t : Fmt) : Nat := if t.e4m3 then 0x7F else (2 ^ t.e - 1) * 2 ^ t.f

/-- Pattern of the largest finite value. -/
def Fmt.maxP (t : Fmt) : Nat := if t.e4m3 then 0x7E else (2 ^ t.e - 1) * 2 ^ t.f - 1

def Fmt.signP (t : Fmt) (neg : Bool) : Nat := if neg then 2 ^ (t.w - 1) else 0

/-- The exponent of the unit in the last place of a subnormal. -/
def Fmt.qmin (t : Fmt) : Int := 1 - (t.bias : Int) - (t.f : Int)

/-- The value of a pattern (R44, R45). -/
def decodeF (t : Fmt) (p : Nat) : Val :=
  let neg := bitOf p (t.w - 1)
  let e := fld p t.f t.e
  let f := fld p 0 t.f
  if t.e4m3 then
    if e = 15 ∧ f = 7 then .nan false
    else if e = 0 then .fin neg f t.qmin else .fin neg (2 ^ t.f + f) (t.qmin + (e : Int) - 1)
  else if e = 2 ^ t.e - 1 then
    if f = 0 then .inf neg else .nan (t.w != 8 && !bitOf f (t.f - 1))
  else if e = 0 then .fin neg f t.qmin
  else .fin neg (2 ^ t.f + f) (t.qmin + (e : Int) - 1)

def Val.isNan : Val → Bool
  | .nan _ => true
  | _ => false

def Val.isSig : Val → Bool
  | .nan s => s
  | _ => false

def Val.isZero : Val → Bool
  | .fin _ 0 _ => true
  | _ => false

def Val.neg : Val → Val
  | .nan s => .nan s
  | .inf n => .inf (!n)
  | .fin n m e => .fin (!n) m e

/-! ### Rounding (R50 to R52, R54) -/

/-- 2^e for a possibly negative exponent, as a factor of numerator and of denominator. -/
def pow2n (e : Int) : Nat := 2 ^ e.toNat

def pow2d (e : Int) : Nat := 2 ^ (-e).toNat

/-- Rounds `num/den` to an integer in mode `m` for a value of sign `neg`; and whether it was exact. -/
def roundInt (m : Rm) (neg : Bool) (num den : Nat) : Nat × Bool :=
  let k := num / den
  let r := num % den
  let up := match m with
    | .rne => decide (den < 2 * r) || (decide (2 * r = den) && k % 2 == 1)
    | .rz => false
    | .ru => !neg && r != 0
    | .rd => neg && r != 0
  (if up then k + 1 else k, r == 0)

/-- floor(log2 (n/d · 2^e)) for n, d > 0. -/
def expOf (n d : Nat) (e : Int) : Int :=
  let g := (Nat.log2 n : Int) - (Nat.log2 d : Int)
  -- n/d lies in (2^(g-1), 2^(g+1))
  if n * pow2d g ≥ d * pow2n g then g + e else g - 1 + e

/-- round((-1)^neg · n/d · 2^e, t, m) for n, d > 0, with R54's flags. -/
def roundQ (t : Fmt) (m : Rm) (sat : Bool) (neg : Bool) (n d : Nat) (e : Int) : FR :=
  let ex := expOf n d e
  let scaled := fun (q : Int) => roundInt m neg (n * pow2n (e - q)) (d * pow2d (e - q))
  let q := max (ex - (t.f : Int)) t.qmin
  let (k, exact) := scaled q
  let pat := (q - t.qmin).toNat * 2 ^ t.f + k
  if pat > t.maxP then
    let toInf := match m with
      | .rne => true
      | .rz => false
      | .ru => !neg
      | .rd => neg
    let p := if t.e4m3 || sat || !toInf then t.maxP else t.infP
    { bits := t.signP neg + p, fl := 5 }
  else
    let emin := t.qmin + (t.f : Int)
    let k2 := (scaled (ex - (t.f : Int))).1
    let tiny := decide (ex < emin) && !(decide (ex = emin - 1) && decide (k2 = 2 ^ (t.f + 1)))
    { bits := t.signP neg + pat, fl := (if exact then 0 else 1) + (if tiny && !exact then 2 else 0) }

/-- Rounds an exact value; infinities and NaNs by Table 3.4, with no flag for them. -/
def roundV (t : Fmt) (m : Rm) (sat : Bool) (v : Val) : FR :=
  match v with
  | .nan _ => { bits := t.cnan, fl := 0 }
  | .inf neg => { bits := if sat then t.signP neg + t.maxP else if t.e4m3 then t.cnan else t.signP neg + t.infP, fl := 0 }
  | .fin neg 0 _ => { bits := t.signP neg, fl := 0 }
  | .fin neg k e => roundQ t m sat neg k 1 e

/-! ### Exact operations -/

/-- Sum of two finite values; an exact zero takes its sign from R51. -/
def addFin (m : Rm) (n1 : Bool) (m1 : Nat) (e1 : Int) (n2 : Bool) (m2 : Nat) (e2 : Int) : Val :=
  let e := min e1 e2
  let a : Int := (m1 * pow2n (e1 - e) : Nat)
  let b : Int := (m2 * pow2n (e2 - e) : Nat)
  let s := (if n1 then -a else a) + (if n2 then -b else b)
  if s = 0 then
    if m1 = 0 ∧ m2 = 0 ∧ n1 = n2 then .fin n1 0 e else .fin (m == .rd) 0 e
  else .fin (decide (s < 0)) s.natAbs e

/-- Exact sum, and whether it is invalid. -/
def addV (m : Rm) (a b : Val) : Val × Bool :=
  match a, b with
  | .nan _, _ => (.nan false, false)
  | _, .nan _ => (.nan false, false)
  | .inf x, .inf y => if x = y then (.inf x, false) else (.nan false, true)
  | .inf x, _ => (.inf x, false)
  | _, .inf y => (.inf y, false)
  | .fin n1 m1 e1, .fin n2 m2 e2 => (addFin m n1 m1 e1 n2 m2 e2, false)

/-- Exact product, and whether it is 0 × ∞. -/
def mulV (a b : Val) : Val × Bool :=
  match a, b with
  | .nan _, _ => (.nan false, false)
  | _, .nan _ => (.nan false, false)
  | .inf x, .inf y => (.inf (x != y), false)
  | .inf x, .fin y m _ => if m = 0 then (.nan false, true) else (.inf (x != y), false)
  | .fin x m _, .inf y => if m = 0 then (.nan false, true) else (.inf (x != y), false)
  | .fin n1 m1 e1, .fin n2 m2 e2 => (.fin (n1 != n2) (m1 * m2) (e1 + e2), false)

/-- NV of signalling operands and of the operation itself. -/
def nvIf (b : Bool) : Nat := if b then flNV else 0

def sigs (l : List Val) : Bool := l.any Val.isSig

/-- round(a + b, t, m). -/
def fAdd (t : Fmt) (m : Rm) (x y : Nat) : FR :=
  let a := decodeF t x
  let b := decodeF t y
  let (s, bad) := addV m a b
  let r := roundV t m false s
  { r with fl := orFl r.fl (nvIf (bad || sigs [a, b])) }

/-- round(a * b, t, m). -/
def fMul (t : Fmt) (m : Rm) (x y : Nat) : FR :=
  let a := decodeF t x
  let b := decodeF t y
  let (s, bad) := mulV a b
  let r := roundV t m false s
  { r with fl := orFl r.fl (nvIf (bad || sigs [a, b])) }

/-- fma: exact product and sum, one rounding; 0 × ∞ is invalid whatever the addend (R106). -/
def fFma (t : Fmt) (m : Rm) (x y z : Nat) : FR :=
  let a := decodeF t x
  let b := decodeF t y
  let c := decodeF t z
  let (p, bad1) := mulV a b
  let (s, bad2) := addV m p c
  let r := roundV t m false s
  { r with fl := orFl r.fl (nvIf (bad1 || bad2 || sigs [a, b, c])) }

/-! ### Order (R53, R108) -/

/-- Signed comparison key of two finite or infinite values: less, with -0 equal to +0. -/
def ltV (a b : Val) : Bool :=
  match a, b with
  | .nan _, _ => false
  | _, .nan _ => false
  | .inf x, .inf y => x && !y
  | .inf x, _ => x
  | _, .inf y => !y
  | .fin n1 m1 e1, .fin n2 m2 e2 =>
    let e := min e1 e2
    let p : Int := (m1 * pow2n (e1 - e) : Nat)
    let q : Int := (m2 * pow2n (e2 - e) : Nat)
    decide ((if n1 then -p else p) < (if n2 then -q else q))

/-- Equality with -0 equal to +0. -/
def eqV (a b : Val) : Bool := !a.isNan && !b.isNan && !ltV a b && !ltV b a

def Val.isNeg : Val → Bool
  | .nan _ => false
  | .inf n => n
  | .fin n _ _ => n

/-- minimumNumber (`mx` false) or maximumNumber of two patterns, one operand bit for bit (R53). -/
def fMinMax (t : Fmt) (mx : Bool) (x y : Nat) : FR :=
  let a := decodeF t x
  let b := decodeF t y
  let fl := nvIf (sigs [a, b])
  if a.isNan && b.isNan then { bits := t.cnan, fl := fl }
  else if a.isNan then { bits := y, fl := fl }
  else if b.isNan then { bits := x, fl := fl }
  else
    let less := ltV a b || (eqV a b && a.isNeg && !b.isNeg)
    { bits := if less != mx then x else y, fl := fl }

/-- The sign operations of R105 on a pattern of width `w`: none, negate, absolute, negated absolute. -/
def signOp (w code p : Nat) : Nat :=
  let low := p % 2 ^ (w - 1)
  let s := bitOf p (w - 1)
  let s' := if code = 0 then s else if code = 1 then !s else if code = 2 then false else true
  low + (if s' then 2 ^ (w - 1) else 0)

/-! ### Reciprocal, roots and transcendental functions (R56, Table 3.6)

`fix` is the scale 2^320 of the fixed-point series; a series result is irrational, so one sticky bit
below it makes the rounding exact (entry 17). -/

def fixP : Nat := 320

/-- ln 2 and π times 2^320, rounded down. -/
def fixLn2 : Nat := 1480553391661173448385607439722553250922680800745876974795605978609098082859138712941075737848984

def fixPi : Nat := 6710401180212168915155840974220003240804194089427148950727106424351713218671805380099500388914039

/-- Terms of the exponential series of y/2^320: term k, next index k+1. -/
def expSeries (y : Nat) : Nat → Nat → Nat → Nat
  | 0, _, _ => 0
  | n + 1, k, term => term + expSeries y n (k + 1) (term * y / 2 ^ fixP / (k + 1))

/-- 2 · (z + z³/3 + z⁵/5 + …) for z/2^320. -/
def atanhSeries (z2 : Nat) : Nat → Nat → Nat → Nat
  | 0, _, _ => 0
  | n + 1, k, pw => 2 * pw / (2 * k + 1) + atanhSeries z2 n (k + 1) (pw * z2 / 2 ^ fixP)

/-- Alternating sine series of y/2^320, pairs of terms so that every partial sum is a Nat. -/
def sinSeries (y2 : Nat) : Nat → Nat → Nat → Nat
  | 0, _, _ => 0
  | n + 1, k, term =>
    let t2 := term * y2 / 2 ^ fixP / ((k + 1) * (k + 2))
    let t3 := t2 * y2 / 2 ^ fixP / ((k + 3) * (k + 4))
    (term - t2) + sinSeries y2 n (k + 4) t3

/-- Rounding of an inexact fixed-point value `v`/2^320 · 2^e. -/
def roundFix (t : Fmt) (neg : Bool) (v : Nat) (e : Int) : FR :=
  roundQ t .rne false neg (2 * v + 1) 1 (e - (fixP : Int) - 1)

/-- An exact result of a function before its rounding: a pattern class or a scaled rational. -/
inductive Exact where
  | nan (fl : Nat)
  | inf (neg : Bool) (fl : Nat)
  | zero (neg : Bool)
  | rat (neg : Bool) (n d : Nat) (e : Int)
  deriving DecidableEq, Repr

def Exact.fix (neg : Bool) (v : Nat) (e : Int) : Exact := .rat neg (2 * v + 1) 1 (e - (fixP : Int) - 1)

/-- Rounds an exact result to nearest. -/
def Exact.round (t : Fmt) : Exact → FR
  | .nan fl => { bits := t.cnan, fl := fl }
  | .inf neg fl => { bits := t.signP neg + t.infP, fl := fl }
  | .zero neg => { bits := t.signP neg, fl := 0 }
  | .rat neg n d e => roundQ t .rne false neg n d e

/-- Integer square root by bits: `n` steps from bit `n-1` down. -/
def isqrtGo (x : Nat) : Nat → Nat → Nat
  | 0, r => r
  | n + 1, r => isqrtGo x n (if (r + 2 ^ n) * (r + 2 ^ n) ≤ x then r + 2 ^ n else r)

def isqrt (x : Nat) : Nat := isqrtGo x (Nat.log2 x / 2 + 1) 0

/-- Square root of n/d·2^e (n, d > 0) as an exact result: exact when a perfect square, else sticky. -/
def sqrtQ (n d : Nat) (e : Int) : Exact :=
  let (n, e) := if e % 2 = 0 then (n, e) else (2 * n, e - 1)
  -- n/d·2^400 = x, root of x scaled by 2^(e/2 - 200)
  let x := n * 2 ^ 400 / d
  let r := isqrt x
  if r * r = x ∧ n * 2 ^ 400 % d = 0 then .rat false r 1 (e / 2 - 200)
  else .rat false (2 * r + 1) 1 (e / 2 - 201)

def fnRcp : Val → Exact
  | .nan s => .nan (nvIf s)
  | .inf n => .zero n
  | .fin n 0 _ => .inf n flDZ
  | .fin n m e => .rat n 1 m (-e)

def fnSqrt : Val → Exact
  | .nan s => .nan (nvIf s)
  | .inf true => .nan flNV
  | .inf false => .inf false 0
  | .fin n 0 _ => .zero n
  | .fin true _ _ => .nan flNV
  | .fin false m e => sqrtQ m 1 e

def fnRsq : Val → Exact
  | .nan s => .nan (nvIf s)
  | .inf true => .nan flNV
  | .inf false => .zero false
  | .fin n 0 _ => .inf n flDZ
  | .fin true _ _ => .nan flNV
  | .fin false m e => sqrtQ 1 m (-e)

/-- 2^x: x = i + f with 0 ≤ f < 1; far outside every format's range the exponent is clamped. -/
def fnEx2 : Val → Exact
  | .nan s => .nan (nvIf s)
  | .inf true => .zero false
  | .inf false => .inf false 0
  | .fin _ 0 _ => .rat false 1 1 0
  | .fin n m e =>
    if Nat.log2 m + 1 + e.toNat > 20 + (-e).toNat then .rat false 1 1 (if n then -100000 else 100000)
    else
      let den := pow2d e
      let x : Int := let v : Int := (m * pow2n e : Nat); if n then -v else v
      let i := x / (den : Int)
      let r := (x % (den : Int)).toNat
      if r = 0 then .rat false 1 1 i
      else .fix false (expSeries (r * fixLn2 / den) 90 0 (2 ^ fixP)) i

/-- log2 of m·2^e. -/
def fnLg2 : Val → Exact
  | .nan s => .nan (nvIf s)
  | .inf true => .nan flNV
  | .inf false => .inf false 0
  | .fin _ 0 _ => .inf true flDZ
  | .fin true _ _ => .nan flNV
  | .fin false m e =>
    let k := Nat.log2 m
    let i : Int := e + (k : Int)
    if m = 2 ^ k then
      if i = 0 then .zero false else .rat (decide (i < 0)) i.natAbs 1 0
    else
      let z := (m - 2 ^ k) * 2 ^ fixP / (m + 2 ^ k)
      let ln := atanhSeries (z * z / 2 ^ fixP) 110 0 z
      let s : Int := i * (2 ^ fixP : Nat) + ((ln * 2 ^ fixP / fixLn2 : Nat) : Int)
      .fix (decide (s < 0)) s.natAbs 0

/-- sin(π·r/d) for 0 < r/d ≤ 1/2. -/
def sinFix (r d : Nat) : Nat :=
  let y := r * fixPi / d
  sinSeries (y * y / 2 ^ fixP) 20 1 y

/-- sin(π·n/d) of 0 ≤ n/d < 2, d a power of two; `zneg` is the sign of an exact zero. -/
def sinPiQ (neg zneg : Bool) (n d : Nat) : Exact :=
  if n % d = 0 then .zero zneg
  else
    let (neg, r) := if n < d then (neg, n) else (!neg, n - d)
    let r := if 2 * r ≤ d then r else d - r
    if 2 * r = d then .rat neg 1 1 0 else .fix neg (sinFix r d) 0

def fnSinpi : Val → Exact
  | .nan s => .nan (nvIf s)
  | .inf _ => .nan flNV
  | .fin n m e =>
    if m = 0 ∨ 0 ≤ e then .zero n
    else let d := pow2d e; sinPiQ n n (m % (2 * d)) d

/-- cos(πx) = sin(π(x + 1/2)), even in x. -/
def fnCospi : Val → Exact
  | .nan s => .nan (nvIf s)
  | .inf _ => .nan flNV
  | .fin _ m e =>
    let d := 2 * pow2d e
    let x := 2 * m * pow2n e
    sinPiQ false false ((x + d / 2) % (2 * d)) d

/-- FUNC's functions by sub-operation (R109). -/
def fnOf (k : Nat) (v : Val) : Exact :=
  if k = 0 then fnRcp v else if k = 1 then fnRsq v else if k = 2 then fnSqrt v else if k = 3 then fnEx2 v
  else if k = 4 then fnLg2 v else if k = 5 then fnSinpi v else fnCospi v

/-- The FP16 form: rne16 of rne32, flags judged on the FP16 result against the exact value (R109). An inexact result that is
delivered as zero raises underflow too: R54's 'nonzero' is read of the exact value. [DEDUCED] (entry 98) -/
def fn16 (x : Exact) : FR :=
  let a := x.round Fmt.f32
  let b := roundV Fmt.f16 .rne false (decodeF Fmt.f32 a.bits)
  match x with
  | .rat _ _ _ _ =>
    let big := decide (b.bits % 2 ^ 15 = Fmt.f16.infP)
    let inexact := a.fl % 2 == 1 || b.fl % 2 == 1
    let small := decide (b.bits % 2 ^ 15 < 2 ^ 10)
    { bits := b.bits, fl := if big then 5 else (if inexact then 1 else 0) + (if small && inexact then 2 else 0) }
  | _ => { bits := b.bits, fl := a.fl }

/-- rcp32(x) of the pseudocode. -/
def rcp32 (x : Nat) : Nat := ((fnRcp (decodeF Fmt.f32 x)).round Fmt.f32).bits

/-! ### Conversions -/

def f32 (w : Word) : Val := decodeF Fmt.f32 w.toNat

/-- An integer as an exact value. -/
def valOfInt (i : Int) : Val := .fin (decide (i < 0)) i.natAbs 0

/-- A rational value n/d of an integer numerator, rounded; the sign of zero is +. -/
def roundRat (t : Fmt) (m : Rm) (n : Int) (d : Nat) (e : Int) : FR :=
  if n = 0 then { bits := 0, fl := 0 } else roundQ t m false (decide (n < 0)) n.natAbs d e

/-- The integer a finite value rounds to, and whether it changed. -/
def toInt (m : Rm) (neg : Bool) (k : Nat) (e : Int) : Int × Bool :=
  let (u, exact) := roundInt m neg (k * pow2n e) (pow2d e)
  (if neg then -(u : Int) else (u : Int), exact)

/-- floor of a finite value. -/
def floorV : Val → Int
  | .fin neg k e => (toInt .rd neg k e).1
  | _ => 0

/-- Conversion to UNORMn (R46): code and flags of CVT (R113). -/
def toUnorm (n : Nat) : Val → FR
  | .nan _ => { bits := 0, fl := flNV }
  | .inf neg => { bits := if neg then 0 else 2 ^ n - 1, fl := 0 }
  | .fin true _ _ => { bits := 0, fl := 0 }
  | .fin false k e =>
    if k * pow2n e ≥ pow2d e then { bits := 2 ^ n - 1, fl := 0 }
    else
      let (u, exact) := roundInt .rne false (k * (2 ^ n - 1) * pow2n e) (pow2d e)
      { bits := u, fl := if exact then 0 else 1 }

/-- A UNORMn code as a value of format `t` (R46). -/
def ofUnorm (t : Fmt) (n k : Nat) : FR :=
  if k = 0 then { bits := 0, fl := 0 } else roundQ t .rne false false k (2 ^ n - 1) 0

/-- The three FP32 roundings that the chapters use without flags. -/
def add32 (a b : Nat) : Nat := (fAdd Fmt.f32 .rne a b).bits
def sub32 (a b : Nat) : Nat := (fAdd Fmt.f32 .rne a (signOp 32 1 b)).bits
def mul32 (a b : Nat) : Nat := (fMul Fmt.f32 .rne a b).bits
def fma32 (a b c : Nat) : Nat := (fFma Fmt.f32 .rne a b c).bits
def one32 : Nat := 0x3F800000

/-- FLERP's two roundings and their flags (R59, R110): a, b and the 16-bit weight code. -/
def flerp (a b n : Nat) : FR :=
  let d := fAdd Fmt.f32 .rne b (signOp 32 1 a)
  let w := if n = 0 then 0 else (roundQ Fmt.f32 .rne false false n 65536 0).bits
  let v := fFma Fmt.f32 .rne w d.bits a
  { bits := v.bits, fl := orFl d.fl v.fl }

/-! ### The architected draw (R60) -/

def draw24 (key counter : Nat) : Nat :=
  let m := 2 ^ 64
  let z := (key + ((counter + 1) % m) * 0x9E3779B97F4A7C15) % m
  let z := ((z ^^^ (z / 2 ^ 30)) * 0xBF58476D1CE4E5B9) % m
  let z := ((z ^^^ (z / 2 ^ 27)) * 0x94D049BB133111EB) % m
  let z := z ^^^ (z / 2 ^ 31)
  fld z 40 24

/-- A 24-bit draw as FP32. -/
def drawF (k : Nat) : Nat := if k = 0 then 0 else (roundQ Fmt.f32 .rne false false k (2 ^ 24) 0).bits

/-! ### Bit planes (R48, R49) -/

/-- PLNP on the 64-bit pair. -/
def plnp64 (x : Nat) : Nat :=
  (List.range 64).foldl (fun y k => y + (if bitOf x (8 * (k % 8) + (7 - k / 8)) then 2 ^ k else 0)) 0

/-- The signed integer of element `i` from the first `p` plane bytes of a pair. -/
def planeElem (x p i : Nat) : Int :=
  sx ((List.range p).foldl (fun q j => 2 * q + boolN (bitOf x (8 * j + i))) 0) p

end Sys2Proof.Machine
end

