-- ==== Sys2Proof/Machine/Slh.lean ====
section
/-! DEFINITION. The functions of other standards that the manual names: SHA-256 and SHA-512 (FIPS 180-4), and SLH-DSA-SHA2-192s
(FIPS 205), used by R365, R369 and R371. -/

namespace Sys2Proof.Machine

/-! ### SHA-2 (FIPS 180-4) -/

/-- The largest number whose `e`-th power is at most `x`, among those whose first `n` bits are still open above `r`. -/
def rootFrom (e x : Nat) : Nat → Nat → Nat
  | 0, r => r
  | n + 1, r => rootFrom e x n (if (r + 2 ^ n) ^ e ≤ x then r + 2 ^ n else r)

/-- The first 64 bits of the fractional part of the `e`-th root of `p`. -/
def rootFrac (e p : Nat) : Nat := rootFrom e (p * 2 ^ (64 * e)) 70 0 % 2 ^ 64

/-- The first eighty primes. -/
def primes80 : List Nat := (List.range 410).filter (fun p => decide (2 ≤ p) && (List.range 21).all (fun q => q < 2 || p ≤ q || p % q != 0))

/-- What SHA-256 and SHA-512 differ in: bits of a word, rounds, and the amounts of the four sigma functions, of which the last of a
small one is a shift. -/
structure Sha2 where
  w : Nat
  rounds : Nat
  bigA : Nat × Nat × Nat
  bigE : Nat × Nat × Nat
  smallA : Nat × Nat × Nat
  smallE : Nat × Nat × Nat
  deriving DecidableEq, Repr

def Sha2.of256 : Sha2 :=
  { w := 32, rounds := 64, bigA := (2, 13, 22), bigE := (6, 11, 25), smallA := (7, 18, 3), smallE := (17, 19, 10) }

def Sha2.of512 : Sha2 :=
  { w := 64, rounds := 80, bigA := (28, 34, 39), bigE := (14, 18, 41), smallA := (1, 8, 7), smallE := (19, 61, 6) }

/-- The constants: the first bits of the fractional parts of the cube roots of the first primes, and of the square roots of the
first eight. -/
def Sha2.consts (h : Sha2) (e n : Nat) : List Nat := (primes80.take n).map (fun p => rootFrac e p / 2 ^ (64 - h.w))

def Sha2.rotr (h : Sha2) (x n : Nat) : Nat := x / 2 ^ n + x % 2 ^ n * 2 ^ (h.w - n)

def Sha2.big (h : Sha2) (k : Nat × Nat × Nat) (x : Nat) : Nat := h.rotr x k.1 ^^^ h.rotr x k.2.1 ^^^ h.rotr x k.2.2

def Sha2.small (h : Sha2) (k : Nat × Nat × Nat) (x : Nat) : Nat := h.rotr x k.1 ^^^ h.rotr x k.2.1 ^^^ x / 2 ^ k.2.2

/-- The message schedule of a block, the newest word first. -/
def Sha2.schedule (h : Sha2) (block : List Nat) : List Nat :=
  (List.range (h.rounds - 16)).foldl (fun ws _ =>
    (h.small h.smallE (nthD ws 1 0) + nthD ws 6 0 + h.small h.smallA (nthD ws 14 0) + nthD ws 15 0) % 2 ^ h.w :: ws) block.reverse

/-- One round, of working variables a to h and of the sum of its constant and its word. -/
def Sha2.round (c : Sha2) (v : List Nat) (kw : Nat) : List Nat :=
  match v with
  | [a, b, x, d, e, f, g, h] =>
    let ch := (e &&& f) ^^^ ((2 ^ c.w - 1 - e) &&& g)
    let maj := (a &&& b) ^^^ (a &&& x) ^^^ (b &&& x)
    let t := h + c.big c.bigE e + ch + kw
    [(t + c.big c.bigA a + maj) % 2 ^ c.w, a, b, x, (d + t) % 2 ^ c.w, e, f, g]
  | v => v

/-- The hash value after a block. -/
def Sha2.block (h : Sha2) (ks hv block : List Nat) : List Nat :=
  let out := ((List.zip ks (h.schedule block).reverse).map (fun e => e.1 + e.2)).foldl h.round hv
  (List.zip hv out).map (fun e => (e.1 + e.2) % 2 ^ h.w)

/-- The number of a big-endian byte string, and its `k` bytes. -/
def ofBytesBE (bs : List Byte) : Nat := ofBytes bs.reverse
def bytesBE (k v : Nat) : List Byte := (bytesOf k v).reverse

/-- The list cut into lists of `n`. -/
def cutUp {α : Type} (n : Nat) (l : List α) : List (List α) := (List.range (l.length / n)).map (fun i => (l.drop (n * i)).take n)

/-- The padded message: a one bit, zeros, and the length in bits in two words. -/
def Sha2.pad (h : Sha2) (m : List Byte) : List Byte :=
  let b := h.w / 8
  m ++ 0x80 :: List.replicate ((16 * b - (m.length + 1 + 2 * b) % (16 * b)) % (16 * b)) 0 ++ bytesBE (2 * b) (8 * m.length)

def Sha2.hash (h : Sha2) (m : List Byte) : List Byte :=
  let ks := h.consts 3 h.rounds
  let blocks := cutUp 16 ((cutUp (h.w / 8) (h.pad m)).map ofBytesBE)
  (blocks.foldl (h.block ks) (h.consts 2 8)).flatMap (bytesBE (h.w / 8))

def sha256 (m : List Byte) : List Byte := Sha2.of256.hash m
def sha512 (m : List Byte) : List Byte := Sha2.of512.hash m

/-- HMAC-SHA-512 with a key of at most 128 bytes. -/
def hmac512 (key m : List Byte) : List Byte :=
  let k := key ++ List.replicate (128 - key.length) 0
  sha512 (k.map (· ^^^ 0x5C) ++ sha512 (k.map (· ^^^ 0x36) ++ m))

/-- MGF1 with SHA-512. -/
def mgf512 (seed : List Byte) (n : Nat) : List Byte :=
  ((List.range ((n + 63) / 64)).flatMap (fun i => sha512 (seed ++ bytesBE 4 i))).take n

/-! ### SLH-DSA-SHA2-192s (FIPS 205): n = 24, h = 63, d = 7, h' = 9, a = 14, k = 17, w = 16, len = 51 -/

/-- An address: layer, tree, type, key pair, chain or height, and hash or index. -/
structure Adrs where
  layer : Nat
  tree : Nat
  kind : Nat
  pair : Nat
  high : Nat
  idx : Nat
  deriving DecidableEq, Repr

/-- The compressed address of 22 bytes. -/
def Adrs.bytes (x : Adrs) : List Byte :=
  bytesBE 1 x.layer ++ bytesBE 8 x.tree ++ bytesBE 1 x.kind ++ bytesBE 4 x.pair ++ bytesBE 4 x.high ++ bytesBE 4 x.idx

/-- An address of a type: the words that follow are zero but for the key pair. -/
def Adrs.ofKind (x : Adrs) (kind pair : Nat) : Adrs := { x with kind := kind, pair := pair, high := 0, idx := 0 }

/-- F and PRF: of the public seed, an address and 24 bytes. -/
def slhF (seed : List Byte) (x : Adrs) (m : List Byte) : List Byte :=
  (sha256 (seed ++ List.replicate 40 0 ++ x.bytes ++ m)).take 24

/-- H and T. -/
def slhH (seed : List Byte) (x : Adrs) (m : List Byte) : List Byte :=
  (sha512 (seed ++ List.replicate 104 0 ++ x.bytes ++ m)).take 24

/-- The first `n` digits of `b` bits of a byte string. -/
def digits (m : List Byte) (b n : Nat) : List Nat :=
  let v := ofBytesBE m
  let t := 8 * m.length
  (List.range n).map (fun i => v / 2 ^ (t - b * (i + 1)) % 2 ^ b)

/-- A WOTS+ chain: `n` steps from step `i` on. -/
def slhChain (seed : List Byte) (x : Adrs) (m : List Byte) (i n : Nat) : List Byte :=
  (List.range n).foldl (fun m j => slhF seed { x with idx := i + j } m) m

/-- The digits that WOTS+ signs: those of the message and of the checksum. -/
def wotsDigits (m : List Byte) : List Nat :=
  let ds := digits m 4 48
  ds ++ digits (bytesBE 2 (16 * (ds.foldl (fun a d => a + (15 - d)) 0))) 4 3

/-- The secret of chain `i` of a key pair. -/
def wotsSk (sk seed : List Byte) (x : Adrs) (i : Nat) : List Byte :=
  slhF seed { x.ofKind 5 x.pair with high := i } sk

/-- The public key of the chains' ends. -/
def wotsPk (seed : List Byte) (x : Adrs) (ends : List (List Byte)) : List Byte := slhH seed (x.ofKind 1 x.pair) ends.flatten

def wotsGen (sk seed : List Byte) (x : Adrs) : List Byte :=
  wotsPk seed x ((List.range 51).map (fun i => slhChain seed { x with high := i } (wotsSk sk seed x i) 0 15))

def wotsSign (sk seed m : List Byte) (x : Adrs) : List (List Byte) :=
  (wotsDigits m).zipIdx.map (fun e => slhChain seed { x with high := e.2 } (wotsSk sk seed x e.2) 0 e.1)

def wotsFromSig (seed m : List Byte) (x : Adrs) (sig : List (List Byte)) : List Byte :=
  wotsPk seed x ((List.zip (wotsDigits m) sig).zipIdx.map (fun e =>
    slhChain seed { x with high := e.2 } e.1.2 e.1.1 (15 - e.1.1)))

/-- A node of a Merkle tree whose leaves are given: number `i` at height `z`. -/
def treeNode (leaf : Nat → List Byte) (seed : List Byte) (x : Adrs) : Nat → Nat → List Byte
  | 0, i => leaf i
  | z + 1, i => slhH seed { x with high := z + 1, idx := i } (treeNode leaf seed x z (2 * i) ++ treeNode leaf seed x z (2 * i + 1))

/-- The siblings on the way from leaf `i` up through `n` levels. -/
def treePath (leaf : Nat → List Byte) (seed : List Byte) (x : Adrs) (n i : Nat) : List (List Byte) :=
  (List.range n).map (fun j => treeNode leaf seed x j (i / 2 ^ j ^^^ 1))

/-- The root above leaf `i` by its siblings. -/
def treeRoot (seed : List Byte) (x : Adrs) (i : Nat) (node : List Byte) (path : List (List Byte)) : List Byte :=
  path.zipIdx.foldl (fun n e =>
    let y := { x with high := e.2 + 1, idx := i / 2 ^ (e.2 + 1) }
    slhH seed y (if i / 2 ^ e.2 % 2 = 0 then n ++ e.1 else e.1 ++ n)) node

/-- A leaf of an XMSS tree. -/
def xmssLeaf (sk seed : List Byte) (x : Adrs) (i : Nat) : List Byte := wotsGen sk seed (x.ofKind 0 i)

def xmssSign (sk seed m : List Byte) (x : Adrs) (i : Nat) : List (List Byte) :=
  wotsSign sk seed m (x.ofKind 0 i) ++ treePath (xmssLeaf sk seed x) seed (x.ofKind 2 0) 9 i

def xmssFromSig (seed m : List Byte) (x : Adrs) (i : Nat) (sig : List (List Byte)) : List Byte :=
  treeRoot seed (x.ofKind 2 0) i (wotsFromSig seed m (x.ofKind 0 i) (sig.take 51)) (sig.drop 51)

/-- Layer `j` of the hypertree above a leaf of the whole: its address and the leaf's number in it. -/
def htAt (leaf j : Nat) : Adrs × Nat :=
  ({ layer := j, tree := leaf / 2 ^ (9 * (j + 1)), kind := 0, pair := 0, high := 0, idx := 0 }, leaf / 2 ^ (9 * j) % 512)

def htSign (sk seed m : List Byte) (leaf : Nat) : List (List Byte) :=
  ((List.range 7).foldl (fun (a : List (List Byte) × List Byte) j =>
    let sig := xmssSign sk seed a.2 (htAt leaf j).1 (htAt leaf j).2
    (a.1 ++ sig, xmssFromSig seed a.2 (htAt leaf j).1 (htAt leaf j).2 sig)) ([], m)).1

/-- The root of the hypertree by a signature. -/
def htRoot (seed m : List Byte) (leaf : Nat) (sig : List (List Byte)) : List Byte :=
  (cutUp 60 sig).zipIdx.foldl (fun m e => xmssFromSig seed m (htAt leaf e.2).1 (htAt leaf e.2).2 e.1) m

/-- FORS: the secret and the leaf of a number, under the addresses of a key pair. -/
def forsSk (sk seed : List Byte) (x : Adrs) (i : Nat) : List Byte := slhF seed { x.ofKind 6 x.pair with idx := i } sk
def forsLeaf (sk seed : List Byte) (x : Adrs) (i : Nat) : List Byte := slhF seed { x with idx := i } (forsSk sk seed x i)

/-- The leaves that a digest names, one in each of the 17 trees. -/
def forsLeaves (md : List Byte) : List Nat := (digits md 14 17).zipIdx.map (fun e => e.2 * 2 ^ 14 + e.1)

def forsSign (sk seed md : List Byte) (x : Adrs) : List (List Byte) :=
  (forsLeaves md).flatMap (fun i => forsSk sk seed x i :: treePath (forsLeaf sk seed x) seed x 14 i)

def forsFromSig (seed md : List Byte) (x : Adrs) (sig : List (List Byte)) : List Byte :=
  slhH seed (x.ofKind 4 x.pair) ((List.zip (forsLeaves md) (cutUp 15 sig)).flatMap (fun e =>
    treeRoot seed x e.1 (slhF seed { x with idx := e.1 } (e.2.headD [])) (e.2.drop 1)))

/-- What a message names: the digest that FORS signs and the leaf of the hypertree. -/
def slhDigest (r seed root m : List Byte) : List Byte × Nat :=
  let d := mgf512 (r ++ seed ++ sha512 (r ++ seed ++ root ++ m)) 39
  (d.take 30, ofBytesBE ((d.drop 30).take 7) % 2 ^ 54 * 512 + ofBytesBE (d.drop 37) % 512)

/-- The address of the FORS key of a leaf. -/
def forsAdrs (leaf : Nat) : Adrs := { layer := 0, tree := leaf / 512, kind := 3, pair := leaf % 512, high := 0, idx := 0 }

/-- A message in the pure form with an empty context (R365). -/
def slhPure (m : List Byte) : List Byte := 0 :: 0 :: m

/-- PK.root of the seeds. -/
def slhRoot (sk seed : List Byte) : List Byte :=
  let x := (htAt 0 6).1
  treeNode (xmssLeaf sk seed x) seed (x.ofKind 2 0) 9 0

/-- Whether a signature of a message verifies under a public key: PK.seed, then PK.root. -/
def slhDsaVerify (pk m sig : List Byte) : Bool :=
  let seed := pk.take 24
  let parts := cutUp 24 sig
  let (md, leaf) := slhDigest (parts.headD []) seed (pk.drop 24) (slhPure m)
  let key := forsFromSig seed md (forsAdrs leaf) ((parts.drop 1).take 255)
  decide (pk.length = 48) && decide (sig.length = 16224) && htRoot seed key leaf (parts.drop 256) == pk.drop 24

/-- The signature of a message under SK.seed, SK.prf and PK.seed, with 24 bytes of randomness. -/
def slhDsaSign (sk prf seed rnd m : List Byte) : List Byte :=
  let m := slhPure m
  let r := (hmac512 prf (rnd ++ m)).take 24
  let (md, leaf) := slhDigest r seed (slhRoot sk seed) m
  let fors := forsSign sk seed md (forsAdrs leaf)
  let key := forsFromSig seed md (forsAdrs leaf) fors
  (r :: fors ++ htSign sk seed key leaf).flatten

end Sys2Proof.Machine
end

