-- ==== Sys2Proof/Machine/State.lean ====
section
/-! DEFINITION. The state of the device as plain data, its reset, and the reasons a step may stop. -/

namespace Sys2Proof.Machine

/-! ### Threads -/

/-- Whether a logical lane holds a thread (R22, R41). -/
inductive LaneSt where
  | absent | live | exited | suspended
  deriving DecidableEq, Repr

/-- Why a thread is not ready: a readiness condition found false when its instruction last tried (R30, R33). -/
inductive Why where
  | scoreboard | quire | bank | queueFull | records | present | writeObject | fence | xcall
  | space | collective
  /-- An MMA waits for its tokens (R342). -/
  | tokens (need : Nat)
  /-- The condition came true while the warp's handler ran: at ERET the thread goes on as though released (R302). -/
  | met
  /-- MWAIT: the operations issued before it have numbers below `upto` (R215). -/
  | matrix (upto : Nat)
  /-- A compositing operation whose log writes at these addresses have been answered fatal (R259). -/
  | drain (lost : List Nat)
  deriving DecidableEq, Repr

/-- The wait a thread is in (R33, R162, R166, R168, R294, R314, R322). -/
inductive Wait where
  | none
  /-- A readiness condition: the instruction tries again when its split is served. -/
  | ready (why : Why)
  /-- Waits at an RJN of `words` words for the lanes of `mask`, since core cycle `since`. -/
  | rjn (mask : Word) (pd : Nat) (since : Nat) (words : Nat)
  /-- Waits for the phase of a barrier: level 0 warp, 1 team, 2 grid. -/
  | bar (level id : Nat)
  | tsleep (sd : Nat) (time : Nat)
  /-- EXIT executed at the scope: waits for its stores (R41). -/
  | exit (scope : Nat)
  | ecall (ticket sd : Nat)
  | tbar (id sd time : Nat)
  /-- Waits for the answer of page fault `id` (R322). -/
  | fault (id : Nat)
  deriving DecidableEq, Repr

/-- A register-like resource whose readiness is tracked (R70, R71). -/
inductive Res where
  | v (n : Nat) | p (n : Nat) | s (n : Nat) | g (n : Nat) | m (n : Nat)
  deriving DecidableEq, Repr

/-- A fixed-latency result that a lane may not yet read safely: cycles of stall still owed and the
value before the producer (R70, R71); `next` of a producer with stall count 0 until another instruction of its split has issued
(R68). -/
structure Haz where
  res : Res
  left : Nat
  old : Word
  next : Bool
  deriving DecidableEq, Repr

/-- One logical lane of a warp (R21). -/
structure Lane where
  st : LaneSt
  pc : DWord
  /-- v0 to v127; unlisted registers hold 0 (R62). -/
  v : Map Word
  /-- p0 to p11. -/
  p : BitVec 12
  wait : Wait
  /-- RPC (R302) and the wait kept across a handler. -/
  rpc : DWord
  rwait : Wait
  /-- CLKLO latch of SPR (R63). -/
  latch : Option Word
  /-- Last core cycle of release from the RJN at each address (R162). -/
  rjnRel : Map Nat
  haz : List Haz
  /-- Registers whose variable-latency result is outstanding (R70). -/
  busy : List Res
  /-- The core cycle from which its split may issue again: the stall count is over and the last wait has ended (R25). -/
  ready : Nat
  /-- The number of its split's last grant within the warp (R29). -/
  turn : Nat
  /-- What an instruction that is tried again has done already, by its place: the records that a TRISUB has handled and those of
  them not culled (R241), or 1 for an FRPUB that has published (R278). -/
  prog : Option (DWord × Nat × Nat)
  /-- The same of the instruction at which it stood when it entered its handler (R302). -/
  rprog : Option (DWord × Nat × Nat)
  /-- The core cycle of its last issue, and the lane registers that its split wrote in that cycle with their values before it
  (R102). -/
  wrote : Nat × List (Nat × Word)
  /-- Registers whose own check has found an uncorrectable error (R352). -/
  bad : List Res
  deriving DecidableEq, Repr

/-- A stream register's binding (R272). -/
structure Stream where
  flow : Nat
  send : Bool
  line : Nat
  frame : Nat
  ts : Nat
  tsv : Bool
  src : Option Nat
  deriving DecidableEq, Repr

inductive Mode where
  | user | handler | supervisor | machine
  deriving DecidableEq, Repr

/-- A resident warp (R22, R61, R298). -/
structure Warp where
  core : Nat
  slot : Nat
  part : Nat
  team : Nat
  wid : Nat
  lanes : List Lane
  /-- s0 to s191; unlisted registers hold 0. -/
  s : Map Word
  /-- g0 to g6. -/
  g : BitVec 7
  m : List (Option Stream)
  regs : Nat
  privSize : Nat
  privBase : Nat
  wst : Word
  wch : Nat
  oac : Nat
  /-- The largest GWCT of the values of others that its loads have returned: its releases wait for it too (R151). -/
  seen : Nat
  latch : Option Word
  mode : Mode
  tcause : Word
  tepc : DWord
  tlane : Nat
  taddr : DWord
  tmask : Word
  tvec : DWord
  hscr : List Word
  schk : Word
  /-- g0 to g6 saved at handler entry (R302). -/
  gsave : BitVec 7
  /-- Arrivals in the current phase of warp barriers 0 to 3, and their members (R165). -/
  wbar : Map Word
  wbarMem : List Word
  /-- Uniform registers and predicates whose variable-latency result is outstanding (R70). -/
  busy : List Res
  spilled : Bool
  /-- Ports at which R30 serves the warp ahead of its class. -/
  promoted : List Nat
  /-- The core cycle of its last issue on ports A, B, M and U, and the number of its last grant (R29, R30). -/
  issued : List Nat
  turns : Nat
  /-- The core cycle from which it has been ready on each port without issuing there, kept while another warp shares its
  partition (R30). -/
  since : List (Option Nat)
  /-- Flags of WST that instructions still under way raise, with the core cycles in which they complete (R55). -/
  raising : List (Nat × Nat)
  /-- Uniform and stream registers whose own check has found an uncorrectable error (R352). -/
  bad : List Res
  /-- Registers, by lane and 32 for the warp's own, whose error a vertical bus has delivered (R362). -/
  bus : List (Nat × Res)
  /-- TEAMID.x of a relaunched warp (R228). -/
  serial : Option Nat
  /-- Records of its threads, for kill-and-replay (R229, R326): lane and record. -/
  recs : Map Nat
  deriving DecidableEq, Repr

/-! ### Teams and grids -/

/-- A timed barrier of a team (R293, R294). -/
structure TBar where
  /-- The time the phase names, once a thread has named one. -/
  time : Option Nat
  arrived : List Nat
  /-- The card's arrival left for the master. -/
  sent : Bool
  listed : Option Bool
  deriving DecidableEq, Repr

structure Team where
  grid : Nat
  idx : Nat
  cores : List Nat
  nwarps : Nat
  nthreads : Nat
  /-- Completion count (R41, R42). -/
  done : Nat
  complete : Bool
  /-- Team barriers 0 to 15: threads (TIDX) arrived in the phase; members as a set of warps. -/
  tbar : List (List Nat)
  tbarMem : List (List Nat)
  timed : List TBar
  deriving DecidableEq, Repr

/-- A launch packet's fields (Table 22.2). -/
structure Packet where
  handler : Nat
  pre : List Nat
  bars : Nat
  pred : List Nat
  tbg : List Nat
  shedm : Nat
  precnt : Nat
  banks : Nat
  team : Nat
  priv : Nat
  regs : Nat
  coop : Bool
  cont : Bool
  shed : Bool
  ovl : Bool
  cls : Nat
  gang : Nat
  nz : Nat
  ny : Nat
  nx : Nat
  gz : Nat
  gy : Nat
  gx : Nat
  deadline : Nat
  colo : Nat
  param : Nat
  entry : Nat
  /-- Bits [1023:0] that must be zero were zero. -/
  clean : Bool
  deriving DecidableEq, Repr

inductive GridSt where
  /-- Read, waiting to be chosen; being dispatched; all teams dispatched; ended. -/
  | waiting | dispatching | running | retired
  /-- Stopped: its colophon is still to be written (R39). -/
  | ending
  deriving DecidableEq, Repr

/-- A grid (R39) with the node state of R357 to R360. -/
structure Grid where
  pkt : Packet
  part : Nat
  queue : Nat
  seq : Option Nat
  depth : Nat
  parent : Option Nat
  cls : Nat
  deadline : Nat
  st : GridSt
  /-- Whether its code uses XCALL (R43), once an instruction that tells has been met. -/
  contKernel : Option Bool
  nextTeam : Nat
  serial : Nat
  gbar : List (List Nat)
  /-- Membership as the block read at dispatch gives it (R333): lane masks of the warp barriers, warps of the team barriers. -/
  bars : List Word
  tbars : List (List Nat)
  /-- Containment: the contained root grid, staged bytes by physical address, demotion, re-queues, excluded cores. -/
  root : Option Nat
  /-- Bytes staged, the value of each staged byte before the node's first write of it, and the writes since, newest first:
  grid, address and byte. -/
  staged : Map Byte
  base : Map Byte
  writes : List (Nat × Nat × Byte)
  dem : Bool
  rq : Nat
  excluded : List Nat
  /-- The largest GWCT of warps that have ended, and remote acknowledgements they still wait for. -/
  gwct : Nat
  /-- Its end by a fault, a cancellation or a machine check whose colophon is still to be written: STATUS, TCAUSE, TEPC
  and TLANE (R39, R334). -/
  fin : Option (Nat × Nat × Nat × Nat)
  deriving DecidableEq, Repr

/-! ### Memory system -/

/-- What an L1 line's readability rests on (R123 to R127). -/
inductive Lease where
  | none | until (t : Nat) | unbounded (grid : Nat) | priv
  deriving DecidableEq, Repr

/-- A line of an L1 (R123): valid bit per word, dirty bit per word of a private line, data. -/
structure Line where
  valid : BitVec 32
  dirty : BitVec 32
  data : Map Byte
  lease : Lease
  rrpv : Nat
  way : Nat
  /-- The warp of a private line. -/
  owner : Nat
  /-- Poisoned words, with the row of Table 24.1 in which each error was found (R352). -/
  bad : Map Nat
  /-- The largest GWCT of the writes whose values it holds (R151). -/
  gwct : Nat
  deriving DecidableEq, Repr

/-- A store on its way to its home (R125). `gwct` once applied. -/
structure Store where
  core : Nat
  warp : Nat
  /-- The threads whose event it is: one lane, or for UST the issuing split (R144). -/
  who : List Nat
  grid : Nat
  node : Option Nat
  pa : Nat
  bytes : List Byte
  remote : Bool
  gwct : Option Nat
  /-- The stores of one instruction, which go to a line as one request (R128). -/
  req : Nat
  /-- Other warps of its core that have read its value before its home applied it (R151). -/
  seenBy : List Nat
  deriving DecidableEq, Repr

/-- One lane's load awaiting fills (R124): bytes still to come by physical address. -/
structure Load where
  core : Nat
  warp : Nat
  /-- `none` for ULD. -/
  lane : Option Nat
  /-- The threads whose event it is: one lane, or for ULD the issuing split (R144). -/
  who : List Nat
  node : Option Nat
  /-- Physical address of each byte of the value, lowest first. -/
  addrs : List Nat
  got : Map Byte
  dst : Nat
  size : Nat
  sext : Bool
  /-- LDP: first bit and width of the element. -/
  field : Option (Nat × Nat)
  hint : Nat
  inv : Bool
  acq : Bool
  deriving DecidableEq, Repr

/-- An atomic on its way (R136): lane, address, operand and new value of each lane. -/
structure Atomic where
  core : Nat
  warp : Nat
  grid : Nat
  acq : Bool
  node : Option Nat
  team : Bool
  cas : Bool
  red : Bool
  op : Nat
  ty : Nat
  size : Nat
  dst : Nat
  lanes : List (Nat × Nat × Nat × Nat)
  remote : Bool
  deriving DecidableEq, Repr

/-- A word's partial in update-only state (R137). -/
structure Partial where
  op : Nat
  ty : Nat
  val : Nat
  warp : Nat
  grid : Nat
  deriving DecidableEq, Repr

structure MemSys where
  /-- L1 lines by core, and by node and physical line: (pa + 2^48 * node) / 128, node 0 outside
  containment and grid + 1 within it. -/
  l1 : Map (Map Line)
  /-- Latest lease outstanding at the home, by physical line. -/
  leases : Map Nat
  /-- GWCT of the last write of a line that met an outstanding lease, by node and line, until it has passed (R145). -/
  vis : Map Nat
  stores : Map Store
  loads : Map Load
  atomics : Map Atomic
  /-- Update-only partials by core, then by node and address of the value. -/
  partials : Map (Map Partial)
  /-- Prefetches on their way: core, line, RRPV. -/
  fills : List (Nat × Nat × Nat)
  /-- Team memory by team, member and offset. -/
  team : Map Byte
  /-- Poisoned 8-byte units of memory by node, and poisoned words of team memory, with the row of Table 24.1 in which each
  error was found (R352). -/
  poison : Map Nat
  teamPoison : Map Nat
  /-- Requests whose data an error on the crossbar has poisoned in transfer (Table 24.1). -/
  xbad : List Nat
  /-- Writes of peer cards applied here and not yet acknowledged: address and GWCT (R146). -/
  peerAcks : Map (Nat × Nat)
  nextId : Nat
  deriving DecidableEq, Repr

/-! ### Quires and stream engines -/

structure Quire where
  base : Nat
  size : Nat
  count : Nat
  win : Nat
  out : Bool
  broken : Bool
  f : Nat
  c : Nat
  /-- State of each slot: 0 empty, 1 filling, 2 ready, 3 draining. -/
  slots : Map Nat
  deriving DecidableEq, Repr

/-- A transfer of a list: the PUSH, GATH or PULL in progress. -/
structure Transfer where
  pull : Bool
  quire : Nat
  /-- Member, sequence and whether it is done, for each named member. -/
  parts : List (Nat × Nat × Bool)
  index : Nat
  /-- The bytes read at its start: by slot byte for a fill, by physical address for a drain. -/
  data : List (Nat × Byte)
  deriving DecidableEq, Repr

/-- A command list in a list position (R182, R195). -/
structure CmdList where
  running : Bool
  gen : Nat
  team : Nat
  /-- The grid of the team, which the list outlives. -/
  grid : Nat
  warp : Nat
  first : Nat
  pos : Nat
  database : Nat
  indexbase : Nat
  count : List Nat
  stride : List Int
  idx : List Nat
  tile : Option (Nat × Nat × Int)
  conv : Nat
  /-- Open loops, innermost first: dimension and position after its LOOP. -/
  loops : List (Nat × Nat)
  named : List (Nat × Nat)
  transfers : Map Transfer
  done : Nat
  /-- The first DTIME past the largest GWCT of its writes. -/
  gwct : Nat
  /-- Cancellation asked for by SECAN (R193). -/
  cancel : Bool
  /-- The position is held by the request of a tile handle, which has no commands (R204). -/
  handle : Bool
  /-- Ended by abort or cancellation, status not yet written: code, and index times 256. -/
  aborting : Option Nat
  deriving DecidableEq, Repr

/-! ### Matrix, compositing -/

/-- A latched weight tile (R208): bytes of the tile, format and planes. -/
structure Weights where
  bytes : Map Byte
  fmt : Nat
  planes : Nat
  deriving DecidableEq, Repr

/-- An operation of the matrix queue (R212); the handle of an MMA is its descriptor (Table 12.8). -/
inductive MOp where
  | mlds (addr slot len doff : Nat)
  | mldsQ (quire seq slot len doff : Nat)
  | mwld (slot set fmt planes : Nat)
  | mma (slot rows planes fmt : Nat) (scale : Int) (hsize : Nat) (acc : Bool) (bank set : Nat) (handle : Option Nat)
  | mhad (slot : Nat) (scale : Int) (size fmt : Nat)
  | maccSt (bank addr rows cvt : Nat)
  | maccLd (bank addr rows cvt : Nat)
  | mzero (bank : Nat)
  | mrel (set : Bool) (first count dst : Nat)
  deriving DecidableEq, Repr

/-- An entry of the queue: its team, warp and operation; the bytes of a quire slot or of a tile handle's rows once
they are there, the poisoned words among them with their rows, whether the handle's request has aborted, and the list
position that it holds (R204). -/
structure QOp where
  team : Nat
  warp : Nat
  op : MOp
  stream : Map Byte
  bad : Map Nat
  streamed : Bool
  failed : Bool
  place : Option Nat
  deriving DecidableEq, Repr

/-- The bytes of a bank: those not listed are 0 in one that MZERO or CBIND has cleared, and free in any other (R205). -/
structure Bank where
  clear : Bool
  data : Map Byte
  deriving DecidableEq, Repr

/-- A compositing binding of a bank (R254). -/
structure CBind where
  threshold : Word
  logs : Bool
  base : Nat
  logsz : Nat
  deriving DecidableEq, Repr

/-- The issue group last formed on a port: cycle, grid, program counter, lanes as a mask, and whether splits of other warps
may join it (R12, R26, R27). -/
structure PortUse where
  cycle : Nat
  grid : Nat
  pc : DWord
  mask : Word
  open' : Bool
  deriving DecidableEq, Repr

/-- A core's own resources besides its warps and L1 (R205, R183). -/
structure Core where
  operand : Map Byte
  slotOwner : Map Nat
  setOwner : Map Nat
  weights : Map Weights
  /-- Format that the last MWLD issued names for each set (R220). -/
  setFmt : Map (Nat × Nat)
  /-- Banks by team and bank number: bytes, failed mark, compositing binding. -/
  banks : Map Bank
  failed : List Nat
  cbinds : Map CBind
  queue : Map QOp
  /-- Poisoned words: of operand memory, of weight sets from 2^20 up, of banks from 2^30 up, with their rows (R352). -/
  xpoison : Map Nat
  /-- Quires by team and number. -/
  quires : Map Quire
  /-- Instruction-cache leaves held, by node and physical leaf, and constant-cache lines, by node and physical line with
  the launch that holds each (R122, R312). -/
  icache : Map (List Byte)
  ccache : Map (Nat × List Byte)
  /-- The last issue group of each port, by 4 * partition + port, and the cycle from which port A of a partition takes
  another FP64 group (R69). -/
  ports : Map PortUse
  fp64 : Map Nat
  /-- Its vault is offline: no further placement (R362). -/
  offline : Bool
  temp : Nat
  deriving DecidableEq, Repr

/-! ### Continuation records and draws -/

/-- What a suspended thread's unit has to do (R230). -/
inductive Work where
  | susp
  | trace (ray : List Word) (root : Nat)
  | march (ray : List Word) (desc : Nat) (quad : List Word) (buf all : Bool) (lim : Nat)
  /-- Its result, read as the thread suspends. -/
  | sample (result : List Word)
  deriving DecidableEq, Repr

/-- A continuation record (R226). -/
structure Rec where
  resume : DWord
  grid : Nat
  kind : Nat
  n : Nat
  a : Nat
  pred : BitVec 12
  regs : List Word
  work : Work
  /-- Its place in the record area and the core whose unit does the work. -/
  slot : Nat
  core : Nat
  completed : Option Nat
  /-- A warp is running from it. -/
  inUse : Bool
  deriving DecidableEq, Repr

/-- A draw in progress (R239 to R244): descriptor fields, large triangles, statistics. -/
structure Draw where
  grid : Nat
  desc : Nat
  width : Nat
  height : Nat
  vis : Nat
  stats : Nat
  /-- Large triangles in order: six coordinates in 1/256 pixel, three depths, identifier. -/
  tris : List (List Int × List Word × Nat)
  /-- Bins committed. -/
  bins : List Nat
  counters : List Nat
  deriving DecidableEq, Repr

/-! ### Scheduler -/

/-- A queue context (Table 22.1). -/
structure Queue where
  v : Bool
  err : Bool
  cls : Nat
  logn : Nat
  ring : Nat
  ridx : Nat
  widx : Nat
  privb : Nat
  pshr : Nat
  schkd : Nat
  reca : Nat
  recsz : Nat
  asid : Nat
  root : Nat
  asv : Bool
  deriving DecidableEq, Repr

/-- A partition descriptor (Table 21.8) and its LEASE (Table 20.1). -/
structure Part where
  v : Bool
  fring : Nat
  scsh : Nat
  eng : BitVec 32
  func : Nat
  groups : BitVec 16
  ranges : List (Nat × Nat)
  lease : Nat
  deriving DecidableEq, Repr

/-- A page fault waiting for its record or its answer (R322): `unit` is the continuation record whose unit walk
faulted, `fatal` an answer that its warp has still to take (R303, R325), `log` the addresses already lost of a log write
that holds a drain (R259). -/
structure PFault where
  warp : Nat
  lanes : List Nat
  /-- The lane that faulted (R130, R302). -/
  lane : Nat
  part : Nat
  asid : Nat
  va : Nat
  queue : Nat
  core : Nat
  kind : Nat
  why : Nat
  seq : Option Nat
  time : Nat
  unit : Option Nat
  fatal : Bool
  log : Option (List Nat)
  /-- Null collisions and draws that the march of `unit` had reached (R253). -/
  counts : Nat × Nat
  deriving DecidableEq, Repr

/-- A held translation (R316, R320). -/
structure Tlb where
  /-- The TLB that holds it: 4 * core + partition, 512 + core, or 640 + stack for a stack's translation cache. -/
  holder : Nat
  part : Nat
  asid : Nat
  /-- Log2 of the span: 16, 21 (a CONT group, R319) or 29; `vpn` is the address divided by it. -/
  span : Nat
  vpn : Nat
  entry : Nat
  first : Nat
  deriving DecidableEq, Repr

structure Sched where
  parts : Map Part
  /-- Queues by partition and number. -/
  queues : Map Queue
  /-- Active slots 0 to 31: partition and queue key. -/
  active : List (Option Nat)
  grids : Map Grid
  teams : Map Team
  nextUid : Nat
  recs : Map Rec
  draws : Map Draw
  /-- Saved images by core: its warps (R324). -/
  images : Map (Map Warp)
  /-- What the image keeps of a saved core itself: operand memory, weight sets, matrix queue and claims. -/
  cimages : Map Core
  faults : Map PFault
  faultSeq : Map Nat
  tlb : List Tlb
  lanePend : Map Nat
  laneMap : Map Nat
  laneSel : Nat
  deriving DecidableEq, Repr

/-! ### Control cores and system registers -/

/-- The record of an ECALL of a control core (R314): where it was issued, and whether in a trap handler, which tells it from
another one of the core (R307); operand, code and the register that waits; whether it has reached CC3; its reply, when that came while
the core was not waiting. -/
structure CcCall where
  pc : DWord
  deep : Bool
  operand : Nat
  code : Nat
  sd : Nat
  sent : Bool
  reply : Option Word
  deriving DecidableEq, Repr

/-- A control core (R297, R298). -/
structure CtlCore where
  pc : DWord
  s : Map Word
  g : BitVec 7
  mode : Mode
  wst : Word
  tcause : Word
  tepc : DWord
  taddr : DWord
  tvec : DWord
  hscr : List Word
  lpsel : Nat
  hbeat : Word
  wdog : Nat
  busy : Bool
  prev : Bool
  intp : BitVec 8
  svcsrc : Word
  /-- Waiting: 0 not, 1 WFI, 2 TSLEEP until `wtime`, 3 ECALL. -/
  waiting : Nat
  wtime : Nat
  wsd : Nat
  /-- Records of its ECALLs that have not ended, oldest first (R307, R314). -/
  calls : List CcCall
  /-- The cycle of the control cores' own clock from which it may issue again (R17, R68). -/
  ready : Nat
  /-- The largest GWCT of its stores, and of values that its loads have returned, for which its releases wait (R145, R151, R380). -/
  wch : Nat
  bank : Option Nat
  deriving DecidableEq, Repr

/-- A service record (R314). -/
structure Svc where
  part : Nat
  ticket : Nat
  code : Nat
  operand : Nat
  core : Nat
  wid : Nat
  warp : Nat
  popped : Bool
  deriving DecidableEq, Repr

/-- The four control cores (R297). -/
structure CtlCores where
  c0 : CtlCore
  c1 : CtlCore
  c2 : CtlCore
  c3 : CtlCore
  deriving DecidableEq, Repr

structure Sys where
  cc : CtlCores
  talw : Nat
  tokrate : Nat
  qclk : Nat
  qpwr : Nat
  fwslot : Nat
  ccrun : BitVec 4
  hold : Bool
  quiet : Bool
  /-- The queue whose ring entry was being read when HOLD was set (R379). -/
  reading : Option Nat
  /-- The largest GWCT of the handover structure, for which QUIET waits; 0 while it is not written (R379). -/
  handed : Nat
  scc : Nat
  hoptr : Nat
  svc : List Svc
  deriving DecidableEq, Repr

/-! ### Presentation time and media -/

inductive PtpSt where
  | unlocked | acquiring | locked | holdover
  deriving DecidableEq, Repr

structure Ptp where
  /-- The bases and the rate in force, in parts per 10^9: 0 until the first lock (R263). -/
  pbase : Nat
  dbase : Nat
  rate : Int
  /-- The unit has been locked once. -/
  first : Bool
  /-- The bases and the rate that the servo works with while it converges for the first time. -/
  sbase : Nat
  sdbase : Nat
  srate : Int
  st : PtpSt
  run : Nat
  steps : Nat
  port : Nat
  /-- The PTP domain that system software has set (R265). -/
  domain : Nat
  ofs : Int
  master : Bool
  /-- DTIME of the last accepted Sync and of the last accepted Announce, and log2 of the announce interval in s (R264). -/
  lastSync : Nat
  lastAnn : Nat
  annLog : Int
  deriving DecidableEq, Repr

/-- A flow descriptor (Table 17.3). -/
structure FlowDesc where
  en : Bool
  send : Bool
  pair : Bool
  port : Nat
  samp : Nat
  depth : Nat
  pm : Bool
  snd : Bool
  part : Nat
  width : Nat
  height : Nat
  fden : Nat
  fnum : Nat
  offs : Int
  linedur : Nat
  fill : List Nat
  pt : Nat
  udp : Nat
  dstip : Nat
  srcip : Nat
  ssrc : Nat
  buf : Nat
  deriving DecidableEq, Repr

/-- A frame object (R271, R277): the frame it holds, its bytes in pgroup order by line * 2^16 + offset in the line, of the
pgroups that are present, and its timestamp. -/
structure FrameObj where
  frame : Option Nat
  /-- Pinned: packets of this frame are discarded (R271). -/
  pinned : Option Nat
  data : Map Byte
  /-- Poisoned 8-byte units of the data, with the row of Table 24.1 in which each error was found (R352). -/
  bad : Map Nat
  ts : Option Nat
  deriving DecidableEq, Repr

/-- A committed frame whose packets are still to leave: its contents, RTP timestamp and the next line and byte of the line
(R281); the contents sent before it, which take its place on a left-out card, and whether it is a repetition (R279, R296). -/
structure Sending where
  frame : Nat
  rtp : Nat
  data : Map Byte
  bad : Map Nat
  before : Map Byte
  beforeBad : Map Nat
  again : Bool
  line : Nat
  off : Nat
  deriving DecidableEq, Repr

structure Flow where
  desc : FlowDesc
  /-- Accepted, late, discarded, duplicates, substitutions, late publications (Table 17.4). -/
  counters : List Nat
  objs : Map FrameObj
  write : Option Nat
  /-- The object most recently sent, and the contents most recently sent (R277, R279). -/
  lastSent : Option Nat
  lastData : Map Byte
  lastBad : Map Nat
  /-- Published frames and their objects. -/
  published : Map Nat
  /-- Frame and sequence number of the packets accepted, for ST 2022-7 (R270). -/
  seqs : List (Nat × Nat)
  sending : List Sending
  txSeq : Nat
  /-- The last frame committed or past when the flow was enabled (R279). -/
  committed : Option Nat
  /-- Frames whose slot was discarded on a left-out card (R296). -/
  leftOut : List Nat
  deriving DecidableEq, Repr

/-! ### Fabric -/

/-- An instance of a handle (R288, R291): 0 idle, 1 outstanding, 2 completed, 3 in error; its CWAIT status; packets of this
card's own not yet consumed; bytes deposited here, and the largest GWCT of their writes. -/
structure Inst where
  st : Nat
  status : Nat
  own : Nat
  got : Nat
  gwct : Nat
  deriving DecidableEq, Repr

/-- A persistent handle (Table 19.3). -/
structure Handle where
  valid : Bool
  dst : Nat
  src : Nat
  len : Nat
  route : List Nat
  ops : List Nat
  mcast : Nat
  hops : Nat
  dexp : Bool
  ncont : Nat
  rank : Nat
  op : Nat
  ty : Nat
  clean : Bool
  nextInst : Nat
  starts : Nat
  /-- The instances of numbers 0 to 3. -/
  runs : List Inst
  /-- CWAIT status that a later instance of each number has already earned here before its CSTART, or 0. -/
  early : List Nat
  deriving DecidableEq, Repr

/-- A staging chunk (R286): contributions by rank, and their common remaining lists. -/
structure Chunk where
  handle : Nat
  part : Nat
  inst : Nat
  chunk : Nat
  conts : Map (Map Byte)
  rest : Option (Nat × List Nat × List Nat × Nat)
  deriving DecidableEq, Repr

/-- A packet that stands at this card: whether this card originated it, and the poisoned 8-byte units of its payload by offset, with
their rows. -/
structure Standing where
  own : Bool
  bad : Map Nat
  pkt : CollPacket
  deriving DecidableEq, Repr

/-- A packet in flight on a link: the number of its first flit, and whether this card originated it. -/
structure LinkPkt where
  seq : Nat
  own : Bool
  pkt : CollPacket
  deriving DecidableEq, Repr

/-- A link (R282): failures in a row of the flit expected here, data bytes of a packet whose last flit is still to come, packets in
flight out of this card, oldest first, flits sent, and the flit that the peer asks for again, with the number of times. -/
structure Link where
  up : Bool
  fails : Nat
  part : List Nat
  out : List LinkPkt
  sent : Nat
  asked : Option (Nat × Nat)
  deriving DecidableEq, Repr

/-- A timed-barrier group of this card (R293). -/
structure TGroup where
  ranks : List Nat
  rank : Nat
  /-- Arrivals that the master has received: rank and time. -/
  arrivals : List (Nat × Nat)
  /-- Lists that this card has received: time and ranks. -/
  lists : List (Nat × List Nat)
  deriving DecidableEq, Repr

structure Fabric where
  links : List Link
  /-- The fabric group of the card: the cards that fabric scope includes, as system software has set it (R283). -/
  fgroup : List Nat
  handles : Map Handle
  /-- Packets standing at this card, waiting for their hop. -/
  here : Map Standing
  chunks : Map Chunk
  groups : Map TGroup
  nextId : Nat
  deriving DecidableEq, Repr

/-! ### Power, reliability, security -/

structure Power where
  tokens : List Nat
  halved : List Bool
  forced : List Bool
  dram : List Nat
  /-- The power-derived limit of the core clock in MHz (R346). -/
  plim : Nat
  trip : Bool
  /-- Bank groups blocked by refresh: vault, group, until. -/
  blocks : List (Nat × Nat × Nat)
  /-- Microsecond boundaries at which each stack's pool has received its refill. -/
  refilled : List Nat
  /-- The ticks in which TALW has changed since the boundary served last, oldest first, and TALW at the start of each (R349). -/
  talwMark : List (Nat × Nat)
  deriving DecidableEq, Repr

/-- A machine-check record (Table 24.3). -/
structure McRec where
  seq : Nat
  lost : Nat
  rq : Nat
  whereRow : Nat
  kind : Nat
  part : Nat
  core : Nat
  queue : Nat
  time : Nat
  addr : Nat
  deriving DecidableEq, Repr

structure Reliab where
  window : List McRec
  lost : Nat
  seq : Nat
  /-- Vaults whose bus has used its spare. -/
  remapped : List Nat
  /-- Frames with a bad frame check sequence that each media port has dropped (Table 24.1). -/
  fcs : List Nat
  deriving DecidableEq, Repr

/-- A flash image slot (R366, Table 25.1). -/
structure Image where
  header : List Byte
  body : List Byte
  sig : List Byte
  key : List Byte
  deriving DecidableEq, Repr

structure Secure where
  keyHash : List Byte
  seed : List Byte
  /-- Anti-rollback fuse row. -/
  fuseRow : DWord
  /-- Fused repair maps: physical lanes by partition index (R364), and the matrix row maps as bytes (R373). -/
  laneFuse : Map Nat
  rowFuse : List Byte
  /-- What will fail next, an input: a bring-up stage (1, 3 or 4), or 8 the flash device. -/
  hw : Nat
  /-- Flash bytes; an unlisted byte is erased (0xFF). -/
  flash : Map Byte
  meas : List (List Byte)
  /-- Armed slot of the update in progress. -/
  update : Option Nat
  stage : Nat
  fail : Nat
  recov : Bool
  slot : Nat
  arej : Bool
  brej : Bool
  plk : Bool
  cnt : Nat
  mbBusy : Bool
  mbResult : Nat
  mbOff : Nat
  mbLen : Nat
  /-- RESULT of the command in progress. -/
  mbNext : Nat
  window : Map Byte
  spdm : Nat
  /-- The request that the host has written last through DOE, from its header on: what an event's operands do not give of it. -/
  doe : List Byte
  /-- The transcripts of SPDM: versions, capabilities and algorithms; digests and certificates; measurements that no signature has
  covered yet. -/
  talkA : List Byte
  talkB : List Byte
  talkM : List Byte
  /-- DTIME at the start of bring-up stage 5. -/
  bootAt : Nat
  /-- A RAISE whose fuses are being blown: the control core that asked, and the bits still to blow (R368). -/
  blow : Option (Nat × List Nat)
  deriving DecidableEq, Repr

/-! ### Outputs, moves and the whole -/

/-- What left the device (the host interface of the model). -/
inductive Out where
  | msix (func vector : Nat)
  /-- A packet of a send flow: the line, the pixel at which its segment starts, and its bytes (R281). -/
  | media (port flow frame line first : Nat) (data : List Byte) (rtp seq : Nat) (marker : Bool)
  | ptp
  | toHost (port : Nat)
  /-- A link error reported under PCI Express 6.0 (Table 24.1). -/
  | pcieError
  /-- A flit of a collective packet as it goes on a link (R282). -/
  | flit (link : Nat) (f : Flit)
  | resend (link : Nat)
  | tbarArrive (group rank time : Nat)
  | tbarList (group time : Nat) (ranks : List Nat)
  | hostData (pa : Nat) (bytes : List Byte)
  | peerAck (pa : Nat)
  | mcRead (r : Option McRec)
  /-- What a read of a register of a PCIe function gives (R388). -/
  | regRead (fn off v : Nat)
  | spdm (msg : List Byte)
  | fatal
  deriving DecidableEq, Repr

/-- Who issues the next instruction: a split of a warp, named by one of its lanes; a control core; a
list position of a stream engine. -/
inductive Agent where
  | warp (w lane : Nat)
  | cc (k : Nat)
  | list (e p : Nat)
  | idle
  deriving DecidableEq, Repr

/-- How an issue ended: retired or waiting; a trap and its lane; a replayable fault; a machine check (R305). -/
inductive Ended where
  | ok
  | trap (lane : Nat)
  | fault
  | check
  deriving DecidableEq, Repr

/-- The issue in progress: who, the stall count of its control field (R65), the port it issues on (R69), and how it
ended. -/
structure Issue where
  agent : Agent
  stall : Nat
  port : Nat
  ended : Ended
  deriving DecidableEq, Repr

/-- A physical error that strikes a step (R352 to R355): inputs of the model. -/
inductive Upset where
  /-- The shadow unit of a lane's result, or of one half of a packed one, finds this sign and cat(E, F prefix). -/
  | shadow (lane half : Nat) (sign : Bool) (q : Nat)
  /-- The shadow of a unit that works for the instruction finds this sign and prefix for its result number `k`. -/
  | unit (k : Nat) (sign : Bool) (q : Nat)
  | laneBus
  | register
  /-- A datapath without a check flips bits of a result of the instruction, or of a register from which its address is formed
(Table 24.2). -/
  | gap (lane : Nat) (x : Res) (mask : Word)
  deriving DecidableEq, Repr

/-- Where an error that nothing checks strikes data (Table 24.2): a byte of memory, of team memory or of a core's banks and
operand memory. -/
inductive Gap where
  | mem (pa : Nat) (b : Byte)
  | team (key : Nat) (b : Byte)
  | bank (core key off : Nat) (b : Byte)
  | operand (core off : Nat) (b : Byte)
  | pixel (flow obj off : Nat) (b : Byte)
  | chunk (key rank off : Nat) (b : Byte)
  deriving DecidableEq, Repr

/-- What the next step is. -/
inductive Act where
  | issue (a : Agent)
  /-- Splits of a warp, each named by a lane, issue in one cycle (R305). -/
  | together (w : Nat) (ls : List Nat)
  | event (i : Instr)
  /-- An uncorrectable error is found at a row of Table 24.1: in the unit of memory holding `pa`, or in a team-memory word. -/
  | poison (row pa : Nat)
  | teamPoison (key : Nat)
  /-- The same in a word of a core's operand memory, weight sets or banks. -/
  | corePoison (core key : Nat)
  /-- The same in a word of a line of a core's L1. -/
  | l1Poison (core key k : Nat)
  /-- The same in a register of a lane of a warp. -/
  | regPoison (w l : Nat) (x : Res)
  /-- The same in a unit of a frame object (R352). -/
  | framePoison (flow obj unit : Nat)
  /-- The PCIe link reports an error that replay has not corrected (Table 24.1). -/
  | pcieError
  /-- L2 gives a line back to the next level, whose poison unit is the line (R352). -/
  | evictL2 (key : Nat)
  /-- An error in a datapath without a check (R354). -/
  | gap (g : Gap)
  /-- The shadow of a unit finds this sign and prefix for result number `k` of a queued matrix operation, or of a suspended thread's
work (R355). -/
  | shadowOp (core id k : Nat) (sign : Bool) (q : Nat)
  | shadowRec (id k : Nat) (sign : Bool) (q : Nat)
  /-- The acknowledgement of a peer card's write leaves, once the write is visible (R146). -/
  | peerAck (id : Nat)
  /-- The same in a staging chunk (R352), named by its key. -/
  | stagePoison (chunk : Nat)
  /-- An error that a check has corrected, at the row of Table 24.1 (R351). -/
  | corrected (whereRow part core addr : Nat)
  /-- System software sets a timed-barrier group and this card's rank in it (R283, R293). -/
  | groupSet (group : Nat) (ranks : List Nat) (rank : Nat)
  /-- System software sets the fabric group of the card (R283), and the port and domain of the PTP unit (R265). -/
  | fabricGroup (cards : List Nat)
  | ptpSet (domain port : Nat)
  /-- The next fuse of a RAISE is blown (R368). -/
  | blow
  /-- The host reads, or writes, a 32-bit register of a PCIe function (R388). -/
  | regRead (fn off : Nat)
  | regWrite (fn off v : Nat)
  /-- An uncorrectable error that the commit of a contained node reads (R359). -/
  | commitError (grid line : Nat)
  /-- Bring-up takes its next step (R373). -/
  | bringUp
  /-- The hardware will fail at a bring-up stage (1, 3 or 4), or the flash device at the next command (8). -/
  | hardware (k : Nat)
  /-- The host writes the flash mailbox's window through a function (R376, R388). -/
  | window (fn off : Nat) (bytes : List Byte)
  /-- The host writes a request of SPDM through DOE (R370). -/
  | doe (bytes : List Byte)
  /-- The host changes its own memory, or a peer card changes its own (Table 21.1). -/
  | foreign (pa : Nat) (bytes : List Byte)
  | wait
  deriving DecidableEq, Repr

/-- One move: the core cycles that pass before it, and what then happens. -/
structure Move where
  dc : Nat
  upset : Option Upset
  act : Act
  deriving DecidableEq, Repr

/-- DTIME in ns, core cycles, and the part of a ns that has passed, in units of 1 ns divided by the core clock in MHz
(R18). The readings of DTIME across the package, which R18 lets differ by one tick, are one reading here.
[DESIGN CHOICE, unsafe] (entry 90) -/
structure Clock where
  dtime : Nat
  cycles : Nat
  sub : Nat
  deriving DecidableEq, Repr

/-- Everything but memory, the clock and what moves next. -/
structure Dev where
  on : Bool
  asleep : Bool
  nonce : Nat
  /-- Resident warps by a number of the model's own. -/
  warps : Map Warp
  ms : MemSys
  cores : Map Core
  /-- Lists by engine and position. -/
  lists : Map CmdList
  sched : Sched
  sys : Sys
  ptp : Ptp
  flows : Map Flow
  fabric : Fabric
  power : Power
  rel : Reliab
  sec : Secure
  outs : List Out
  deriving DecidableEq, Repr

/-- The device (see INVENTORY.md, State). -/
structure State where
  clk : Clock
  mem : Memory
  agenda : List Move
  cur : Issue
  dev : Dev
  deriving DecidableEq, Repr

/-! ### Reset -/

/-- Where CC3 sees its mask ROM: in the range of physical addresses that R315 reserves, past firmware memory, so that no other agent
reaches it (R365). The manual names no address. [DESIGN CHOICE, safe] (entry 110) -/
def romBase : Nat := 0x003008000000

def CtlCore.reset (k : Nat) : CtlCore :=
  { pc := if k = 3 then BitVec.ofNat 64 (romBase + 4) else 4, s := [], g := 0, mode := if k = 3 then .machine else .supervisor,
    wst := 0, tcause := 0, tepc := 0, taddr := 0, tvec := 0, hscr := [0, 0, 0, 0], lpsel := 0, hbeat := 0, wdog := 0,
    busy := false, prev := false, intp := 0, svcsrc := 0, waiting := 0, wtime := 0, wsd := 255,
    calls := [], ready := 0, wch := 0, bank := none }

/-- An all-zero digest. -/
def zeroDigest : List Byte := List.replicate 32 0

/-- Measurement 1 is fixed; the others read zero until they are measured, which nothing outside can read yet (R371).
[DESIGN CHOICE, safe] (entry 127) -/
def Dev.reset : Dev :=
  { on := true
    asleep := false
    nonce := 0
    warps := []
    ms := { l1 := [], leases := [], vis := [], stores := [], loads := [], atomics := [], partials := [], fills := [],
            team := [], poison := [], teamPoison := [], xbad := [], peerAcks := [], nextId := 0 }
    cores := []
    lists := []
    sched := { parts := [], queues := [], active := List.replicate 32 none, grids := [], teams := [],
               nextUid := 0, recs := [], draws := [], images := [], cimages := [], faults := [], faultSeq := [], tlb := [],
               lanePend := [], laneMap := [], laneSel := 0 }
    sys := { cc := { c0 := CtlCore.reset 0, c1 := CtlCore.reset 1, c2 := CtlCore.reset 2, c3 := CtlCore.reset 3 }
             talw := 0x01000100, tokrate := 9200, qclk := 2300, qpwr := 1200, fwslot := 0, ccrun := 8,
             hold := false, quiet := false, reading := none, handed := 0, scc := 0, hoptr := 0, svc := [] }
    ptp := { pbase := 0, dbase := 0, rate := 0, first := false, sbase := 0, sdbase := 0, srate := 0, st := .unlocked, run := 0,
             steps := 0, port := 0, domain := 127, ofs := 0, master := false, lastSync := 0, lastAnn := 0, annLog := 0 }
    flows := []
    fabric := { links := List.replicate 8 { up := true, fails := 0, part := [], out := [], sent := 0, asked := none }, fgroup := [],
                handles := [], here := [], chunks := [], groups := [], nextId := 0 }
    power := { tokens := [9200, 9200], halved := [false, false], forced := [false, false], dram := [0, 0],
               plim := 2300, trip := false, blocks := [], refilled := [0, 0], talwMark := [] }
    rel := { window := [], lost := 0, seq := 0, remapped := [], fcs := [0, 0, 0, 0] }
    sec := { keyHash := List.replicate 32 0, seed := List.replicate 32 0, fuseRow := 0, laneFuse := [], rowFuse := [], hw := 0,
             flash := [], meas := [sha256 Config.romImage, zeroDigest, zeroDigest, zeroDigest], update := none,
             stage := 0, fail := 0, recov := false, slot := 0, arej := false, brej := false, plk := false,
             cnt := 0, mbBusy := false, mbResult := 0, mbOff := 0, mbLen := 0, mbNext := 0, window := [],
             spdm := 0, doe := [], talkA := [], talkB := [], talkM := [], bootAt := 0, blow := none }
    outs := [] }

/-- The device right after reset (R297, R365, Table 20.1): CC3 alone runs, in machine mode. What its ROM does is the
step RESET (R373); nothing else has been chosen to issue. -/
def State.reset : State :=
  { clk := { dtime := 0, cycles := 0, sub := 0 }
    mem := []
    agenda := []
    cur := { agent := .idle, stall := 0, port := 0, ended := .ok }
    dev := Dev.reset }

/-! ### Stops -/

/-- Why a step may stop with a fault. -/
inductive Fault where
  /-- The agent that is to issue does not exist: no warp in that slot, no live split on that lane, no
  list in that position. Raised by every instruction of that agent. Safe: the device never issues from
  a place that holds nothing. -/
  | noIssuer
  deriving DecidableEq, Repr

/-- Why a step may be refused. -/
inductive Refusal where
  /-- An instruction whose meaning has not been written. Raised by exec alone. Safe. -/
  | notModelled (mnemonic : String)
  deriving DecidableEq, Repr

end Sys2Proof.Machine
end

