-- ==== Sys2Proof/Machine/Run.lean ====
section
/-! DEFINITION. A run: the state a meaning works on, with the bytes it writes kept apart, and how a run becomes the next state. -/

namespace Sys2Proof.Machine

/-! ### Control cores -/

/-- Control core `k`. -/
def CtlCores.get (c : CtlCores) : Nat → CtlCore
  | 0 => c.c0
  | 1 => c.c1
  | 2 => c.c2
  | _ => c.c3

/-- Change control core `k`. -/
def CtlCores.modify (c : CtlCores) (k : Nat) (f : CtlCore → CtlCore) : CtlCores :=
  match k with
  | 0 => { c with c0 := f c.c0 }
  | 1 => { c with c1 := f c.c1 }
  | 2 => { c with c2 := f c.c2 }
  | 3 => { c with c3 := f c.c3 }
  | _ => c

/-- What a meaning transforms: the state's parts, and the bytes of memory written so far, newest first. -/
structure Run where
  clk : Clock
  mem : Memory
  w : List (Nat × Byte)
  cur : Issue
  dev : Dev
  /-- The grid whose write is under way, where the writer is known (R303). -/
  writer : Option Nat
  deriving DecidableEq, Repr

def Run.of (s : State) : Run := { clk := s.clk, mem := s.mem, w := [], cur := s.cur, dev := s.dev, writer := none }

/-- The next state: memory with the run's bytes written in order; clock and agenda belong to the step. -/
def finish (s : State) (r : Run) : State :=
  { clk := s.clk
    mem := s.mem.writes r.w.reverse
    agenda := s.agenda
    cur := r.cur
    dev := { r.dev with nonce := s.dev.nonce + 1 } }

/-- Nothing is issuing. -/
def Issue.idle : Issue := { agent := .idle, stall := 0, port := 3, ended := .ok }

/-- A meaning that always goes on. -/
def act (f : Run → Run) (s : State) : Host.Outcome State Fault Refusal := .next (finish s (f (Run.of s)))

/-- The writes that follow are those of grid `g`. -/
def Run.by' (r : Run) (g : Nat) : Run := { r with writer := some g }

/-- A free choice below `n` (R71, R189, R227); `tag` tells the choices of one step apart. -/
def Run.pick (r : Run) (tag n : Nat) : Nat := Config.freeChoice (r.dev.nonce * 2 ^ 32 + tag) % n

/-! ### Bytes at their home -/

def lookW : List (Nat × Byte) → Nat → Option Byte
  | [], _ => none
  | (b, v) :: l, a => if b = a then some v else lookW l a

/-- The byte of physical memory at `a`, this run's own writes included. -/
def Run.peek (r : Run) (a : Nat) : Byte := (lookW r.w a).getD (r.mem.read a)

def Run.poke (r : Run) (a : Nat) (b : Byte) : Run := { r with w := (a, b) :: r.w }

def Run.peekN (r : Run) (a : Nat) : Nat → List Byte
  | 0 => []
  | n + 1 => r.peek a :: r.peekN (a + 1) n

def Run.pokes (r : Run) (a : Nat) : List Byte → Run
  | [] => r
  | b :: bs => (r.poke a b).pokes (a + 1) bs

/-! ### Parts of the state -/

def Run.modMs (r : Run) (f : MemSys → MemSys) : Run := { r with dev := { r.dev with ms := f r.dev.ms } }
def Run.modSched (r : Run) (f : Sched → Sched) : Run := { r with dev := { r.dev with sched := f r.dev.sched } }
def Run.modSys (r : Run) (f : Sys → Sys) : Run := { r with dev := { r.dev with sys := f r.dev.sys } }
def Run.modFabric (r : Run) (f : Fabric → Fabric) : Run := { r with dev := { r.dev with fabric := f r.dev.fabric } }
def Run.modPower (r : Run) (f : Power → Power) : Run := { r with dev := { r.dev with power := f r.dev.power } }
def Run.modRel (r : Run) (f : Reliab → Reliab) : Run := { r with dev := { r.dev with rel := f r.dev.rel } }
def Run.modSec (r : Run) (f : Secure → Secure) : Run := { r with dev := { r.dev with sec := f r.dev.sec } }
def Run.modPtp (r : Run) (f : Ptp → Ptp) : Run := { r with dev := { r.dev with ptp := f r.dev.ptp } }
def Run.modFlows (r : Run) (f : Map Flow → Map Flow) : Run := { r with dev := { r.dev with flows := f r.dev.flows } }

def Run.modWarp (r : Run) (w : Nat) (f : Warp → Warp) : Run :=
  { r with dev := { r.dev with warps := modM r.dev.warps w f } }

def Run.modWarps (r : Run) (f : Nat → Warp → Warp) : Run :=
  { r with dev := { r.dev with warps := mapM' r.dev.warps f } }

def Run.warp (r : Run) (w : Nat) : Option Warp := lookM r.dev.warps w
def Run.team (r : Run) (t : Nat) : Option Team := lookM r.dev.sched.teams t
def Run.grid (r : Run) (g : Nat) : Option Grid := lookM r.dev.sched.grids g

def Run.modTeam (r : Run) (t : Nat) (f : Team → Team) : Run :=
  r.modSched (fun s => { s with teams := modM s.teams t f })

def Run.modGrid (r : Run) (g : Nat) (f : Grid → Grid) : Run :=
  r.modSched (fun s => { s with grids := modM s.grids g f })

/-- A core whose resources nothing has used. -/
def Core.empty : Core :=
  { operand := [], slotOwner := [], setOwner := [], weights := [], setFmt := [], banks := [], failed := [],
    cbinds := [], queue := [], xpoison := [], quires := [], icache := [], ccache := [], ports := [], fp64 := [],
    offline := false, temp := 0 }

def Run.core (r : Run) (c : Nat) : Core := lookD r.dev.cores c Core.empty

def Run.modCore (r : Run) (c : Nat) (f : Core → Core) : Run :=
  { r with dev := { r.dev with cores := putM r.dev.cores c (f (r.core c)) } }

def Run.modList (r : Run) (l : Nat) (f : CmdList → CmdList) : Run :=
  { r with dev := { r.dev with lists := modM r.dev.lists l f } }

def Run.emit (r : Run) (o : Out) : Run := { r with dev := { r.dev with outs := r.dev.outs ++ [o] } }

def Run.freshId (r : Run) : Nat × Run :=
  (r.dev.ms.nextId, r.modMs (fun m => { m with nextId := m.nextId + 1 }))

def Run.freshUid (r : Run) : Nat × Run :=
  (r.dev.sched.nextUid, r.modSched (fun s => { s with nextUid := s.nextUid + 1 }))

/-! ### Partitions, queues, cores -/

/-- Key of queue `q` of partition `p`. -/
def qkey (p q : Nat) : Nat := p * 1024 + q

def Run.part (r : Run) (p : Nat) : Option Part :=
  match lookM r.dev.sched.parts p with
  | some x => if x.v then some x else none
  | none => none

/-- The partition that owns a core (R327). -/
def Run.partOfCore (r : Run) (c : Nat) : Option Nat :=
  (r.dev.sched.parts.find? (fun e => e.2.v && e.2.groups.getLsbD (c / 8))).map (·.1)

/-- The partition of a PCIe function (R327). -/
def Run.partOfFunc (r : Run) (fn : Nat) : Option Nat :=
  (r.dev.sched.parts.find? (fun e => e.2.v && e.2.func == fn)).map (·.1)

def Run.queue (r : Run) (k : Nat) : Option Queue := lookM r.dev.sched.queues k

def Run.modQueue (r : Run) (k : Nat) (f : Queue → Queue) : Run :=
  r.modSched (fun s => { s with queues := modM s.queues k f })

/-- The stack of a core (0 north, 1 south): R11, R16. -/
def stackOf (core : Nat) : Nat := core / 64

/-- LEASE of a partition, 512 ns at reset (Table 20.1). -/
def Run.leaseLen (r : Run) (p : Nat) : Nat :=
  match lookM r.dev.sched.parts p with
  | some x => x.lease
  | none => 512

/-- The grid of a warp. -/
def Run.gridOf (r : Run) (wp : Warp) : Nat :=
  match r.team wp.team with
  | some t => t.grid
  | none => 0

/-- The address space of a grid: partition, ASID and root, and the TLBs that the accessing agent looks in, nearest first
(R320): 4 * core + partition, 512 + core, 640 + stack. -/
structure ASpace where
  part : Nat
  asid : Nat
  root : Nat
  tlbs : List Nat
  deriving DecidableEq, Repr

def Run.spaceOfQueue (r : Run) (part q : Nat) : ASpace :=
  match r.queue (qkey part q) with
  | some c => { part := part, asid := c.asid, root := c.root, tlbs := [] }
  | none => { part := part, asid := 0, root := 0, tlbs := [] }

def Run.spaceOfGrid (r : Run) (g : Nat) : ASpace :=
  match r.grid g with
  | some x => r.spaceOfQueue x.part x.queue
  | none => { part := 0, asid := 0, root := 0, tlbs := [] }

/-- The space as a partition of a core, a unit of a core, and an engine or walker of a stack reach it (R320). -/
def ASpace.ofWarp (sp : ASpace) (core part : Nat) : ASpace := { sp with tlbs := [4 * core + part, 512 + core, 640 + stackOf core] }
def ASpace.ofCore (sp : ASpace) (core : Nat) : ASpace := { sp with tlbs := [512 + core, 640 + stackOf core] }
def ASpace.ofStack (sp : ASpace) (stack : Nat) : ASpace := { sp with tlbs := [640 + stack] }

/-- The contained node whose staging a grid's accesses reach, if any (R357, R358). -/
def Run.nodeOf (r : Run) (g : Nat) : Option Nat :=
  match r.grid g with
  | some x =>
    match x.root with
    | some root => match r.grid root with
      | some y => if y.dem then none else some root
      | none => none
    | none => none
  | none => none

end Sys2Proof.Machine
end

