-- ==== Sys2Proof/Machine/Flow.lean ====
section
/-! DEFINITION. The slots of a media flow, its write object, and the frame that a left-out card discards (chapters 17, 18; R268, R277, R296). -/

namespace Sys2Proof.Machine

/-- Slot time F_k. -/
def FlowDesc.slot (d : FlowDesc) (k : Nat) : Nat := k * d.fnum * 1000000000 / d.fden

/-- rtp(k). -/
def FlowDesc.rtp (d : FlowDesc) (k : Nat) : Nat := k * 90000 * d.fnum / d.fden % 2 ^ 32

/-- The k with F_k ≤ t < F_(k+1). -/
def FlowDesc.kOf (d : FlowDesc) (t : Nat) : Nat := ((t + 1) * d.fden - 1) / (d.fnum * 1000000000)

/-- An object that holds nothing. -/
def FrameObj.empty : FrameObj := { frame := none, pinned := none, data := [], bad := [], ts := none }

/-- Counters of Table 17.4, by their order. -/
def Flow.count (f : Flow) (i : Nat) : Flow := { f with counters := modNth f.counters i (fun n => (n + 1) % 2 ^ 64) }

/-- Objects that may become the write object. -/
def Flow.free (f : Flow) : List Nat :=
  (List.range 4).filter (fun i => f.write != some i && f.lastSent != some i && !f.published.any (fun e => e.2 == i))

/-- A flow without write object takes the lowest free object, made new. -/
def Flow.nextWrite (f : Flow) : Flow :=
  match f.write with
  | some _ => f
  | none =>
    match f.free with
    | [] => f
    | i :: _ => { f with write := some i, objs := delM f.objs i }

/-- A frame that is being sent is replaced by the repetition of the frame sent before it (R279, R296). -/
def Flow.repeatFor (f : Flow) (k : Nat) : Flow :=
  match f.sending.find? (fun x => x.frame == k && !x.again) with
  | none => f
  | some x =>
    ({ f with
      sending := f.sending.map (fun (y : Sending) => if y.frame = k then { y with data := x.before, bad := x.beforeBad, rtp := f.desc.rtp k, again := true } else y)
      lastData := x.before
      lastBad := x.beforeBad
      lastSent := none }).count 4

/-- On a left-out card the frame for T is discarded on every send flow of the partition (R296). -/
def Run.leftOut (r : Run) (part t : Nat) : Run :=
  r.modFlows (fun m => mapM' m (fun _ f =>
    let k := f.desc.kOf t
    if f.desc.en && f.desc.send && f.desc.part == part && f.desc.slot k == t then
      ({ f.repeatFor k with leftOut := addNew f.leftOut k, published := delM f.published k }).nextWrite
    else f))

end Sys2Proof.Machine
end

