-- ==== Sys2Proof/Machine/Home.lean ====
section
/-! DEFINITION. Translation (chapter 21), the homes of memory, staging of contained nodes, the L1 caches and the values of atomics (chapters 07, 08). -/

namespace Sys2Proof.Machine

/-! ### Values of atomics (R134 to R136, Table 7.7) -/

/-- Bytes of an atomic's type. -/
def atomBytes (ty : Nat) : Nat := if ty = 2 ∨ ty = 3 ∨ ty = 5 then 8 else 4

/-- .fmin and .fmax: a NaN counts as missing (R135). -/
def fAtomMM (t : Fmt) (mx : Bool) (o b : Nat) : Nat := (fMinMax t mx o b).bits

/-- An operation on each half of a packed value. -/
def halves (f : Nat → Nat → Nat) (o b : Nat) : Nat :=
  f (fld o 0 16) (fld b 0 16) + 2 ^ 16 * f (fld o 16 16) (fld b 16 16)

def fAtom (ty : Nat) (f : Fmt → Nat → Nat → Nat) (o b : Nat) : Nat :=
  if ty = 4 then f Fmt.f32 o b else if ty = 5 then f Fmt.f64 o b
  else if ty = 6 then halves (f Fmt.f16) o b else halves (f Fmt.bf16) o b

/-- The new value of Table 7.7. -/
def atomNew (op ty o b : Nat) : Nat :=
  let n := 8 * atomBytes ty
  let sg := ty = 1 ∨ ty = 3
  let less := if sg then decide (sx o n ≤ sx b n) else decide (o ≤ b)
  match op with
  | 0 => (o + b) % 2 ^ n
  | 1 => if less then o else b
  | 2 => if less then b else o
  | 3 => o &&& b
  | 4 => o ||| b
  | 5 => o ^^^ b
  | 6 => b
  | 7 => if o ≥ b then 0 else o + 1
  | 8 => if o = 0 ∨ o > b then b else o - 1
  | 9 => fAtom ty (fun t x y => (fAdd t .rne x y).bits) o b
  | 10 => fAtom ty (fun t => fAtomMM t false) o b
  | _ => fAtom ty (fun t => fAtomMM t true) o b

/-- Operations that Table 7.7 lists for a type. -/
def atomLegal (op ty : Nat) : Bool :=
  if op ≤ 2 then decide (ty ≤ 3)
  else if op ≤ 6 then ty == 0 || ty == 2
  else if op ≤ 8 then ty == 0
  else decide (op ≤ 11) && decide (4 ≤ ty) && decide (ty ≤ 7)

/-- Operations that the L1 may hold in update-only state. -/
def atomPartial (op : Nat) : Bool := decide (op ≤ 5) || (decide (9 ≤ op) && decide (op ≤ 11))

/-! ### Homes: staged lines, poison (R147, R352, R357) -/

/-- Key of an address within a node. -/
def nkey (node : Option Nat) (pa : Nat) : Nat :=
  match node with
  | none => pa
  | some g => pa + 2 ^ 48 * (g + 1)

def keyNode (k : Nat) : Option Nat := if k / 2 ^ 48 = 0 then none else some (k / 2 ^ 48 - 1)

/-- Whether a node has staged the line of `pa`. -/
def Run.isStaged (r : Run) (g pa : Nat) : Bool :=
  match r.grid g with
  | some x => (lookM x.staged (pa / 128 * 128)).isSome
  | none => false

/-- The byte an agent of `node` reads at the home. -/
def Run.hread (r : Run) (node : Option Nat) (pa : Nat) : Byte :=
  match node with
  | none => r.peek pa
  | some g => match r.grid g with
    | some x => (lookM x.staged pa).getD (r.peek pa)
    | none => r.peek pa

def Run.hreadN (r : Run) (node : Option Nat) (pa : Nat) : Nat → List Byte
  | 0 => []
  | n + 1 => r.hread node pa :: r.hreadN node (pa + 1) n

/-- Key under which the poison of an address is kept. -/
def Run.poisonKey (r : Run) (node : Option Nat) (pa : Nat) : Nat :=
  match node with
  | none => pa / 8
  | some g => if r.isStaged g pa then nkey node pa / 8 else pa / 8

/-- The row of Table 24.1 of the first poisoned unit that holds one of the addresses. -/
def Run.poisonRow (r : Run) (node : Option Nat) (pas : List Nat) : Option Nat :=
  pas.findSome? (fun pa => lookM r.dev.ms.poison (r.poisonKey node pa))

/-- Whether any of the addresses lies in a poisoned unit. -/
def Run.poisoned (r : Run) (node : Option Nat) (pas : List Nat) : Bool := (r.poisonRow node pas).isSome

/-- Stages a line with its value and poison at that moment (R357). -/
def Run.stage (r : Run) (g pa : Nat) : Run :=
  if r.isStaged g pa then r
  else
    let b := pa / 128 * 128
    let copy := fun (m : Map Nat) => (List.range 16).foldl (fun p k => match lookM m (b / 8 + k) with
      | some row => putM p (nkey (some g) b / 8 + k) row
      | none => p) m
    let r := r.modMs (fun m => { m with poison := copy m.poison })
    let vals := r.peekN b 128
    r.modGrid g (fun x =>
      let add := fun (s : Map Byte) (e : Nat × Byte) => putM s (b + e.1) e.2
      { x with
        staged := (List.zip (List.range 128) vals).foldl add x.staged
        base := (List.zip (List.range 128) vals).foldl add x.base })

/-- Staged bytes of a node with its update-only partials combined into them (R137). -/
def Run.nodeBytes (r : Run) (g : Nat) (st : Map Byte) : Map Byte :=
  r.dev.ms.partials.foldl (fun st c => c.2.foldl (fun st e =>
    if keyNode e.1 = some g then
      let pa := e.1 % 2 ^ 48
      let n := atomBytes e.2.ty
      let o := ofBytes ((List.range n).map (fun i => (lookM st (pa + i)).getD (r.peek (pa + i))))
      (List.zip (List.range n) (bytesOf n (atomNew e.2.op e.2.ty o e.2.val))).foldl (fun s x => putM s (pa + x.1) x.2) st
    else st) st) st

/-- The root of a grid's contained node, demoted or not. -/
def Run.rootOf (r : Run) (g : Nat) : Option Nat := (r.grid g).bind (fun x => x.root)

/-- A line of an L1 that a commit replaces: every copy of the node's own view, and in the cores where its threads run, whose later
loads may return nothing older than the node's writes, each copy of a committed line (R151, R156). -/
def commitDrops (g : Nat) (cores lines : List Nat) (core key : Nat) (l : Line) : Bool :=
  key / 2 ^ 41 == g + 1 || (cores.contains core && lines.contains key && l.lease != .priv)

/-- The cores on which the warps of a node's grids are. -/
def Run.coresOf (r : Run) (g : Nat) : List Nat :=
  (r.dev.sched.teams.filter (fun e => r.rootOf e.2.grid = some g)).foldl (fun cs e => e.2.cores.foldl addNew cs) []

/-- Everything that a contained node has staged goes to its home, with its poison; what is on its way goes there
too, and its warps' WCH takes the GWCT (R156, R358, R359). A line that only partials reach keeps the poison that its home has
(R352). -/
def Run.commitNode (r : Run) (g : Nat) : Run :=
  match r.grid g with
  | none => r
  | some x =>
    let st := r.nodeBytes g x.staged
    let lines := (st.map (fun e => e.1 / 128)).foldl addNew []
    let gw := lines.foldl (fun a k => max a (lookD r.dev.ms.leases k 0)) r.clk.dtime
    let mine := fun (k : Nat) => k / 2 ^ 45 == g + 1
    let whole := (x.staged.map (fun e => e.1 / 128)).foldl addNew []
    let cores := r.coresOf g
    let out := fun (k : Nat) => k / 2 ^ 41 == g + 1
    let tgt := fun (n : Option Nat) => if n = some g then none else n
    let r := { r with w := st.reverse ++ r.w }
    let r := r.modMs (fun m => { m with
      poison := (m.poison.filter (fun e => mine e.1)).foldl (fun p e => putM p (e.1 % 2 ^ 45) e.2)
        (filterM m.poison (fun k _ => !mine k && !(decide (k < 2 ^ 45) && whole.contains (k / 16))))
      l1 := mapM' m.l1 (fun c ls => filterM ls (fun k l => !commitDrops g cores lines c k l))
      vis := lines.foldl (fun v k => let e := lookD m.leases k 0; if r.clk.dtime < e then putM v k e else v) m.vis
      stores := mapM' m.stores (fun _ s => { s with node := tgt s.node })
      atomics := mapM' m.atomics (fun _ s => { s with node := tgt s.node })
      loads := mapM' m.loads (fun _ s => { s with node := tgt s.node })
      partials := mapM' m.partials (fun _ c => filterM c (fun k _ => !out (k / 128))) })
    let r := r.modWarps (fun _ w => if r.rootOf (r.gridOf w) = some g then { w with wch := max w.wch gw } else w)
    r.modGrid g (fun y => { y with staged := [], base := [], writes := [], gwct := max y.gwct gw })

/-- A demoted node's commit is not yet visible at device scope (R156, R358). -/
def Run.commitPending (r : Run) (g : Nat) : Bool :=
  match (r.rootOf g).bind (fun n => r.grid n) with
  | some x => x.dem && decide (r.clk.dtime ≤ x.gwct)
  | none => false

/-- Demotion (R358). -/
def Run.demote (r : Run) (g : Nat) : Run := (r.commitNode g).modGrid g (fun y => { y with dem := true })

/-- Bytes that staging holds per node at most (R357). -/
def stageMax : Nat := 2 ^ 28

/-- A write at the home meets a lease that is live: it becomes visible at its GWCT (R145). -/
def Run.noteVis (r : Run) (node : Option Nat) (pa : Nat) : Run :=
  let e := lookD r.dev.ms.leases (pa / 128) 0
  if e ≤ r.clk.dtime then r
  else r.modMs (fun m => { m with vis := putM (filterM m.vis (fun _ t => decide (r.clk.dtime ≤ t))) (nkey node pa / 128) e })

/-- One byte written at the home of an agent's node; a write that would stage too much demotes it (R358). -/
def Run.hput (r : Run) (node : Option Nat) (pa : Nat) (b : Byte) : Run :=
  match node with
  | none => (r.poke pa b).noteVis none pa
  | some g =>
    match r.grid g with
    | none => (r.poke pa b).noteVis none pa
    | some x =>
      if x.dem then (r.poke pa b).noteVis none pa
      else if !r.isStaged g pa && decide (stageMax < x.staged.length + 128) then ((r.demote g).poke pa b).noteVis none pa
      else ((r.stage g pa).noteVis node pa).modGrid g (fun x => { x with
        staged := putM x.staged pa b
        writes := (r.writer.getD g, pa, b) :: x.writes })

/-- A node's staging without the writes of some of its grids: a line that only they wrote is no longer staged (R303). -/
def Grid.unwrite (x : Grid) (gs : List Nat) : Grid :=
  let ws := x.writes.filter (fun e => !gs.contains e.1)
  let lines := (ws.map (fun e => e.2.1 / 128)).foldl addNew []
  let base := filterM x.base (fun k _ => lines.contains (k / 128))
  { x with base := base, writes := ws, staged := ws.foldr (fun e m => putM m e.2.1 e.2.2) base }

def Run.hputs (r : Run) (node : Option Nat) (pa : Nat) : List Byte → Run
  | [] => r
  | b :: bs => (r.hput node pa b).hputs node (pa + 1) bs

/-- A write that covers a whole unit clears its poison (R352). -/
def Run.unpoison (r : Run) (node : Option Nat) (pa n : Nat) : Run :=
  if r.dev.ms.poison.isEmpty then r
  else
    let ks := ((List.range (n / 8 + 1)).map (fun i => (pa + 7) / 8 + i)).filter (fun k => decide (8 * k + 8 ≤ pa + n))
    let keys := ks.map (fun k => r.poisonKey node (8 * k))
    r.modMs (fun m => { m with poison := filterM m.poison (fun k _ => !keys.contains k) })

/-- The same for scattered bytes. -/
def Run.unpoisonL (r : Run) (node : Option Nat) (pas : List Nat) : Run :=
  if r.dev.ms.poison.isEmpty then r
  else r.modMs (fun m => { m with poison := filterM m.poison (fun k _ =>
    !(List.range 8).all (fun i => pas.any (fun pa => pa % 8 == i && r.poisonKey node pa == k))) })

/-- The units that hold the addresses are poisoned, by an error found at a row of Table 24.1 (R352). -/
def Run.addPoison (r : Run) (node : Option Nat) (row : Nat) (pas : List Nat) : Run :=
  r.modMs (fun m => { m with poison := (pas.map (r.poisonKey node)).foldl (fun p k => putM p k row) m.poison })

/-- Poison moves with data: each destination address whose source byte had a row is poisoned (R352). -/
def Run.movePoison (r : Run) (node : Option Nat) (rows : List (Nat × Nat)) : Run :=
  rows.foldl (fun r e => r.addPoison node e.2 [e.1]) r

/-- The row of an error that a line holds, as the agents of a node see it. -/
def Run.lineRow (r : Run) (node : Option Nat) (line : Nat) : Option Nat :=
  r.poisonRow node ((List.range 16).map (fun k => line / 128 * 128 + 8 * k))

/-- The GWCT of a store or atomic applied now to the line of `pa` (R125): leases of contained nodes count as any other. -/
def Run.gwctOf (r : Run) (pa : Nat) : Nat := max r.clk.dtime (lookD r.dev.ms.leases (pa / 128) 0)

/-- Changes a warp, resident or saved (R325). -/
def Run.modWarpAny (r : Run) (w : Nat) (f : Warp → Warp) : Run :=
  match r.warp w with
  | some _ => r.modWarp w f
  | none => r.modSched (fun s => { s with images := mapM' s.images (fun _ m => modM m w f) })

def Run.warpAny (r : Run) (w : Nat) : Option Warp :=
  match r.warp w with
  | some x => some x
  | none => (r.dev.sched.images.findSome? (fun e => lookM e.2 w))

/-- A GWCT enters WCH of the warp; a warp that has ended leaves it to its grid (R146). -/
def Run.wch (r : Run) (w g gw : Nat) : Run :=
  match r.warpAny w with
  | some _ => r.modWarpAny w (fun x => { x with wch := max x.wch gw })
  | none => r.modGrid g (fun x => { x with gwct := max x.gwct gw })

/-! ### Update-only partials (R137, R138) -/

/-- Combines one partial into the home value; its GWCT enters WCH of the warp. -/
def Run.flushPartial (r : Run) (k : Nat) (p : Partial) : Run :=
  let node := keyNode k
  let pa := k % 2 ^ 48
  let n := atomBytes p.ty
  let o := ofBytes (r.hreadN node pa n)
  let r := { (r.by' p.grid).hputs node pa (bytesOf n (atomNew p.op p.ty o p.val)) with writer := r.writer }
  r.wch p.warp p.grid (r.gwctOf pa)

/-- Flushes the partials of one core that satisfy a test of their key, in rising address order. -/
def Run.flushCore (r : Run) (core : Nat) (f : Nat → Bool) : Run :=
  let ps := lookD r.dev.ms.partials core []
  let (out, stay) := (ps.filter (fun e => f e.1), ps.filter (fun e => !f e.1))
  let r := r.modMs (fun m => { m with partials := putD m.partials core stay [] })
  out.foldl (fun r e => r.flushPartial e.1 e.2) r

/-- The home recalls every update-only copy of a line, cores in rising order (entry 13). -/
def Run.recallLine (r : Run) (line : Nat) : Run :=
  (r.dev.ms.partials.map (·.1)).foldl (fun r c => r.flushCore c (fun k => k / 128 == line)) r

/-- A write at the home by an agent: the update-only copies are recalled first (R137). -/
def Run.homeWrite (r : Run) (node : Option Nat) (pa : Nat) (bs : List Byte) : Run :=
  let r := r.recallLine (nkey node pa / 128)
  let r := r.recallLine (nkey node (pa + bs.length - 1) / 128)
  (r.hputs node pa bs).unpoison node pa bs.length

/-- Bytes at scattered addresses. -/
def Run.homeWriteL (r : Run) (node : Option Nat) : List (Nat × Byte) → Run
  | [] => r
  | (pa, b) :: l => ((r.recallLine (nkey node pa / 128)).hput node pa b).homeWriteL node l

/-- A read at the home. -/
def Run.homeRead (r : Run) (node : Option Nat) (pa n : Nat) : List Byte × Run :=
  let r := r.recallLine (nkey node pa / 128)
  let r := r.recallLine (nkey node (pa + n - 1) / 128)
  (r.hreadN node pa n, r)

/-- An atomic update of `n` bytes at the home: the prior value. A poisoned unit stays so (R352). -/
def Run.homeAtomic (r : Run) (node : Option Nat) (pa n : Nat) (f : Nat → Nat) : Nat × Run :=
  let (bs, r) := r.homeRead node pa n
  let o := ofBytes bs
  (o, r.hputs node pa (bytesOf n (f o)))

/-! ### Translation (R315 to R320) -/

/-- What an access needs of a page (Table 21.4). -/
inductive Acc where
  | load | store | atomic | fetch
  deriving DecidableEq, Repr

/-- A translation's outcome: a physical address and whether its page is remote, or the cause and WHY of Table 21.6
(for cause 0x10 the physical line). -/
inductive Tr where
  | ok (pa : Nat) (remote : Bool)
  | fail (cause why : Nat)
  deriving DecidableEq, Repr

/-- Ranges of Table 21.1. -/
def isGddr (pa : Nat) : Bool := decide (pa < 0x002400000000)
def isPeer (pa : Nat) : Bool := decide (0x400000000000 ≤ pa) && decide (pa < 0x500000000000)
def isHost (pa : Nat) : Bool := decide (0x800000000000 ≤ pa) && decide (pa < 0x1000000000000)
def isReserved (pa : Nat) : Bool := !isGddr pa && !isPeer pa && !isHost pa

/-- Firmware memory (R377). -/
def isFirmware (pa : Nat) : Bool := decide (0x3000000000 ≤ pa) && decide (pa < 0x3008000000)

/-- Base of a load bank (R377). -/
def bankBase (b : Nat) : Nat := 0x3000000000 + 0x2000000 * b

/-- Some bytes lie in a bank that holds the image of a running control core (R377). -/
def Run.bankRuns (r : Run) (pas : List Nat) : Bool :=
  (List.range 4).any (fun k => r.dev.sys.ccrun.getLsbD k && (match (r.dev.sys.cc.get (Fin.ofNat 4 k)).bank with
    | some b => pas.any (fun pa => decide (bankBase b ≤ pa) && decide (pa < bankBase (b + 1)))
    | none => false))

/-- The ROM, as CC3 sees it: 1 MiB from `romBase` on. -/
def inRom (k pa : Nat) : Bool := k == 3 && decide (romBase ≤ pa) && decide (pa < romBase + 2 ^ 20)

/-- A leaf of the ROM: bytes that it does not have are zero. -/
def romLeaf (pa : Nat) : List Byte := (List.range 32).map (fun i => nthD Config.romImage (pa - romBase + i) 0)

/-- Whether `n` bytes from `pa` up lie in ranges, at most `k` of them one after another. -/
def rangesHold (rs : List (Nat × Nat)) : Nat → Nat → Nat → Bool
  | 0, _, n => n == 0
  | k + 1, pa, n =>
    match rs.find? (fun rg => decide (rg.1 * 2 ^ 32 ≤ pa) && decide (pa < (rg.1 + rg.2) * 2 ^ 32)) with
    | none => n == 0
    | some rg =>
      let top := (rg.1 + rg.2) * 2 ^ 32
      if pa + n ≤ top then true else rangesHold rs k top (pa + n - top)

/-- Whether the `n` bytes from `pa` up lie in the partition's memory, in one range or across ranges that meet (R327). -/
def Part.holds (p : Part) (pa n : Nat) : Bool := rangesHold p.ranges 4 pa n

def Run.partHolds (r : Run) (p pa n : Nat) : Bool :=
  match r.part p with
  | some x => x.holds pa n
  | none => false

/-- An entry as the walker reads it at its L2 home (R317). -/
def Run.entryAt (r : Run) (node i : Nat) : Nat := ofBytes (r.homeRead none (node * 65536 + i * 8) 8).1

/-- The entry's bytes hold poison (R352). -/
def Run.entryBad (r : Run) (node i : Nat) : Bool := r.poisoned none [node * 65536 + i * 8]

/-- A walk that reads poison: cause 0x10 of the physical line. -/
def badEntry (node i : Nat) : Except (Nat × Nat) (Nat × Nat × Nat) := .error (0x10, (node * 65536 + i * 8) / 128 * 128)

def entV (e : Nat) : Bool := bitOf e 0
def entPfn (e : Nat) : Nat := fld e 16 32

/-- Reserved bits of an entry (Table 21.3). -/
def entResOk (e : Nat) : Bool := fld e 48 16 == 0 && fld e 10 6 == 0

/-- An entry that points to a node: V, T and PFN alone. -/
def nodeEntryOk (e : Nat) : Bool := entResOk e && bitOf e 9 && fld e 1 8 == 0

def accOk (a : Acc) (e : Nat) : Bool :=
  match a with
  | .load => bitOf e 1
  | .store => bitOf e 2
  | .atomic => bitOf e 1 && bitOf e 2
  | .fetch => bitOf e 3

/-- The checks of cause 0x07 on a leaf whose page gives `pa` (Table 21.4); of a CONT group, bits [9:0] alone (R319). -/
def Run.leafOk (r : Run) (part : Nat) (a : Acc) (waiveU : Bool) (span e pa : Nat) : Bool :=
  (span == 21 || entResOk e) && !bitOf e 9 && fld e 5 2 != 3 && (span != 29 || fld e 16 13 == 0) &&
    (waiveU || bitOf e 4) && accOk a e &&
    ((fld e 5 2 == 1) == (isPeer pa || isHost pa)) && !isReserved pa &&
    (fld e 5 2 == 1 || r.partHolds part pa 1)

/-- The end of a walk: the leaf `e` decides, with the page address of `first`. -/
def Run.leaf (r : Run) (part : Nat) (a : Acc) (waiveU : Bool) (va span e first : Nat) : Tr :=
  if !entV e then .fail 6 0
  else
    let pa := if span = 29 then entPfn first / 2 ^ 13 * 2 ^ 29 + va % 2 ^ 29
      else entPfn first * 2 ^ 16 + va % 2 ^ span
    if !r.leafOk part a waiveU span e pa then .fail 7 0
    else if !bitOf e 7 then .fail 6 1
    else .ok pa (fld e 5 2 == 1)

/-- Whether the 32 entries of a CONT group agree (R319). -/
def Run.contAgree (r : Run) (node i0 : Nat) : Bool :=
  let e0 := r.entryAt node i0
  entPfn e0 % 32 == 0 && (List.range 32).all (fun k =>
    let e := r.entryAt node (i0 + k)
    e % 1024 == e0 % 1024 && entPfn e == entPfn e0 + k)

/-- A walk may read a node: it has an L2 home (R317), and does not lie in another partition's memory (R328). A node in memory of no
partition is read, so that the device finds the colophon in which it refuses a launch whose ROOT lies there (R316).
[DEDUCED, unsafe] (entries 67 and 100) -/
def Run.nodeIn (r : Run) (part node : Nat) : Bool :=
  isGddr (node * 65536) && !r.dev.sched.parts.any (fun e => e.1 != part && e.2.v && e.2.holds (node * 65536) 65536)

/-- A group of 32 level-2 entries, one of which at least has CONT set (R319). -/
def Run.contGroup (r : Run) (node i0 : Nat) : Bool :=
  (List.range 32).any (fun k => entV (r.entryAt node (i0 + k)) && bitOf (r.entryAt node (i0 + k)) 8)

/-- What a walk reads: the leaf's span, the entry that decides and the entry that gives the page; or
the failure of an upper level. A node that may not be read is refused as a protection fault (R328). -/
def Run.walk (r : Run) (part root va : Nat) : Except (Nat × Nat) (Nat × Nat × Nat) :=
  let i0 := fld va 42 10
  let e0 := r.entryAt root i0
  if !r.nodeIn part root then .error (7, 0)
  else if r.entryBad root i0 then badEntry root i0
  else if !entV e0 then .error (6, 0)
  else if !nodeEntryOk e0 || !r.nodeIn part (entPfn e0) then .error (7, 0)
  else
    let i1 := fld va 29 13
    let e1 := r.entryAt (entPfn e0) i1
    if r.entryBad (entPfn e0) i1 then badEntry (entPfn e0) i1
    else if !entV e1 then .error (6, 0)
    else if !bitOf e1 9 then .ok (29, e1, e1)
    else if !nodeEntryOk e1 || !r.nodeIn part (entPfn e1) then .error (7, 0)
    else
      let node := entPfn e1
      let i := fld va 16 13
      let e2 := r.entryAt node i
      if r.entryBad node i then badEntry node i
      else if r.contGroup node (i / 32 * 32) then
        let g := i / 32 * 32
        let ch := if r.contAgree node g then i else g + r.pick (7 * 2 ^ 20 + i) 32
        .ok (21, r.entryAt node ch, r.entryAt node g)
      else .ok (16, e2, e2)

/-- The translation that a TLB holds of an address. -/
def Run.tlbAt (r : Run) (sp : ASpace) (va holder : Nat) : Option Tlb :=
  r.dev.sched.tlb.find? (fun t => t.holder == holder && t.part == sp.part && t.asid == sp.asid && va / 2 ^ t.span == t.vpn)

/-- Translates a canonical address: a translation held in the nearest TLB that has one (R320), or a walk. -/
def Run.xlate (r : Run) (sp : ASpace) (a : Acc) (waiveU : Bool) (va : Nat) : Tr :=
  match sp.tlbs.findSome? (r.tlbAt sp va) with
  | some t => r.leaf sp.part a waiveU va t.span t.entry t.first
  | none =>
    match r.walk sp.part sp.root va with
    | .error (c, y) => .fail c y
    | .ok (span, e, first) => r.leaf sp.part a waiveU va span e first

/-- The failure that counts among those of several bytes: 0x07 before 0x10 and 0x06 (R130), of equal causes the lowest byte's:
cause, WHY and address. -/
def worstOf (ts : List (Nat × Tr)) : Option (Nat × Nat × Nat) :=
  [7, 0x10, 6].findSome? (fun c => ts.findSome? (fun t => match t.2 with
    | .fail k y => if k = c then some (c, y, t.1) else none
    | .ok _ _ => none))

/-- The physical addresses of translations none of which failed, and whether a page is remote. -/
def pasOf (ts : List (Nat × Tr)) : List Nat × Bool :=
  (ts.map (fun t => match t.2 with
    | .ok pa _ => pa
    | .fail _ _ => 0), ts.any (fun t => match t.2 with
    | .ok _ rem => rem
    | .fail _ _ => false))

/-- Translates every byte of an access of `n` bytes within one page or more. -/
def Run.xlateN (r : Run) (sp : ASpace) (a : Acc) (waiveU : Bool) (va n : Nat) : Except (Nat × Nat × Nat) (List Nat × Bool) :=
  let ts := (List.range n).map (fun i => (va + i, r.xlate sp a waiveU (va + i)))
  match worstOf ts with
  | some x => .error x
  | none => .ok (pasOf ts)

/-- Canonical address (R118). -/
def canonical (va : Nat) : Bool := decide (va < 2 ^ 52)

/-- A naturally aligned access does not cross a page: one translation. -/
def Run.xlate1 (r : Run) (sp : ASpace) (a : Acc) (va n : Nat) : Option Nat :=
  if !canonical va then none
  else match r.xlateN sp a false va n with
    | .ok (pa :: _, _) => some pa
    | _ => none

/-- An address on a page with CP set, whose memory is remote (R357). -/
def Run.remotePage (r : Run) (sp : ASpace) (a : Acc) (va : Nat) : Bool :=
  canonical va && (match r.xlate sp a false va with
    | .ok _ rem => rem
    | .fail _ _ => false)

/-! ### The L1 (R123 to R127, R180) -/

def Run.l1 (r : Run) (core : Nat) : Map Line := lookD r.dev.ms.l1 core []

def Run.setL1 (r : Run) (core : Nat) (m : Map Line) : Run :=
  r.modMs (fun s => { s with l1 := putD s.l1 core m [] })

def Run.lineAt (r : Run) (core key : Nat) : Option Line := lookM (r.l1 core) key

def Run.putLine (r : Run) (core key : Nat) (l : Line) : Run := r.setL1 core (putM (r.l1 core) key l)

/-- Bytes of the dirty words of a private line, by address. -/
def Line.dirtyBytes (l : Line) (key : Nat) : List (Nat × Byte) :=
  (l.data.filter (fun e => l.dirty.getLsbD (e.1 / 4))).map (fun e => ((key * 128) % 2 ^ 48 + e.1, e.2))

/-- Writes back a dirty private line to its own address (R126, R140); units that it overwrites whole are clean, and poisoned
words carry their poison (R352). -/
def Run.writeBack (r : Run) (core key : Nat) : Run :=
  match r.lineAt core key with
  | some l =>
    let cells := l.dirtyBytes key
    let r := (r.homeWriteL none cells).unpoisonL none (cells.map (·.1))
    let moved := (l.bad.filter (fun e => l.dirty.getLsbD e.1)).map (fun e => ((key * 128) % 2 ^ 48 + 4 * e.1, e.2))
    (r.movePoison none moved).putLine core key { l with dirty := 0 }
  | none => r

/-- Drops a line: a dirty private line is written back, update-only partials of it are flushed (R126). -/
def Run.evict (r : Run) (core key : Nat) : Run :=
  let r := (r.writeBack core key).flushCore core (fun k => k / 128 == key)
  r.setL1 core (delM (r.l1 core) key)

/-- The victim of a full set: the lowest-numbered way holding RRPV 3, after raising every RRPV alike
until one does (R126). `set` lists the set's lines; the answer is its key and the raise. -/
def victim (set : List (Nat × Line)) : Option (Nat × Nat) :=
  let top := set.foldl (fun a e => max a e.2.rrpv) 0
  (minBy (fun e => e.2.way) (set.filter (fun e => e.2.rrpv == top))).map (fun e => (e.1, 3 - top))

/-- Makes room for a line and answers its way: the lowest invalid way, else the victim's. -/
def Run.room (r : Run) (core key : Nat) : Nat × Run :=
  let same := fun k => Config.l1Set (k % 2 ^ 41) % 256 == Config.l1Set (key % 2 ^ 41) % 256
  let set := (r.l1 core).filter (fun e => same e.1)
  match (List.range 12).find? (fun y => set.all (fun e => e.2.way != y)) with
  | some y => (y, r)
  | none =>
    match victim set with
    | none => (0, r)
    | some (k, up) =>
      let way := match r.lineAt core k with
        | some l => l.way
        | none => 0
      let r := r.setL1 core (mapM' (r.l1 core) (fun j l => if same j then { l with rrpv := min 3 (l.rrpv + up) } else l))
      (way, r.evict core k)

def Line.empty (way rrpv : Nat) (lease : Lease) (owner : Nat) : Line :=
  { valid := 0, dirty := 0, data := [], lease := lease, rrpv := rrpv, way := way, owner := owner, bad := [], gwct := 0 }

/-- The line of an access, allocated with the hint's RRPV when absent. -/
def Run.alloc (r : Run) (core key hint : Nat) (lease : Lease) (owner : Nat) : Run :=
  match r.lineAt core key with
  | some _ => r
  | none =>
    let (way, r) := r.room core key
    r.putLine core key (Line.empty way hint lease owner)

/-- Whether a lease is live at a DTIME (R145). -/
def Lease.live (l : Lease) (t : Nat) : Bool :=
  match l with
  | .none => false
  | .until e => decide (t < e)
  | .unbounded _ => true
  | .priv => true

/-- Whether a line may serve a load of grid `g`: one held without lease for a launch serves that launch alone, since its words may be
older than what another's loads may return (R124, R127, R151). -/
def Lease.serves (l : Lease) (g : Nat) : Bool :=
  match l with
  | .priv => false
  | .unbounded h => h == g
  | _ => true

/-- Whether the words of the bytes are all valid in a line that may serve the grid and whose lease is live (R124). -/
def Run.hits (r : Run) (core g : Nat) (node : Option Nat) (pas : List Nat) : Bool :=
  pas.all (fun pa => match r.lineAt core (nkey node pa / 128) with
    | some l => l.valid.getLsbD (pa % 128 / 4) && l.lease.serves g && l.lease.live r.clk.dtime
    | none => false)

/-- The byte an L1 line holds. -/
def Run.l1byte (r : Run) (core : Nat) (node : Option Nat) (pa : Nat) : Byte :=
  match r.lineAt core (nkey node pa / 128) with
  | some l => lookD l.data (pa % 128) 0
  | none => 0

/-- A hit sets RRPV to 0. -/
def Run.touch (r : Run) (core : Nat) (node : Option Nat) (pas : List Nat) : Run :=
  pas.foldl (fun r pa =>
    let key := nkey node pa / 128
    match r.lineAt core key with
    | some l => if l.rrpv = 0 then r else r.putLine core key { l with rrpv := 0 }
    | none => r) r

/-- Drops the validity of the words holding the bytes; a private line keeps its own (R180). -/
def Run.l1drop (r : Run) (core : Nat) (node : Option Nat) (pas : List Nat) : Run :=
  pas.foldl (fun r pa =>
    let key := nkey node pa / 128
    match r.lineAt core key with
    | some l => if l.lease == .priv then r else r.putLine core key { l with valid := l.valid &&& ~~~(1#32 <<< (pa % 128 / 4)) }
    | none => r) r

/-- Words of the line that a byte string writes whole. -/
def wholeWords (off n : Nat) : List Nat :=
  (List.range 32).filter (fun k => decide (off ≤ 4 * k) && decide (4 * k + 4 ≤ off + n))

/-- Writes bytes into an L1 line that is present: whole words become valid and lose their poison, other bytes go into
words that are already valid (R125, R352). With `dirty`, the written words are dirty (R180). -/
def Line.store (l : Line) (off : Nat) (bs : List Byte) (dirty : Bool) : Line :=
  let whole := wholeWords off bs.length
  let valid := whole.foldl (fun v k => v ||| (1#32 <<< k)) l.valid
  let data := (List.zip (List.range bs.length) bs).foldl (fun d e =>
    if valid.getLsbD ((off + e.1) / 4) then putM d (off + e.1) e.2 else d) l.data
  let touched := ((List.range bs.length).map (fun i => (off + i) / 4)).foldl (fun v k => v ||| (1#32 <<< k)) (0#32)
  { l with valid := valid, data := data, dirty := if dirty then l.dirty ||| (touched &&& valid) else l.dirty,
           bad := filterM l.bad (fun k _ => !whole.contains k) }

/-- A store that finds its line present is a hit: RRPV becomes 0 (R126). -/
def Line.hit (l : Line) : Line := { l with rrpv := 0 }

/-- Bytes of this core's stores that the home has not acknowledged, oldest first (R124). A home's acknowledgement of a store
comes before any fill that it answers after it, so that a store it has applied counts as acknowledged here.
[DEDUCED] (entry 91) -/
def Run.ownStores (r : Run) (core : Nat) (node : Option Nat) : List (Nat × Byte) :=
  (r.dev.ms.stores.filter (fun e => e.2.core == core && e.2.node == node && e.2.gwct.isNone)).foldl (fun l e =>
    l ++ (List.zip (List.range e.2.bytes.length) e.2.bytes).map (fun x => (e.2.pa + x.1, x.2))) []

/-- A merging fill's byte: the core's unacknowledged stores over the home's value. -/
def fillByte (own : List (Nat × Byte)) (home : Byte) (pa : Nat) : Byte :=
  match (own.filter (fun e => e.1 == pa)).getLast? with
  | some e => e.2
  | none => home

/-- The line's bytes as a merging fill returns them. -/
def Run.fillBytes (r : Run) (core : Nat) (node : Option Nat) (base : Nat) : List Byte :=
  let own := r.ownStores core node
  let home := r.hreadN node base 128
  (List.zip (List.range 128) home).map (fun e => fillByte own e.2 (base + e.1))

/-- Words of a line that a fill returns poisoned by an error on the crossbar: those that a load of the core has asked for with a request
that it has struck (Table 24.1). -/
def Run.crossBad (r : Run) (core : Nat) (node : Option Nat) (base : Nat) : Map Nat :=
  ((r.dev.ms.loads.filter (fun e => r.dev.ms.xbad.contains e.1 && e.2.core == core && e.2.node == node)).flatMap (fun e =>
    (e.2.addrs.filter (fun pa => pa / 128 * 128 == base)).map (fun pa => pa % 128 / 4))).foldl (fun m k => putM m k 2) []

/-- Words of a line that a fill returns poisoned, with their rows: those struck on the way, and those of a poisoned unit at the home
that no store of the core still on its way overwrites whole (R352). -/
def Run.fillBad (r : Run) (core : Nat) (node : Option Nat) (base : Nat) : Map Nat :=
  let home : Map Nat := if r.dev.ms.poison.isEmpty then []
    else
      let own := (r.ownStores core node).map (·.1)
      (List.range 32).filterMap (fun k =>
        if (List.range 4).all (fun i => own.contains (base + 4 * k + i)) then none
        else (r.poisonRow node [base + 4 * k]).map (fun row => (k, row)))
  (r.crossBad core node base).foldl (fun m e => putM m e.1 e.2) home

/-- Makes the line of `key` whole and readable with a lease (R124). -/
def Run.fillLine (r : Run) (core key : Nat) (lease : Lease) (hint : Nat) : Run :=
  let node := keyNode (key * 128)
  let base := key * 128 % 2 ^ 48
  let r := r.alloc core key hint lease 0
  let bs := r.fillBytes core node base
  let bad := r.fillBad core node base
  match r.lineAt core key with
  | some l => r.putLine core key { l with
      valid := BitVec.allOnes 32
      bad := bad
      gwct := lookD r.dev.ms.vis key 0
      data := List.zip (List.range 128) bs
      lease := match l.lease with
        | .unbounded g => .unbounded g
        | _ => lease }
  | none => r

/-- The home grants a lease (R124, R125). -/
def Run.grant (r : Run) (part key : Nat) : Nat × Run :=
  let e := r.clk.dtime + r.leaseLen part
  let k := key % 2 ^ 41
  (e, r.modMs (fun m => { m with leases := putM m.leases k (max e (lookD m.leases k 0)) }))

/-! ### What a load has seen (R145, R151) -/

/-- A warp's load has returned a value that becomes visible at device scope at `gw`: were a release of the warp not to wait for
that, an agent that acquires it could still load an older value. [DEDUCED, safe] (entry 126) -/
def Run.see (r : Run) (w gw : Nat) : Run :=
  if gw < r.clk.dtime then r else r.modWarpAny w (fun x => { x with seen := max x.seen gw })

/-- A load of warp `w` has read bytes out of its core's L1: what the lines hold, and stores of its core's other warps that are
still on their way. -/
def Run.seeL1 (r : Run) (core w : Nat) (node : Option Nat) (pas : List Nat) : Run :=
  let gw := pas.foldl (fun a pa => match r.lineAt core (nkey node pa / 128) with
    | some l => max a l.gwct
    | none => a) 0
  let hit := fun (st : Store) => st.core == core && st.node == node && st.gwct.isNone && st.warp != w && !st.seenBy.contains w &&
    pas.any (fun pa => decide (st.pa ≤ pa) && decide (pa < st.pa + st.bytes.length))
  let r := if r.dev.ms.stores.any (fun e => hit e.2) then
      r.modMs (fun m => { m with stores := mapM' m.stores (fun _ x => if hit x then { x with seenBy := w :: x.seenBy } else x) })
    else r
  r.see w gw

/-- A warp has read bytes at once, out of its core's L1 or at their home. -/
def Run.seeAt (r : Run) (core w : Nat) (node : Option Nat) (pas : List Nat) : Run :=
  (r.seeL1 core w node pas).see w (pas.foldl (fun a pa => max a (lookD r.dev.ms.vis (nkey node pa / 128) 0)) 0)

/-- The home has applied a store whose value others have read, and of which the L1 holds a copy. -/
def Run.seenApplied (r : Run) (st : Store) (gw : Nat) : Run :=
  let key := nkey st.node st.pa / 128
  let r := match r.lineAt st.core key with
    | some l => if gw ≤ r.clk.dtime then r else r.putLine st.core key { l with gwct := max l.gwct gw }
    | none => r
  st.seenBy.foldl (fun r w => r.see w gw) r

/-- The values that a warp's loads have returned are visible at device scope. -/
def Run.seenAll (r : Run) (w : Nat) (x : Warp) : Bool :=
  decide (x.seen = 0 ∨ x.seen < r.clk.dtime) && !r.dev.ms.stores.any (fun e => e.2.gwct.isNone && e.2.seenBy.contains w)

/-! ### Team memory (R37) -/

/-- Key of a team address. -/
def tkey (team a : Nat) : Nat := team * 2 ^ 23 + a

def Run.tread (r : Run) (team a : Nat) : Byte := lookD r.dev.ms.team (tkey team a) 0

def Run.treadN (r : Run) (team a : Nat) : Nat → List Byte
  | 0 => []
  | n + 1 => r.tread team a :: r.treadN team (a + 1) n

/-- Bytes of team memory change; poison stays. -/
def Run.tput (r : Run) (team a : Nat) (bs : List Byte) : Run :=
  r.modMs (fun m => { m with
    team := (List.zip (List.range bs.length) bs).foldl (fun t e => putD t (tkey team (a + e.1)) e.2 0) m.team })

/-- A write of team memory: words that it overwrites whole lose their poison (R352). -/
def Run.twrite (r : Run) (team a : Nat) (bs : List Byte) : Run :=
  (r.tput team a bs).modMs (fun m => { m with
    teamPoison := if m.teamPoison.isEmpty then [] else filterM m.teamPoison (fun k _ =>
      !(decide (tkey team a ≤ 4 * k) && decide (4 * k + 4 ≤ tkey team a + bs.length))) })

/-- The row of an error that the bytes of team memory hold. -/
def Run.tpoisonRow (r : Run) (team a n : Nat) : Option Nat :=
  (r.dev.ms.teamPoison.find? (fun e => decide (tkey team a < 4 * e.1 + 4) && decide (4 * e.1 < tkey team a + n))).map (·.2)

def Run.tpoisoned (r : Run) (team a n : Nat) : Bool := (r.tpoisonRow team a n).isSome

/-- Team size in bytes per member. -/
def Packet.teamBytes (p : Packet) : Nat := 128 * p.team

/-- Whether the bytes of a team access exist (R37). -/
def teamOk (gang size a n : Nat) : Bool :=
  decide (a < 2 ^ 23) && decide (a / 2 ^ 19 < gang) && decide (a % 2 ^ 19 + n ≤ size)

end Sys2Proof.Machine
end

