-- ==== Sys2Proof/Machine/Life.lean ====
section
/-! DEFINITION. The life of threads, warps, teams, grids and lists: waits and their release, barriers, completion, colophons, ends by fault, machine checks. -/

namespace Sys2Proof.Machine

/-! ### Program counters (R66) -/

def slotOf (pc : Nat) : Nat := pc / 32 * 7 + pc % 32 / 4 - 1

def pcOfSlot (t : Nat) : Nat := t / 7 * 32 + (t % 7 + 1) * 4

/-- The next slot of an instruction of `w` words (R158). -/
def nextPc (pc : DWord) (w : Nat) : DWord := BitVec.ofNat 64 (pcOfSlot (slotOf pc.toNat + w))

/-- The target P(S(pc) + o) of a relative branch, modulo the code space. -/
def relTarget (pc : DWord) (o : Int) : Nat := (((slotOf pc.toNat : Int) + o) % (7 * 2 ^ 59)).toNat |> pcOfSlot

/-! ### Lanes of a warp -/

/-- A lane of no thread. -/
def Lane.absent : Lane :=
  { st := .absent, pc := 0, v := [], p := 0, wait := .none, rpc := 0, rwait := .none, latch := none, rjnRel := [],
    haz := [], busy := [], ready := 0, turn := 0, prog := none, rprog := none, wrote := (0, []), bad := [] }

def Lane.isLive (l : Lane) : Bool := l.st == .live

/-- Whether a lane's thread may issue: live and in no wait but a readiness condition it tries again. -/
def Lane.canIssue (l : Lane) : Bool :=
  l.st == .live && (match l.wait with
    | .none => true
    | .ready _ => true
    | _ => false)

def Warp.lane (wp : Warp) (l : Nat) : Option Lane := wp.lanes[l]?

def Warp.liveLanes (wp : Warp) : List Nat :=
  (List.range 32).filter (fun l => match wp.lanes[l]? with
    | some x => x.isLive
    | none => false)

/-- The thread's wait ended while the warp's handler ran: in effect it is past its instruction already (R302). -/
def Lane.met (l : Lane) : Bool := l.wait == .ready .met

/-- The split of lane `l` (R24): live, not waiting, at the same program counter. -/
def Warp.split (wp : Warp) (l : Nat) : List Nat :=
  match wp.lanes[l]? with
  | some x =>
    if x.canIssue then
      (List.range 32).filter (fun k => match wp.lanes[k]? with
        | some y => y.canIssue && y.pc == x.pc && y.met == x.met
        | none => false)
    else []
  | none => []

def Warp.mapLanes (wp : Warp) (f : Nat → Lane → Lane) : Warp := { wp with lanes := wp.lanes.mapIdx f }

/-- Changes the lanes of a list. -/
def Warp.onLanes (wp : Warp) (ls : List Nat) (f : Nat → Lane → Lane) : Warp :=
  wp.mapLanes (fun k l => if ls.contains k then f k l else l)

/-- Register words per physical lane that a partition holds on-die (R32). -/
def Run.onDie (r : Run) (core part : Nat) : Nat :=
  r.dev.warps.foldl (fun n e => if e.2.core = core ∧ e.2.part = part ∧ !e.2.spilled then n + e.2.regs else n) 0

/-- Whether a warp's registers fit on-die beside those that are there (R14, R32). -/
def Run.fitsOnDie (r : Run) (wp : Warp) : Bool := decide (r.onDie wp.core wp.part + wp.regs ≤ 2048)

def Run.onLanes (r : Run) (w : Nat) (ls : List Nat) (f : Nat → Lane → Lane) : Run :=
  r.modWarp w (fun x => x.onLanes ls f)

/-- The waits of a thread with the place of each: its own, and the one kept across a handler (R302). -/
def Lane.waitsAt (l : Lane) : List (Wait × DWord) := [(l.wait, l.pc), (l.rwait, l.rpc)]

/-- Words of the instruction a wait belongs to. -/
def Wait.words : Wait → Nat
  | .rjn _ _ _ w => w
  | .exit _ => 1
  | _ => 2

/-- Ends at cycle `now` a wait that satisfies `m`: the thread goes on at the next slot, or will at ERET (R302). -/
def Lane.release (l : Lane) (now : Nat) (m : Wait → Bool) : Lane :=
  if m l.wait then { l with wait := .none, pc := nextPc l.pc l.wait.words, ready := max l.ready now }
  else if m l.rwait then { l with rwait := .none, rpc := nextPc l.rpc l.rwait.words }
  else l

/-- Ends a wait without executing its instruction: it will be tried again. -/
def Lane.retry (l : Lane) (now : Nat) (m : Wait → Bool) : Lane :=
  if m l.wait then { l with wait := .none, ready := max l.ready now }
  else if m l.rwait then { l with rwait := .none }
  else l

/-- Puts another wait in place of one that satisfies `m`. -/
def Lane.rewait (l : Lane) (m : Wait → Bool) (y : Wait) : Lane :=
  if m l.wait then { l with wait := y }
  else if m l.rwait then { l with rwait := y }
  else l

def Lane.waits (l : Lane) (m : Wait → Bool) : Bool := m l.wait || m l.rwait

/-! ### Lane and uniform registers (R61, R62) -/

def Lane.setV (l : Lane) (n : Nat) (x : Word) : Lane := { l with v := putD l.v n x 0 }

/-- A write to pt is discarded (R61). -/
def Lane.setP (l : Lane) (n : Nat) (b : Bool) : Lane :=
  if n < 12 then { l with p := if b then l.p ||| (1#12 <<< n) else l.p &&& ~~~(1#12 <<< n) } else l

/-- A write to sz is discarded. -/
def Warp.setS (wp : Warp) (n : Nat) (x : Word) : Warp :=
  if n < 192 then { wp with s := putD wp.s n x 0 } else wp

/-- A write to gt is discarded. -/
def Warp.setG (wp : Warp) (n : Nat) (b : Bool) : Warp :=
  if n < 7 then { wp with g := if b then wp.g ||| (1#7 <<< n) else wp.g &&& ~~~(1#7 <<< n) } else wp

/-- Value of a uniform register: sz reads 0. -/
def Warp.getS (wp : Warp) (n : Nat) : Word := if n < 192 then lookD wp.s n 0 else 0

/-! ### Rejoin (R162) -/

def Wait.isRjn : Wait → Bool
  | .rjn _ _ _ _ => true
  | _ => false

/-- Whether lane `k` is arrived for a thread waiting at `a` since `since`. -/
def Warp.arrived (wp : Warp) (a : DWord) (since k : Nat) : Bool :=
  match wp.lanes[k]? with
  | none => true
  | some x =>
    if x.isLive then
      x.waitsAt.any (fun y => y.1.isRjn && y.2 == a) ||
      (match lookM x.rjnRel a.toNat with
        | some t => decide (since ≤ t)
        | none => false)
    else true

/-- Whether a wait of lane `k` is an RJN whose mask is satisfied. -/
def Warp.rjnOk (wp : Warp) (k : Nat) (y : Wait × DWord) : Bool :=
  match y.1 with
  | .rjn m _ since _ => (lanesOf m).all (fun j => j == k || wp.arrived y.2 since j)
  | _ => false

/-- Whether the thread of lane `k` waits at an RJN and every lane of its mask is arrived. -/
def Warp.rjnFree (wp : Warp) (k : Nat) : Bool :=
  match wp.lanes[k]? with
  | some x => x.isLive && x.waitsAt.any (wp.rjnOk k)
  | none => false

/-- The predicate that an RJN writes. -/
def Wait.rjnPd : Wait → Nat
  | .rjn _ pd _ _ => pd
  | _ => 15

/-- Ends the RJN wait of a thread where it stands, with `v` as the result. -/
def Lane.rjnEnd (l : Lane) (now : Nat) (v : Bool) : Lane :=
  { l.setP l.wait.rjnPd v with
    rjnRel := putM l.rjnRel l.pc.toNat now
    wait := .none
    ready := max l.ready now
    pc := nextPc l.pc l.wait.words }

/-- Ends the RJN wait that a thread keeps across a handler. -/
def Lane.rjnEndKept (l : Lane) (now : Nat) (v : Bool) : Lane :=
  { l.setP l.rwait.rjnPd v with
    rjnRel := putM l.rjnRel l.rpc.toNat now
    rwait := .none
    rpc := nextPc l.rpc l.rwait.words }

/-- Releases lane `k` from the RJN whose mask is satisfied. -/
def Lane.rjnRelease (wp : Warp) (k : Nat) (l : Lane) (now : Nat) : Lane :=
  if wp.rjnOk k (l.wait, l.pc) then l.rjnEnd now true else l.rjnEndKept now true

/-- Releases every thread whose mask is satisfied (R162). -/
def Run.rjnCheck (r : Run) (w : Nat) : Run :=
  match r.warp w with
  | some wp =>
    let ls := (List.range 32).filter wp.rjnFree
    if ls.isEmpty then r else r.onLanes w ls (fun k l => l.rjnRelease wp k r.clk.cycles)
  | none => r

/-! ### Barriers (R165, R166) -/

def Wait.isBar (level id : Nat) : Wait → Bool
  | .bar lv i => lv == level && i == id
  | _ => false

/-- A warp barrier whose live members have all arrived completes its phase. -/
def Run.barWarp1 (r : Run) (w id : Nat) : Run :=
  match r.warp w with
  | some wp =>
    let arr := lookD wp.wbar id 0
    let mem := nthD wp.wbarMem id 0
    if arr ≠ 0 ∧ (wp.liveLanes.filter (inMask mem)).all (inMask arr) then
      r.modWarp w (fun x => ({ x with wbar := delM x.wbar id }).mapLanes (fun _ l => l.release r.clk.cycles (Wait.isBar 0 id)))
    else r
  | none => r

/-- The warps of a team, by their numbers. -/
def Run.warpsOf (r : Run) (t : Nat) : List (Nat × Warp) := r.dev.warps.filter (fun e => e.2.team == t)

/-- Live threads of a warp as TIDX. -/
def Warp.liveTidx (wp : Warp) : List Nat := wp.liveLanes.map (fun l => 32 * wp.wid + l)

/-- The warps of a team, those of saved cores too (R325). -/
def Run.warpsAll (r : Run) (t : Nat) : List (Nat × Warp) :=
  r.warpsOf t ++ r.dev.sched.images.flatMap (fun m => m.2.filter (fun e => e.2.team == t))

/-- A team whose cores are saved (R324). -/
def Run.teamSaved (r : Run) (t : Nat) : Bool := r.dev.sched.images.any (fun m => m.2.any (fun e => e.2.team == t))

/-- Changes every warp of a team, resident or saved. -/
def Run.modTeamWarps (r : Run) (t : Nat) (f : Warp → Warp) : Run :=
  let g := fun (x : Warp) => if x.team = t then f x else x
  (r.modWarps (fun _ x => g x)).modSched (fun s => { s with images := mapM' s.images (fun _ m => mapM' m (fun _ x => g x)) })

/-- Releases every wait that satisfies `m` in the warps of a team. -/
def Run.releaseTeamWaits (r : Run) (t : Nat) (m : Wait → Bool) : Run :=
  r.modTeamWarps t (fun x => x.mapLanes (fun _ l => l.release r.clk.cycles m))

def Run.barTeam1 (r : Run) (t id : Nat) : Run :=
  match r.team t with
  | some tm =>
    let arr := nthD tm.tbar id []
    let mem := nthD tm.tbarMem id []
    let live := ((r.warpsAll t).filter (fun e => mem.contains e.2.wid)).flatMap (fun e => e.2.liveTidx)
    if arr.isEmpty then r
    else if live.all arr.contains then
      (r.modTeam t (fun x => { x with tbar := setNth x.tbar id [] })).releaseTeamWaits t (Wait.isBar 1 id)
    else r
  | none => r

/-- Number of teams of a grid. -/
def Packet.teams (p : Packet) : Nat := (p.gx + 1) * (p.gy + 1) * (p.gz + 1)

/-- Threads of a team. -/
def Packet.threads (p : Packet) : Nat := (p.nx + 1) * (p.ny + 1) * (p.nz + 1)

/-- A grid barrier holds arrivals as team index times 65,536 plus TIDX. -/
def Run.barGrid1 (r : Run) (g id : Nat) : Run :=
  match r.grid g with
  | some x =>
    let arr := nthD x.gbar id []
    let ts := r.dev.sched.teams.filter (fun e => e.2.grid == g && !e.2.complete)
    let live := ts.flatMap (fun e => (r.warpsAll e.1).flatMap (fun wp =>
      wp.2.liveTidx.map (fun t => e.2.idx * 65536 + t)))
    if arr.isEmpty || x.nextTeam < x.pkt.teams then r
    else if live.all arr.contains then
      let r := r.modGrid g (fun y => { y with gbar := setNth y.gbar id [] })
      ts.foldl (fun r e => r.releaseTeamWaits e.1 (Wait.isBar 2 id)) r
    else r
  | none => r

/-- A card whose live members have all arrived arrives itself: its arrival leaves for the master, unless a list without
it has come already: then the card is left out, and its frame with it (R293, R294, R296). -/
def Run.barTimed1 (r : Run) (t id : Nat) : Run :=
  match r.team t with
  | some tm =>
    match tm.timed[id]?, r.grid tm.grid with
    | some b, some x =>
      let live := (r.warpsAll t).flatMap (fun e => e.2.liveTidx)
      let grp := nthD x.pkt.tbg id 0
      match lookM r.dev.fabric.groups grp, b.time with
      | some g, some at' =>
        if b.sent || b.arrived.isEmpty || !live.all b.arrived.contains then r
        else
          let out := g.lists.any (fun y => y.1 == at' && !y.2.contains g.rank)
          let r := (r.modTeam t (fun y => { y with timed := setNth y.timed id { b with
            sent := true
            listed := if out then some false else b.listed } })).emit (.tbarArrive grp g.rank at')
          if out then r.leftOut x.part at' else r
      | _, _ => r
    | _, _ => r
  | none => r

/-- Every barrier that a change in warp `w` can complete. -/
def Run.barCheck (r : Run) (w : Nat) : Run :=
  match r.warp w with
  | some wp =>
    let r := (List.range 4).foldl (fun r id => r.barWarp1 w id) r
    let r := (List.range 16).foldl (fun r id => r.barTeam1 wp.team id) r
    let r := (List.range 4).foldl (fun r id => r.barTimed1 wp.team id) r
    (List.range 4).foldl (fun r id => r.barGrid1 (r.gridOf wp) id) r
  | none => r

/-! ### Lists ending (R194, R201) -/

/-- Key of quire `n` of a team in its core's tile table. -/
def quireKey (team n : Nat) : Nat := team * 16 + n

/-- The core that is member `m` of a team's gang. -/
def Run.memberCore (r : Run) (t m : Nat) : Nat :=
  match r.team t with
  | some tm => nthD tm.cores m 0
  | none => 0

/-- A quire in the tile table of a core, or in the image of a saved one (R183). -/
def Run.quire (r : Run) (core team n : Nat) : Option Quire :=
  match lookM (r.core core).quires (quireKey team n) with
  | some q => some q
  | none => (lookM r.dev.sched.cimages core).bind (fun c => lookM c.quires (quireKey team n))

def Core.modQuire (c : Core) (k : Nat) (f : Quire → Quire) : Core := { c with quires := modM c.quires k f }

def Run.modQuire (r : Run) (core team n : Nat) (f : Quire → Quire) : Run :=
  (r.modCore core (fun c => c.modQuire (quireKey team n) f)).modSched (fun s =>
    { s with cimages := modM s.cimages core (fun c => c.modQuire (quireKey team n) f) })

/-- The quires that a list has named become broken (R201). -/
def Run.listBreak (r : Run) (x : CmdList) : Run :=
  x.named.foldl (fun r (q : Nat × Nat) => r.modQuire (r.memberCore x.team q.1) x.team q.2 (fun y => { y with broken := true })) r

/-- Writes a list's status doubleword (Table 12.5); a write that fails translation is lost, and breaks the quires
(R194). -/
def Run.listStatus (r : Run) (l code index : Nat) : Run :=
  match lookM r.dev.lists l with
  | some x =>
    let g := x.grid
    match r.xlate1 ((r.spaceOfGrid g).ofStack (l / 256)) .store (x.first - 8) 8 with
    | some pa => (r.by' g).homeWrite (r.nodeOf g) pa (bytesOf 8 (index * 2 ^ 32 + l / 16 * 2 ^ 8 + code))
    | none => r.listBreak x
  | none => r

/-- The lowest-indexed command of a list that has not completed. -/
def CmdList.firstOpen (x : CmdList) : Nat :=
  x.transfers.foldl (fun m e => min m e.2.index) ((x.pos - x.first) / 8)

/-- Every transfer of the list has completed, DTIME has passed its largest GWCT, and what its grid's demotion has committed is visible
(R156, R202). -/
def Run.settled (r : Run) (x : CmdList) : Bool :=
  x.transfers.isEmpty && decide (x.gwct = 0 ∨ x.gwct < r.clk.dtime) && !r.commitPending x.grid

/-- An ended list writes its status as a device-scope release, once its drains have completed and DTIME has passed its
largest GWCT, and gives up its position (R201). -/
def Run.listFinish (r : Run) (l : Nat) : Run :=
  match lookM r.dev.lists l with
  | some x =>
    match x.aborting with
    | some a =>
      if x.running && !x.handle && r.settled x then
        (r.listStatus l (a % 256) (a / 256)).modList l (fun y => { y with running := false })
      else r
    | none => r
  | none => r

/-- The bytes of a slot that a stopped fill had already written keep their new values; which they are is a free choice (R201). -/
def Run.fillCut (r : Run) (team base tag : Nat) (t : Transfer) : Run :=
  t.data.foldl (fun r e => if r.pick (tag * 2 ^ 32 + e.1) 2 == 1 then r.tput team (base + e.1) [e.2] else r) r

/-- A fill of one member's slot stops: the slot is empty again. -/
def Run.fillStop (r : Run) (x : CmdList) (id : Nat) (t : Transfer) (p : Nat × Nat × Bool) : Run :=
  let core := r.memberCore x.team p.1
  if p.2.2 then r
  else match r.quire core x.team t.quire with
    | some q => (r.fillCut x.team (q.base + p.2.1 % q.count * q.size) (64 + 16 * id + p.1) t).modQuire core x.team t.quire (fun y =>
        { y with slots := delM y.slots (p.2.1 % y.count) })
    | none => r

/-- Ends a list by abort or cancellation (R201): fills in progress leave their slots empty, the quires
it named become broken; it keeps its place while a drain it started goes on. -/
def Run.listAbort (r : Run) (l code index : Nat) : Run :=
  match lookM r.dev.lists l with
  | some x =>
    if x.handle then r.modList l (fun y => { y with running := false })
    else
    let r := r.listBreak x
    let fills := x.transfers.filter (fun e => !e.2.pull)
    let r := fills.foldl (fun r e => e.2.parts.foldl (fun r p => r.fillStop x e.1 e.2 p) r) r
    let r := r.modList l (fun y => { y with transfers := x.transfers.filter (fun e => e.2.pull), aborting := some (code + 256 * index) })
    r.listFinish l
  | none => r

/-- Applies the bytes of a drain at their homes; the list keeps the largest GWCT (R198). -/
def Run.drainApply (r : Run) (l : Nat) (x : CmdList) (t : Transfer) : Run :=
  let node := r.nodeOf x.grid
  let pas := t.data.map (·.1)
  let r := ((r.by' x.grid).homeWriteL node t.data).unpoisonL node pas
  let gw := ((pas.map (fun pa => pa / 128 * 128)).foldl addNew []).foldl (fun a pa => max a (r.gwctOf pa)) 0
  r.modList l (fun y => { y with gwct := max y.gwct gw })

/-- The lists of grids whose writes are discarded go with what they would still write (R303, R360). -/
def Run.listsDrop (r : Run) (gs : List Nat) : Run :=
  { r with dev := { r.dev with lists := mapM' r.dev.lists (fun _ x =>
      if gs.contains x.grid then { x with running := false, transfers := [] } else x) } }

/-! ### Ends of warps and teams -/

/-- Drops the private lines of a warp without writing them back (R181). -/
def Run.dropPrivate (r : Run) (w core : Nat) : Run :=
  r.setL1 core (filterM (r.l1 core) (fun _ l => !(l.lease == .priv && l.owner == w)))

/-- A core, or its image, without what some teams hold of it: slots, sets, queue entries, quires, banks (R183, R206). -/
def Core.dropTeams (c : Core) (ts : List Nat) : Core :=
  let dead := (c.setOwner.filter (fun e => ts.contains e.2)).map (·.1)
  { c with
    quires := filterM c.quires (fun k _ => !ts.contains (k / 16))
    banks := filterM c.banks (fun k _ => !ts.contains (k / 32))
    failed := c.failed.filter (fun k => !ts.contains (k / 32))
    cbinds := filterM c.cbinds (fun k _ => !ts.contains (k / 32))
    xpoison := filterM c.xpoison (fun k _ => !(decide (2 ^ 30 ≤ k) && ts.contains ((k - 2 ^ 30) / 8192 / 32)))
    slotOwner := filterM c.slotOwner (fun _ o => !ts.contains o)
    setOwner := filterM c.setOwner (fun _ o => !ts.contains o)
    weights := filterM c.weights (fun k _ => !dead.contains k)
    setFmt := filterM c.setFmt (fun k _ => !dead.contains k)
    queue := filterM c.queue (fun _ q => !ts.contains q.team) }

/-- A record has been written for the fault and waits for its answer: it keeps its entry of the ring, whatever becomes of its
warp (R322). -/
def PFault.outstanding (f : PFault) : Bool := f.seq.isSome && !f.fatal

/-- Gives back what a team holds (R42, R183, R206): team memory, quires, lists, slots, sets, banks, queue entries. -/
def Run.releaseTeam (r : Run) (t : Nat) : Run :=
  match r.team t with
  | none => r
  | some tm =>
    let ls := (r.dev.lists.filter (fun e => e.2.running && e.2.aborting.isNone && e.2.team == t)).map (·.1)
    let r := ls.foldl (fun r l => match lookM r.dev.lists l with
      | some x => r.listAbort l 0x14 x.firstOpen
      | none => r) r
    let r := tm.cores.foldl (fun r c => r.modCore c (fun x => x.dropTeams [t])) r
    let r := r.modSched (fun s => { s with cimages := mapM' s.cimages (fun _ c => c.dropTeams [t]) })
    let ws := (r.warpsOf t).map (fun e => (e.1, e.2.core))
    let r := ws.foldl (fun r e => r.dropPrivate e.1 e.2) r
    let gw := (r.warpsAll t).foldl (fun a e => max a e.2.wch) 0
    let r := r.modGrid tm.grid (fun g => { g with gwct := max g.gwct gw })
    let dead := ws.map (·.1)
    { r with dev := { r.dev with
        warps := filterM r.dev.warps (fun k _ => !dead.contains k)
        ms := { r.dev.ms with
          team := filterM r.dev.ms.team (fun k _ => k / 2 ^ 23 != t)
          teamPoison := filterM r.dev.ms.teamPoison (fun k _ => k * 4 / 2 ^ 23 != t)
          loads := filterM r.dev.ms.loads (fun _ l => !dead.contains l.warp) }
        sched := { r.dev.sched with faults := filterM r.dev.sched.faults (fun _ f => !dead.contains f.warp || f.outstanding) } } }

/-- A team whose completion count has reached its threads completes (R42). -/
def Run.teamCheck (r : Run) (t : Nat) : Run :=
  match r.team t with
  | some tm =>
    if tm.complete || tm.done < tm.nthreads then r
    else
      let r := (r.releaseTeam t).modTeam t (fun x => { x with complete := true })
      (List.range 4).foldl (fun r id => r.barGrid1 tm.grid id) r
  | none => r

/-- A thread has exited or suspended: the record it came from is freed (R229), its team's count rises, RJN masks and
barriers that waited for it are judged again (R41, R42, R162, R166); with its last thread a warp gives up its private lines
and its stream registers (R181, R272). -/
def Run.threadDone (r : Run) (w l : Nat) (st : LaneSt) : Run :=
  match r.warp w with
  | some wp =>
    let r := r.onLanes w [l] (fun _ x => { x with st := st, wait := .none, rwait := .none })
    let r := match lookM wp.recs l with
      | some k => (r.modSched (fun s => { s with recs := delM s.recs k })).modWarp w (fun x => { x with recs := delM x.recs l })
      | none => r
    let r := r.modTeam wp.team (fun t => { t with done := t.done + 1 })
    let r := (r.rjnCheck w).barCheck w
    let r := match r.warp w with
      | some y => if y.liveLanes.isEmpty then (r.dropPrivate w y.core).modWarp w (fun x => { x with m := [none, none, none, none] }) else r
      | none => r
    r.teamCheck wp.team
  | none => r

/-! ### Colophons and queues in error (R331, R334) -/

/-- A queue whose launches have all retired gives up its active slot (R335). -/
def Run.slotRelease (r : Run) (k : Nat) : Run :=
  let open' := r.dev.sched.grids.any (fun e => qkey e.2.part e.2.queue == k && e.2.st != .retired)
  if open' then r
  else r.modSched (fun s => { s with active := s.active.map (fun a => if a = some k then none else a) })

/-- Writes a grid's colophon (Table 22.3) and retires it. -/
def Run.colophon (r : Run) (g status : Nat) (tcause : Nat) (tepc : Nat) (tlane : Nat) (node : Option Nat) : Run :=
  match r.grid g with
  | some x =>
    let seq := x.seq.getD 0xFFFFFFFF
    let v := status + boolN x.dem * 2 ^ 32 + x.rq * 2 ^ 33 + seq * 2 ^ 64 + x.queue * 2 ^ 96 +
      r.clk.dtime * 2 ^ 128 + tlane * 2 ^ 192 + tcause * 2 ^ 224 + tepc * 2 ^ 256
    let r := if x.pkt.colo % 64 = 0 then
        match r.xlate1 (r.spaceOfQueue x.part x.queue) .store x.pkt.colo 64 with
        | some pa => r.homeWrite node pa (bytesOf 64 v)
        | none => r
      else r
    (r.modGrid g (fun y => { y with st := .retired })).slotRelease (qkey x.part x.queue)
  | none => r

/-- A grid is known and has not retired. -/
def Grid.open (g : Grid) : Bool := g.st != .retired

/-- The node under which the colophon of a launch is written: none of a contained root, nor of a launch whose root has been stopped
with its staging discarded, so that its reader sees it (R303, R331, R334). -/
def Run.coloNode (r : Run) (g : Nat) : Option Nat :=
  match r.nodeOf g with
  | none => none
  | some n => if n = g || (match r.grid n with
      | some y => y.fin.isSome
      | none => true) then none else some n

/-- The queue enters the error state: what it has read and not dispatched is cancelled (R331). -/
def Run.queueError (r : Run) (part q : Nat) : Run :=
  let r := r.modQueue (qkey part q) (fun c => { c with err := true })
  let gs := (r.dev.sched.grids.filter (fun e => e.2.part == part && e.2.queue == q &&
    (e.2.st == .waiting || (e.2.st == .dispatching && e.2.nextTeam == 0)))).map (·.1)
  (gs.foldl (fun r g => r.colophon g 9 0 0 0 (r.coloNode g)) r).slotRelease (qkey part q)

/-- A grid and its descendants, parents first: a child's number is above its parent's. -/
def Run.family (r : Run) (g : Nat) : List Nat :=
  r.dev.sched.grids.foldl (fun acc e => match e.2.parent with
    | some p => if acc.contains p && !acc.contains e.1 then acc ++ [e.1] else acc
    | none => acc) [g]

/-- Draws of grids whose writes are discarded go with them; the draws of any other grid are left for its colophon (R244). -/
def Run.dropDraws (r : Run) (gs : List Nat) : Run :=
  r.modSched (fun s => { s with draws := filterM s.draws (fun _ x => !gs.contains x.grid) })

/-- Ends all work of a set of grids: warps, teams, records (R303, R356). Stores on their way stay on it, and so do the drains of
lists, which are cancelled (R201), unless what the grids have written is discarded. -/
def Run.stopGrids (r : Run) (gs : List Nat) (discard : Bool) : Run :=
  let r := if discard then r.listsDrop gs else r
  let ts := (r.dev.sched.teams.filter (fun e => gs.contains e.2.grid)).map (·.1)
  let r := ts.foldl (fun r t => r.releaseTeam t) r
  r.modSched (fun s => { s with
    teams := filterM s.teams (fun k _ => !ts.contains k)
    faults := filterM s.faults (fun _ f => f.outstanding || (match f.unit.bind (lookM s.recs) with
      | some x => !gs.contains x.grid
      | none => true))
    recs := filterM s.recs (fun _ x => !gs.contains x.grid)
    images := filterM (mapM' s.images (fun _ m => filterM m (fun _ w => !ts.contains w.team))) (fun _ m => !m.isEmpty)
    cimages := mapM' s.cimages (fun _ c => c.dropTeams ts) })

/-- Drops a node's staged bytes and every copy, store, atomic and partial of it (R360). -/
def Run.discardNode (r : Run) (g : Nat) : Run :=
  let r := r.modGrid g (fun x => { x with staged := [], base := [], writes := [] })
  let out := fun (k : Nat) => k / 2 ^ 41 == g + 1
  r.modMs (fun m => { m with
    l1 := mapM' m.l1 (fun _ c => filterM c (fun k _ => !out k))
    stores := filterM m.stores (fun _ s => s.node != some g)
    atomics := filterM m.atomics (fun _ s => s.node != some g)
    loads := filterM m.loads (fun _ s => s.node != some g)
    partials := mapM' m.partials (fun _ c => filterM c (fun k _ => !out (k / 128)))
    fills := m.fills.filter (fun f => !out f.2.1)
    poison := filterM m.poison (fun k _ => !out (k / 16)) })

/-- Drops what some grids of a contained node have staged or have on its way there; the rest of the node's staging stays
(R303). -/
def Run.unwrite (r : Run) (node : Nat) (gs : List Nat) : Run :=
  let ours := fun (n : Option Nat) (g : Nat) => n == some node && gs.contains g
  (r.modGrid node (fun x => x.unwrite gs)).modMs (fun m => { m with
    l1 := mapM' m.l1 (fun _ c => filterM c (fun k _ => k / 2 ^ 41 != node + 1))
    stores := filterM m.stores (fun _ s => !ours s.node s.grid)
    atomics := filterM m.atomics (fun _ s => !ours s.node s.grid)
    partials := mapM' m.partials (fun _ c => filterM c (fun k p => !ours (keyNode k) p.grid)) })

/-- Stores, atomics and partials of some grids that are still on their way are each performed later or dropped, by free
choice (R326, R356). -/
def Run.dropSome (r : Run) (mine : Nat → Nat → Bool) : Run :=
  let keep := fun (tag k : Nat) => r.pick (tag * 2 ^ 80 + k) 2 == 0
  r.modMs (fun m => { m with
    stores := filterM m.stores (fun _ s => s.gwct.isSome || !mine s.grid s.warp || keep 61 (s.req * 2 ^ 41 + s.pa / 128))
    atomics := filterM m.atomics (fun k s => !mine s.grid s.warp || keep 62 k)
    partials := mapM' m.partials (fun _ c => filterM c (fun k p => !mine p.grid p.warp || keep 63 k)) })

/-- Drops the unbounded leases that a launch took (R127). -/
def Run.dropUnbounded (r : Run) (g : Nat) : Run :=
  r.modMs (fun m => { m with l1 := mapM' m.l1 (fun _ c => filterM c (fun _ l => l.lease != .unbounded g)) })

/-- A grid has stopped, and its colophon is to be written once every store of it and of its descendants is visible
(R39, R334). -/
def Run.ending (r : Run) (g : Nat) (fin : Nat × Nat × Nat × Nat) : Run :=
  r.modGrid g (fun x => if x.open && x.fin.isNone then { x with st := .ending, fin := some fin } else x)

/-- A grid and its descendants have stopped: each descendant that has not retired ends with status 9, the grid with `fin`. -/
def Run.endFamily (r : Run) (g : Nat) (fam : List Nat) (fin : Nat × Nat × Nat × Nat) : Run :=
  let r := fam.foldl (fun r k => r.ending k (if k = g then fin else (9, 0, 0, 0))) r
  fam.foldl (fun r k => r.dropUnbounded k) r

/-- Ends a grid by a fault (R303): its descendants end with it, with status 9. Contained grids that are not demoted discard
their staged writes. -/
def Run.endGrid (r : Run) (g status tcause tepc tlane : Nat) : Run :=
  match r.grid g with
  | none => r
  | some x =>
    let fam := r.family g
    let r := r.stopGrids fam (r.nodeOf g).isSome
    let r := match r.nodeOf g with
      | some n => (if n = g then r.discardNode g else r.unwrite n fam).dropDraws fam
      | none => r
    (r.endFamily g fam (status, tcause, tepc, tlane)).queueError x.part x.queue

/-! ### Machine checks (R352 to R356, R360) -/

/-- Pushes a record to the machine-check window (R356). -/
def Run.mcPush (r : Run) (m : McRec) : Run :=
  r.modRel (fun x =>
    let m := { m with seq := x.seq % 2 ^ 32, lost := min 65535 x.lost }
    if x.window.length < 256 then { x with window := x.window ++ [m], lost := 0, seq := x.seq + 1 }
    else if x.window.any (fun y => y.kind == 4) then
      let i := (x.window.findIdx (fun y => y.kind == 4))
      { x with window := x.window.eraseIdx i ++ [m], lost := 0, seq := x.seq + 1 }
    else { x with lost := x.lost + 1, seq := x.seq + 1 })

/-- Sets a bit of INTP on a control core (R308). -/
def Run.intp (r : Run) (cc bit : Nat) : Run :=
  r.modSys (fun s => { s with cc := s.cc.modify cc (fun c => { c with intp := c.intp ||| (1#8 <<< bit) }) })

/-- Nothing of the failed attempt remains, and the node waits to be placed again (R360). -/
def Grid.requeue (g : Grid) (core : Nat) : Grid :=
  { g with st := .waiting, nextTeam := 0, serial := 0, gbar := [[], [], [], []], staged := [], base := [], writes := [],
           rq := g.rq + 1, excluded := addNew g.excluded core, gwct := 0, fin := none }

/-- A machine check of a node: the record, and the end or the re-queuing of the node (R356, R360).
A queue in error dispatches nothing: a node that would wait there again ends with status 9 (R331).
`g` is the grid whose work consumed the error. The record's row is that in which the error was found, and an error of a
vertical bus with exhausted retries is of kind 3 (R362). -/
def Run.machineCheck (r : Run) (g core cause kind whereRow addr : Nat) : Run :=
  match r.grid g with
  | none => r
  | some x =>
    let top := (r.nodeOf g).getD g
    let y := (r.grid top).getD x
    let row := if kind = 0 then (r.lineRow (r.nodeOf g) addr).getD whereRow else whereRow
    let r := r.mcPush { seq := 0, lost := 0, rq := y.rq, whereRow := row,
                        kind := if kind = 0 ∧ row = 3 then 3 else kind, part := x.part, core := core,
                        queue := y.queue, time := r.clk.dtime, addr := addr }
    let r := r.intp r.dev.sys.scc 6
    let fam := r.family top
    let contained := r.nodeOf g = some top
    let r := r.stopGrids fam contained
    if contained then
      let r := (r.discardNode top).dropDraws fam
      let r := fam.foldl (fun r k => r.dropUnbounded k) r
      let r := r.modSched (fun s => { s with grids := filterM s.grids (fun k _ => k == top || !fam.contains k) })
      let err := match r.queue (qkey y.part y.queue) with
        | some c => c.err
        | none => false
      if decide (y.rq < 2) && err then r.modGrid top (fun z => { z.requeue core with st := .ending, fin := some (9, 0, 0, 0) })
      else if y.rq < 2 then r.modGrid top (fun z => z.requeue core)
      else (r.ending top (7, 2 ^ 31 + cause, 0, 0)).queueError y.part y.queue
    else
      let r := r.dropSome (fun k _ => fam.contains k)
      (r.endFamily top fam (7, 2 ^ 31 + cause, 0, 0)).queueError y.part y.queue

/-- No address applies to a record (Table 24.3). -/
def noAddr : Nat := 2 ^ 64 - 1

/-- A record of an error that no node has consumed (R351). -/
def Run.report (r : Run) (kind whereRow part core addr : Nat) : Run :=
  (r.mcPush { seq := 0, lost := 0, rq := 0, whereRow := whereRow, kind := kind, part := part, core := core, queue := 0xFFFF,
              time := r.clk.dtime, addr := addr })

/-- A control core halts: its run bit clears, and CC3 finds the cause in INTP[7] when `ccf` (R307, R312). -/
def Run.haltCc (r : Run) (k : Nat) (ccf : Bool) : Run :=
  let r := r.modSys (fun s => { s with ccrun := s.ccrun &&& ~~~(1#4 <<< k) })
  if ccf then r.intp 3 7 else r

end Sys2Proof.Machine
end

