-- ==== Sys2Proof/Machine/Operands.lean ====
section
/-! DEFINITION. Operands: what each instruction reads and writes, with which latency, and how a split's registers, immediates and guards are read (R61, R62, R70, R73, R74). -/

namespace Sys2Proof

open Sys2Proof.Machine

/-! ### Register groups -/

def vk (k n : Nat) : List Res := (List.range k).map (fun i => .v (n + i))
def sk (k n : Nat) : List Res := if n < 192 then (List.range k).map (fun i => .s (n + i)) else []
/-- A predicate read or written; pt and the values above name nothing. -/
def rp (n : Nat) : List Res := if n < 12 then [.p n] else []
def rg (n : Nat) : List Res := if n < 7 then [.g n] else []

/-- What an instruction reads and writes, and the fixed latency of what it writes: 0 when variable or none (Table 4.5). -/
structure Use where
  r : List Res
  w : List Res
  lat : Nat
  deriving DecidableEq, Repr

/-! ### Lane forms -/

/-- Second source of an integer form. -/
def LOp.srcB (o : LOp IExt) : List Res :=
  match o.x with
  | some e => if e.k then [] else [.v o.b]
  | none => [.v o.b]

/-- Third source of forms that take C, the destination in LR (R83). -/
def LOp.srcC (o : LOp IExt) : List Res :=
  match o.x with
  | some e => [.v e.c]
  | none => [.v o.d]

def LOp.use2 (o : LOp IExt) : Use := { r := rp o.g ++ [.v o.a] ++ o.srcB, w := [.v o.d], lat := 2 }

def LOp.use3 (o : LOp IExt) : Use := { r := rp o.g ++ [.v o.a] ++ o.srcB ++ o.srcC, w := [.v o.d], lat := 2 }

def LOp.useCarry (o : LOp IExt) : Use :=
  match o.x with
  | some e => { r := rp o.g ++ [.v o.a] ++ o.srcB ++ (if e.ci then rp e.q else []),
                w := [.v o.d] ++ (if e.co then rp e.q else []), lat := 2 }
  | none => o.use2

def LOp.useSel (o : LOp IExt) : Use :=
  match o.x with
  | some e => { r := rp o.g ++ [.v o.a] ++ o.srcB ++ rp e.q, w := [.v o.d], lat := 2 }
  | none => { r := rp o.g ++ [.v o.a, .v o.d] ++ rp o.b, w := [.v o.d], lat := 2 }

def L2Op.use (o : L2Op Bool) : Use := { r := rp o.g ++ [.v o.a], w := [.v o.d], lat := 2 }

/-- Floating forms of `k`-register operands, `three` with a third source. -/
def LOp.useF (k : Nat) (three : Bool) (lat : Nat) (o : LOp FExt) : Use :=
  let k := match o.x with
    | some e => if e.ft = 1 then 2 else k
    | none => k
  let b := match o.x with
    | some e => if e.k then [] else vk k o.b
    | none => vk k o.b
  let c := if three then (match o.x with
    | some e => vk k e.c
    | none => vk k o.d) else []
  { r := rp o.g ++ vk k o.a ++ b ++ c, w := vk k o.d, lat := lat }

def LOp.usePick (lat : Nat) (o : LOp PickExt) : Use :=
  let c := match o.x with
    | some e => if e.k then [] else [.v e.c]
    | none => [.v o.d]
  { r := rp o.g ++ [.v o.a, .v o.b] ++ c, w := [.v o.d], lat := lat }

/-- A CVT in its LX fields (Table 6.6 for the LR codes). -/
def cvtOf (f : CvtForm) : CvtExt :=
  let mk := fun (df sf rm : Nat) => ({ df := df, sf := sf, rm := rm, sat := false, ri := false, so := 0, sp := 0, dp := 0, ins := false } : CvtExt)
  match f with
  | .lx e => e
  | .lr c =>
    match c with
    | 0 => mk 1 0 0
    | 1 => mk 0 1 0
    | 2 => mk 2 0 0
    | 3 => mk 0 2 0
    | 4 => mk 0 6 0
    | 5 => mk 0 7 0
    | 6 => mk 6 0 1
    | _ => mk 7 0 1

def regsOfWidth (n : Nat) : Nat := if n = 64 then 2 else 1

/-- What an XCALL saves in its record: v0 to v(n - 1), and p0 to p11 in the catchword (Table 14.1). Saving them reads them,
as any read of a result (R70). [DEDUCED] (entry 92) -/
def saved (n : Nat) : List Res := vk n 0 ++ (List.range 12).map .p

/-- Address registers of a memory operand. -/
def addrUse (sp : Space) (a : Nat) (nr : Bool) (slot : Nat) : List Res :=
  match sp with
  | .global => vk 2 a
  | .quire => (if nr then [] else [.v a]) ++ sk 1 slot
  | _ => [.v a]

def UOp.use (o : UOp) : Use :=
  { r := rg o.g ++ sk 1 o.a ++ (if o.lit.isSome then [] else sk 1 o.b), w := sk 1 o.d, lat := 2 }

/-- What an instruction reads and writes (R70, R71). -/
def Instr.use : Instr → Use
  | .iadd o => o.useCarry
  | .isub o => o.useCarry
  | .imul o => o.use2
  | .imad o => { r := rp o.g ++ [.v o.a, .v o.x.c] ++ (if o.x.k then [] else [.v o.b]), w := [.v o.d], lat := 2 }
  | .imin o => o.use2
  | .imax o => o.use2
  | .and o => o.use2
  | .or o => o.use2
  | .xor o => o.use2
  | .logt o => o.use3
  | .shl o => o.use2
  | .shr o => o.use2
  | .sar o => o.use2
  | .shf o => o.use3
  | .bfe o => o.use2
  | .bfi o => o.use3
  | .popc o => o.use
  | .clz o => o.use
  | .ctz o => o.use
  | .brev o => o.use
  | .iabs o => o.use
  | .ineg o => o.use
  | .isetp o =>
    match o.x with
    | none => { r := rp o.g ++ [.v o.a, .v o.b], w := rp o.pd, lat := 2 }
    | some e => { r := rp o.g ++ [.v o.a] ++ (if e.k then [] else [.v o.b]) ++ rp e.pc, w := rp o.pd ++ rp e.pe, lat := 2 }
  | .sel o => o.useSel
  | .mov o => let k := if o.x = some true then 2 else 1; { r := rp o.g ++ vk k o.a, w := vk k o.d, lat := 2 }
  | .movi g d _ _ => { r := rp g, w := [.v d], lat := 2 }
  | .movu g d n x => let k := if x = some true then 2 else 1; { r := rp g ++ sk k n, w := vk k d, lat := 2 }
  | .spr g d n => { r := rp g, w := [.v d], lat := if n = 0x20 ∨ n = 0x21 ∨ n = 0x22 then 0 else 2 }
  | .pset o => { r := rp o.g ++ rp o.pa ++ rp o.pb ++ (match o.x with
      | some (pc, _, _) => rp pc
      | none => []), w := rp o.pd, lat := 2 }
  | .p2v g d x =>
    let m := x.getD 4095
    { r := rp g ++ ((List.range 12).filter (bitOf m)).map .p, w := [.v d], lat := 2 }
  | .v2p g a x =>
    let m := x.getD 4095
    { r := rp g ++ [.v a], w := ((List.range 12).filter (bitOf m)).map .p, lat := 2 }
  | .shfl o =>
    match o.x with
    | none => { r := rp o.g ++ [.v o.a, .v o.b], w := [.v o.d], lat := 4 }
    | some e => { r := rp o.g ++ [.v o.a] ++ (if e.k then [] else [.v o.b]), w := [.v o.d] ++ rp e.pd, lat := 4 }
  | .vote o =>
    let d := if o.sub = 3 then [Res.v o.d] else rp o.d
    { r := rp o.g ++ rp o.pa, w := d ++ (match o.x with
      | some (gd, sd) => if o.sub = 3 then sk 1 sd else rg gd
      | none => []), lat := 4 }
  | .redw o => { r := rp o.g ++ [.v o.a], w := [.v o.d] ++ (match o.x with
      | some (_, sd) => sk 1 sd
      | none => []), lat := 6 }
  | .matchw o =>
    let k := match o.x with
      | some (true, _) => 2
      | _ => 1
    { r := rp o.g ++ vk k o.a, w := [.v o.d] ++ (match o.x with
      | some (_, pd) => rp pd
      | none => []), lat := 4 }
  | .fadd o => o.useF 1 false 4
  | .fmul o => o.useF 1 false 4
  | .ffma o => o.useF 1 true 4
  | .fmin o => o.useF 1 false 4
  | .fmax o => o.useF 1 false 4
  | .fsetp o =>
    match o.x with
    | none => { r := rp o.g ++ [.v o.a, .v o.b], w := rp o.pd, lat := 4 }
    | some e =>
      let k := if e.ft = 1 then 2 else 1
      { r := rp o.g ++ vk k o.a ++ vk k o.b ++ rp e.c, w := rp o.pd ++ rp e.q, lat := 4 }
  | .func o => { r := rp o.g ++ [.v o.a], w := [.v o.d], lat := 0 }
  | .flerp o => o.usePick 6
  | .pkadd o => o.useF 1 false 4
  | .pkmul o => o.useF 1 false 4
  | .pkfma o => o.useF 1 true 4
  | .pkmnmx o => o.useF 1 false 4
  | .dadd o => o.useF 2 false 8
  | .dmul o => o.useF 2 false 8
  | .dfma o => o.useF 2 true 8
  | .cvt g d a f =>
    let e := cvtOf f
    { r := rp g ++ vk (regsOfWidth (cvtWidth e.sf)) a ++ (if e.ins then [.v d] else []),
      w := vk (regsOfWidth (cvtWidth e.df)) d, lat := 4 }
  | .plnp g d a _ => { r := rp g ++ vk 2 a, w := vk 2 d, lat := 4 }
  | .plnu g d a _ => { r := rp g ++ vk 2 a, w := vk 2 d, lat := 4 }
  | .bysel o => o.usePick 2
  | .ld o => { r := rp o.g ++ addrUse o.space o.a o.nr o.sk, w := vk (tyRegs o.ty) o.d, lat := 0 }
  | .st o => { r := rp o.g ++ addrUse o.space o.a o.nr o.sk ++ vk (tyRegs o.ty) o.d, w := [], lat := 0 }
  | .ldp o => { r := rp o.g ++ addrUse o.space o.a o.nr o.sk ++ [.v o.vb], w := [.v o.d], lat := 0 }
  | .atom o => { r := rp o.g ++ vk (if o.team then 1 else 2) o.a ++ vk (atomRegs o.ty) o.b, w := vk (atomRegs o.ty) o.d, lat := 0 }
  | .red o => { r := rp o.g ++ vk (if o.team then 1 else 2) o.a ++ vk (atomRegs o.ty) o.b, w := [], lat := 0 }
  | .cas o => { r := rp o.g ++ vk (if o.team then 1 else 2) o.a ++ vk (2 ^ o.op) o.b ++ vk (2 ^ o.op) o.c, w := vk (2 ^ o.op) o.d, lat := 0 }
  | .fenceAcq g _ => { r := rp g, w := [], lat := 0 }
  | .fenceRel g _ => { r := rp g, w := [], lat := 0 }
  | .fenceAr g _ => { r := rp g, w := [], lat := 0 }
  | .fenceSc g _ => { r := rp g, w := [], lat := 0 }
  | .cctlPf o => { r := rp o.g ++ vk (if o.priv then 1 else 2) o.a, w := [], lat := 0 }
  | .cctlPf2 o => { r := rp o.g ++ vk (if o.priv then 1 else 2) o.a, w := [], lat := 0 }
  | .cctlInv o => { r := rp o.g ++ vk (if o.priv then 1 else 2) o.a, w := [], lat := 0 }
  | .cctlWb o => { r := rp o.g ++ vk (if o.priv then 1 else 2) o.a, w := [], lat := 0 }
  | .cctlInvall o => { r := rp o.g ++ vk (if o.priv then 1 else 2) o.a, w := [], lat := 0 }
  | .bra g _ => { r := rp g, w := [], lat := 0 }
  | .brx g a _ => { r := rp g ++ [.v a], w := [], lat := 0 }
  | .call g d _ => { r := rp g, w := [.v d], lat := 2 }
  | .rjn g pd m => { r := rp g ++ (match m with
      | .reg n => sk 1 n
      | .lit _ => []), w := rp pd, lat := 0 }
  | .exit g _ => { r := rp g, w := [], lat := 0 }
  | .trap g _ => { r := rp g, w := [], lat := 0 }
  | .bkpt g => { r := rp g, w := [], lat := 0 }
  | .sample g d a b => { r := rp g ++ vk 4 a ++ vk 2 b, w := vk 4 d, lat := 0 }
  | .txf g d a b => { r := rp g ++ vk 4 a ++ vk 2 b, w := vk 4 d, lat := 0 }
  | .trace g n a b _ => { r := rp g ++ vk 8 a ++ vk 2 b ++ saved n, w := [], lat := 0 }
  | .march g n a b c _ _ _ _ => { r := rp g ++ vk 8 a ++ vk 2 b ++ vk 4 c ++ saved n, w := [], lat := 0 }
  | .susp g n _ => { r := rp g ++ saved n, w := [], lat := 0 }
  | .samplec g n a b _ => { r := rp g ++ vk 4 a ++ vk 2 b ++ saved n, w := [], lat := 0 }
  | .cadd g d a b c => { r := rp g ++ vk 4 a ++ [.v b, .v c], w := [.v d], lat := 0 }
  | .crd g d b => { r := rp g ++ [.v b], w := vk 4 d, lat := 0 }
  | .crdCnt g d b => { r := rp g ++ [.v b], w := vk 4 d, lat := 0 }
  | .crpl g d a b => { r := rp g ++ vk 8 a ++ [.v b], w := vk 8 d, lat := 0 }
  | .rnd g d a b _ => { r := rp g ++ vk 2 a ++ vk 2 b, w := [.v d], lat := 0 }
  | .srd g d a _ pd m => { r := rp g ++ [.v a, .m m], w := vk 4 d ++ rp pd, lat := 0 }
  | .swr g a b _ m => { r := rp g ++ vk 4 a ++ [.v b, .m m], w := [], lat := 0 }
  | .tnow g d _ => { r := rp g, w := vk 2 d, lat := 0 }
  | .uadd o => o.use
  | .usub o => o.use
  | .umul o => o.use
  | .uand o => o.use
  | .uor o => o.use
  | .uxor o => o.use
  | .ushl o => o.use
  | .ushr o => o.use
  | .usar o => o.use
  | .umin o => o.use
  | .umax o => o.use
  | .uminu o => o.use
  | .umaxu o => o.use
  | .umov o => { r := rg o.g ++ (if o.lit.isSome then [] else sk 1 o.b), w := sk 1 o.d, lat := 2 }
  | .ubra g _ => { r := rg g, w := [], lat := 0 }
  | .umovi g d _ _ => { r := rg g, w := sk 1 d, lat := 2 }
  | .usetp o => { r := rg o.g ++ sk 1 o.a ++ (if o.lit.isSome then [] else sk 1 o.b) ++ rg o.gc, w := rg o.gd, lat := 2 }
  | .upset o => { r := rg o.g ++ rg o.ga ++ rg o.gb, w := rg o.gd, lat := 2 }
  | .usel o gc => { r := o.use.r ++ rg gc, w := sk 1 o.d, lat := 2 }
  | .ubfe o _ => o.use
  | .ubit g d a _ _ => { r := rg g ++ sk 1 a, w := sk 1 d, lat := 2 }
  | .umulh o _ => o.use
  | .usprRead g d n => { r := rg g, w := sk 1 d, lat := if n = 0x20 ∨ n = 0x21 ∨ n = 0x22 then 0 else 2 }
  | .usprWrite g a _ => { r := rg g ++ sk 1 a, w := [], lat := 0 }
  | .ureadl g d _ _ _ => { r := rg g, w := sk 1 d, lat := 0 }
  | .uld o => { r := rg o.g ++ (if o.cst then sk 1 o.a else sk 2 o.a), w := sk (2 ^ o.width) o.d, lat := 0 }
  | .ust o => { r := rg o.g ++ sk 2 o.a ++ sk (2 ^ o.width) o.d, w := [], lat := 0 }
  | .ucall g d _ => { r := rg g, w := sk 1 d, lat := 2 }
  | .uret g a => { r := rg g ++ sk 1 a, w := [], lat := 0 }
  | .ujmpx g a b _ => { r := rg g ++ sk 1 a ++ sk 1 b, w := [], lat := 0 }
  | .barSync o => { r := rg o.g, w := [], lat := 0 }
  | .barArrive o => { r := rg o.g, w := [], lat := 0 }
  | .tsleep g d a => { r := rg g ++ sk 2 a, w := sk 1 d, lat := 0 }
  | .tbar g d a _ => { r := rg g ++ sk 2 a, w := sk 1 d, lat := 0 }
  | .utime g d sl => { r := rg g, w := sk (if sl = 2 then 1 else 2) d, lat := 0 }
  | .launch g d a => { r := rg g ++ sk 2 a, w := sk 1 d, lat := 0 }
  | .qbind g d a _ _ => { r := rg g ++ sk 4 a, w := sk 1 d, lat := 0 }
  | .sego o any => { r := rg o.g ++ sk 2 o.a ++ (if any then [] else sk 1 o.b), w := sk 1 o.d, lat := 0 }
  | .qwait g d a _ => { r := rg g ++ sk 1 a, w := sk 1 d, lat := 0 }
  | .qrel g d a _ => { r := rg g ++ sk 1 a, w := sk 1 d, lat := 0 }
  | .qstat g d _ _ => { r := rg g, w := sk 1 d, lat := 0 }
  | .secan g d a => { r := rg g ++ sk 1 a, w := sk 1 d, lat := 0 }
  | .mclaim g d _ _ => { r := rg g, w := sk 1 d, lat := 0 }
  | .mrel g d a _ _ => { r := rg g ++ sk 1 a, w := sk 1 d, lat := 0 }
  | .mlds g a b _ _ => { r := rg g ++ sk 1 a ++ sk 1 b, w := [], lat := 0 }
  | .mldsQ g a b _ _ _ => { r := rg g ++ sk 1 a ++ sk 1 b, w := [], lat := 0 }
  | .mwld g a b _ _ => { r := rg g ++ sk 1 a ++ sk 1 b, w := [], lat := 0 }
  | .mma g a => { r := rg g ++ sk 8 a, w := [], lat := 0 }
  | .mhad g a _ _ _ => { r := rg g ++ sk 1 a, w := [], lat := 0 }
  | .maccSt g a b _ _ => { r := rg g ++ sk 1 a ++ sk 1 b, w := [], lat := 0 }
  | .maccLd g a b _ _ => { r := rg g ++ sk 1 a ++ sk 1 b, w := [], lat := 0 }
  | .mzero g a => { r := rg g ++ sk 1 a, w := [], lat := 0 }
  | .mwait g d a => { r := rg g ++ sk 1 a, w := sk 1 d, lat := 0 }
  | .cbind g d a _ _ => { r := rg g ++ sk 4 a, w := sk 1 d, lat := 0 }
  | .cbindUnb g d a => { r := rg g ++ sk 4 a, w := sk 1 d, lat := 0 }
  | .cflush g d a => { r := rg g ++ sk 1 a, w := sk 1 d, lat := 0 }
  | .trisub o _ => { r := rg o.g ++ sk 2 o.a ++ sk 1 o.b, w := sk 1 o.d, lat := 0 }
  | .mbindRx g d a m => { r := rg g ++ sk 4 a, w := sk 1 d ++ [.m m], lat := 0 }
  | .mbindOut g d a m src => { r := rg g ++ sk 4 a ++ (src.map Res.m).toList, w := sk 1 d ++ [.m m], lat := 0 }
  | .frpub g d a m => { r := rg g ++ sk 2 a ++ [.m m], w := sk 1 d, lat := 0 }
  | .cstart g d a => { r := rg g ++ sk 1 a, w := sk 1 d, lat := 0 }
  | .cwait o => { r := rg o.g ++ sk 1 o.a ++ sk 1 o.b, w := sk 1 o.d, lat := 0 }
  | .cstat g d a _ => { r := rg g ++ sk 1 a, w := sk 1 d, lat := 0 }
  | .mfsr g d w _ => { r := rg g, w := sk (if w then 2 else 1) d, lat := 2 }
  | .mtsr g a w _ => { r := rg g ++ sk (if w then 2 else 1) a, w := [], lat := 0 }
  | .tlbiPage g a b _ => { r := rg g ++ sk 2 a ++ sk 1 b, w := [], lat := 0 }
  | .hirq g a _ => { r := rg g ++ sk 1 a, w := [], lat := 0 }
  | .ecall g d a _ => { r := rg g ++ sk 1 a, w := sk 1 d, lat := 0 }
  | .eret g => { r := rg g, w := [], lat := 0 }
  | .tlbiPart g _ => { r := rg g, w := [], lat := 0 }
  | .tlbiAll g _ => { r := rg g, w := [], lat := 0 }
  | .cinvIcache g _ => { r := rg g, w := [], lat := 0 }
  | .cinvCcache g _ => { r := rg g, w := [], lat := 0 }
  | .cinvL1 g _ => { r := rg g, w := [], lat := 0 }
  | .wfi g => { r := rg g, w := [], lat := 0 }
  | .halt g => { r := rg g, w := [], lat := 0 }
  | _ => { r := [], w := [], lat := 0 }

/-- Every lane register an instruction names is below the declared count (R62). -/
def Instr.regsOk (i : Instr) (regs : Nat) : Bool :=
  let ok := fun (x : Res) => match x with
    | .v n => decide (n < regs)
    | _ => true
  i.use.r.all ok && i.use.w.all ok && (match i with
    | .ureadl _ _ va _ _ => decide (va < regs)
    | _ => true)

end Sys2Proof

namespace Sys2Proof.Machine

/-! ### What a split reads -/

/-- The issuer as an instruction sees it: its warp with early values in place (R71), its split, its own
uniform registers; for a control core `wp` is a warp of no lanes. -/
structure Env where
  agent : Agent
  w : Nat
  wp : Warp
  grid : Nat
  lanes : List Nat
  /-- Uniform registers that one lane reads early: lane, register, value. -/
  early : List (Nat × Nat × Word)
  s : Map Word
  g : BitVec 7
  pc : DWord
  words : Nat
  /-- The fixed latency of the instruction's result, or 0 (Table 4.5). -/
  lat : Nat
  deriving DecidableEq, Repr

/-- The warp of a control core's environment: no lanes. -/
def Warp.empty : Warp :=
  { core := 0, slot := 0, part := 0, team := 0, wid := 0, lanes := [], s := [], g := 0, m := [], regs := 0, privSize := 0,
    privBase := 0, wst := 0, wch := 0, oac := 0, seen := 0, latch := none, mode := .user, tcause := 0, tepc := 0, tlane := 0, taddr := 0,
    tmask := 0, tvec := 0, hscr := [], schk := 0, gsave := 0, wbar := [], wbarMem := [], busy := [], spilled := false,
    promoted := [], issued := [0, 0, 0, 0], turns := 0, since := [none, none, none, none], raising := [], bad := [], bus := [], serial := none, recs := [] }

def Env.lane (e : Env) (l : Nat) : Lane := nthD e.wp.lanes l Lane.absent

/-- The condition for which the split waited came true while its warp's handler ran: it goes on as though released then
(R302). -/
def Env.met (e : Env) : Bool := (e.lane (e.lanes.headD 0)).met

/-- Lane register `n` of lane `l`. -/
def Env.v (e : Env) (l n : Nat) : Word := lookD (e.lane l).v n 0

/-- Predicate of lane `l`: pt reads true (R61). -/
def Env.p (e : Env) (l n : Nat) : Bool := n == 15 || (e.lane l).p.getLsbD n

/-- A pair, and a group of `k` registers, as one number. -/
def Env.v2 (e : Env) (l n : Nat) : Nat := cat (e.v l (n + 1)) (e.v l n)

def Env.vs (e : Env) (l n k : Nat) : List Word := (List.range k).map (fun i => e.v l (n + i))

/-- A uniform register as a lane instruction reads it. -/
def Env.su (e : Env) (l n : Nat) : Word :=
  if n < 192 then
    match e.early.find? (fun x => x.1 == l && x.2.1 == n) with
    | some x => x.2.2
    | none => lookD e.s n 0
  else 0

/-- A uniform register: sz reads 0. -/
def Env.us (e : Env) (n : Nat) : Word := if n < 192 then lookD e.s n 0 else 0

def Env.us2 (e : Env) (n : Nat) : Nat := cat (e.us (n + 1)) (e.us n)

def Env.uss (e : Env) (n k : Nat) : List Word := (List.range k).map (fun i => e.us (n + i))

/-- Uniform predicate: gt reads true. -/
def Env.ug (e : Env) (n : Nat) : Bool := n == 7 || e.g.getLsbD n

/-- Participating lanes: those of the split whose guard is true (R94). -/
def Env.on (e : Env) (g : Nat) : List Nat := e.lanes.filter (fun l => e.p l g)

/-- The split's lowest-numbered lane. -/
def Env.lead (e : Env) : Nat := e.lanes.headD 0

/-- The lowest participating lane. -/
def Env.lead' (e : Env) (g : Nat) : Nat := (e.on g).headD 0

/-- Second operand of a uniform instruction: the literal or register B (R74). -/
def Env.uB (e : Env) (b : Nat) (lit : Option Nat) : Word :=
  match lit with
  | some v => word v
  | none => e.us b

end Sys2Proof.Machine
end

