-- ==== Sys2Proof/Machine/Flags.lean ====
section
/-! DEFINITION. The flags of WST, the fields of SCHK, and the flag results of integer arithmetic (R54, R55, R85, R299). -/

namespace Sys2Proof.Machine

/-- Flags of Table 3.5 are sticky: a raised flag is ORed into WST[4:0] of the warp (R54, R55). WST holds at once what its reads
wait for; the cycle `done` in which the instruction completes is kept beside it. -/
def Warp.raise (wp : Warp) (done fl : Nat) : Warp :=
  if fl = 0 then wp else { wp with wst := wp.wst ||| word (fl % 32), raising := (done, fl) :: wp.raising }

/-- An instruction of result latency `lat` raises flags. -/
def Run.raise (r : Run) (w lat fl : Nat) : Run := r.modWarp w (fun x => x.raise (r.clk.cycles + lat) fl)

/-- Flags that instructions still under way after cycle `now` will set (R55). -/
def Warp.toRaise (wp : Warp) (now : Nat) : Word :=
  (wp.raising.filter (fun e => decide (now < e.1))).foldl (fun a e => a ||| word (e.2 % 32)) 0

/-- The write-one-to-clear write of USPR (R101). -/
def wstClear (wst x : Word) : Word := wst &&& ~~~(x &&& 0x1F)

/-- A write of WST takes effect in the cycle in which it issues: a flag that an earlier instruction sets as it completes in a later
cycle ends set (R55). The manual names no cycle of the write. [DESIGN CHOICE, unsafe] (entry 122) -/
def Warp.putWst (wp : Warp) (now : Nat) (x : Word) : Warp := { wp with wst := x ||| wp.toRaise now }

/-- MTSR writes bits [8] and [4:0] plainly (R299). -/
def wstWrite (x : Word) : Word := x &&& 0x11F

/-- RJD, WST[8] (R163). -/
def wstRjd (wst : Word) : Word := wst ||| 0x100

/-- CHK, SCHK[0]: the checking scoreboard (R71). -/
def Warp.chk (wp : Warp) : Bool := wp.schk.getLsbD 0

/-- RJTE, SCHK[1]: cause 0x11 is delivered (R163). -/
def Warp.rjte (wp : Warp) : Bool := wp.schk.getLsbD 1

def schkWrite (x : Word) : Word := x &&& 3

/-- Carry out of x + y + ci (R85). -/
def carryOut (x y : Word) (ci : Bool) : Bool := decide (2 ^ 32 ≤ x.toNat + y.toNat + boolN ci)

/-- Borrow out of x - y - ci (R85). -/
def borrowOut (x y : Word) (ci : Bool) : Bool := decide (x.toNat < y.toNat + boolN ci)

end Sys2Proof.Machine
end

