-- ==== Sys2Proof/Machine/Time.lean ====
section
/-! DEFINITION. The two clocks: DTIME and presentation time (R263). -/

namespace Sys2Proof.Machine

/-- `dc` core cycles pass at a clock of `mhz` MHz: DTIME counts whole ns, and the rest is carried (R18). -/
def Clock.pass (c : Clock) (mhz dc : Nat) : Clock :=
  let x := c.sub + 1000 * dc
  let m := max 1 mhz
  { dtime := c.dtime + x / m, cycles := c.cycles + dc, sub := x % m }

/-- Microsecond boundaries of DTIME up to `now`: each stack's pool receives its refill at the start of the boundary's tick, with the
TOKRATE and TALW in force there (R341, R349). -/
def Dev.refill (d : Dev) (now : Nat) : Dev :=
  let p := d.power
  let due := fun (k : Nat) => now / 1000 - nthD p.refilled k 0
  if due 0 = 0 ∧ due 1 = 0 then d
  else
    let gain := fun (k : Nat) => due k * (d.sys.tokrate * fld d.sys.talw (16 * k) 9 / 256)
    { d with power := { p with
      tokens := (p.tokens.zipIdx).map (fun e => min 9200 (e.1 + gain e.2))
      refilled := (p.refilled.zipIdx).map (fun e => e.1 + due e.2)
      talwMark := [] } }

/-- `dc` core cycles pass, and the pools with them. -/
def State.pass (s : State) (mhz dc : Nat) : State :=
  let clk := s.clk.pass mhz dc
  { s with clk := clk, dev := s.dev.refill clk.dtime }

/-- The core clock in MHz: the largest multiple of 25 at or below QCLK and the power-derived limit (R346). -/
def Run.clockMhz (r : Run) : Nat := min r.dev.sys.qclk r.dev.power.plim / 25 * 25

/-- Cycles of the control cores' clock, 1.15 GHz whatever the core clock is, that have passed (R17). -/
def Clock.ccCycles (c : Clock) (mhz : Nat) : Nat := (c.dtime * max 1 mhz + c.sub) * 23 / (20 * max 1 mhz)

/-- Core cycles until the control cores' clock has counted `n`. -/
def Clock.untilCc (c : Clock) (mhz n : Nat) : Nat :=
  (20 * max 1 mhz * n - (c.dtime * max 1 mhz + c.sub) * 23 + 22999) / 23000

/-- The formula of R263: RATE in parts per 10^9; the division is a floor. -/
def ptpTime (base dbase : Nat) (rate : Int) (dtime : Nat) : Nat :=
  ((base : Int) + ((dtime : Int) - (dbase : Int)) * (1000000000 + rate) / 1000000000).toNat

/-- PTIME of a DTIME tick. -/
def Ptp.time (p : Ptp) (dtime : Nat) : Nat := ptpTime p.pbase p.dbase p.rate dtime

def Run.ptime (r : Run) : Nat := r.dev.ptp.time r.clk.dtime

end Sys2Proof.Machine
end

