-- ==== Sys2Proof/Machine/Ops.lean ====
section
/-! DEFINITION. Shared operations: taking an exception and returning from one, page faults, and the issue of one instruction by a split or a control core, with the checks and hazards every instruction shares. -/

namespace Sys2Proof.Machine

/-! ### Taking an exception (R300 to R304, R307) -/

/-- A live lane joins the handler split; where it stood and what it waited for are kept (R302). Results still on their way
are written before the handler reads them (R302), so nothing of them is read early any more, by the instruction at which
the split resumes either. [DEDUCED] (entry 93) -/
def Lane.enter (l : Lane) (now : Nat) (tvec : DWord) : Lane :=
  if l.isLive then
    { l with rpc := l.pc, rwait := l.wait, wait := .none, pc := tvec, haz := [], ready := now, rprog := l.prog, prog := none }
  else l

/-- The warp in its handler (R302). -/
def Warp.enterHandler (wp : Warp) (now : Nat) (mask : List Nat) (cause addr tlane : Nat) (epc : DWord) : Warp :=
  { wp with
    mode := .handler
    tcause := word cause
    tepc := epc
    tlane := tlane
    taddr := BitVec.ofNat 64 addr
    tmask := maskOf mask
    gsave := wp.g
    lanes := wp.lanes.map (fun l => l.enter now wp.tvec) }

/-- Delivers a trap to a warp: its handler, or the end of the grid when it has none or is in it already (R302, R303). -/
def Run.deliver (r : Run) (w : Nat) (mask : List Nat) (cause addr tlane : Nat) (epc : DWord) : Run :=
  match r.warp w with
  | none => r
  | some wp =>
    if wp.mode = .handler then r.endGrid (r.gridOf wp) 5 cause epc.toNat tlane
    else if wp.tvec = 0 then r.endGrid (r.gridOf wp) 6 cause epc.toNat tlane
    else r.modWarp w (fun x => x.enterHandler r.clk.cycles mask cause addr tlane epc)

/-- A lane leaves the handler: lanes of TMASK at TEPC, every other at its RPC with the wait it had (R304). A thread whose EXIT in
the handler still waits is live, and resumes as the others do. [DEDUCED] (entry 124) -/
def Lane.leave (l : Lane) (inMask : Bool) (tepc : DWord) : Lane :=
  if l.isLive then
    if inMask then { l with pc := tepc, wait := .none, rwait := .none, prog := l.rprog, rprog := none }
    else { l with pc := l.rpc, wait := l.rwait, rwait := .none, prog := l.rprog, rprog := none }
  else l

/-- Return from handler mode (R304). -/
def Warp.leaveHandler (wp : Warp) : Warp :=
  { wp with
    mode := .user
    g := wp.gsave
    lanes := wp.lanes.mapIdx (fun k l => l.leave (inMask wp.tmask k) wp.tepc) }

def Run.modCc (r : Run) (k : Nat) (f : CtlCore → CtlCore) : Run := r.modSys (fun s => { s with cc := s.cc.modify k f })

def Run.cc (r : Run) (k : Nat) : CtlCore := r.dev.sys.cc.get k

/-- Where execution starts at an entry that addresses a control word: the leaf's first slot (R366, R64). -/
def entryPc (a : DWord) : DWord := if a.toNat % 32 = 0 then a + 4 else a

/-- The state of a control core in its trap handler (R307). -/
def CtlCore.enterTrap (c : CtlCore) (k cause addr : Nat) (epc : DWord) : CtlCore :=
  { c with
    tcause := word cause
    tepc := epc
    taddr := BitVec.ofNat 64 addr
    prev := c.mode == .machine
    busy := true
    mode := if k = 3 then .machine else .supervisor
    pc := entryPc c.tvec
    waiting := 0 }

/-- A trap on a control core; a second one halts it (R307). -/
def Run.ccTrap (r : Run) (k cause addr : Nat) (epc : DWord) : Run :=
  if (r.cc k).busy then r.haltCc k true else r.modCc k (fun c => c.enterTrap k cause addr epc)

/-- Return from a control core's trap (R307). -/
def CtlCore.leaveTrap (c : CtlCore) : CtlCore :=
  { c with busy := false, mode := if c.prev then .machine else .supervisor, pc := c.tepc }

/-- A valid program counter: a multiple of 4 that is not a control word (R64). -/
def pcValid (pc : Nat) : Bool := pc % 4 == 0 && pc % 32 != 0

/-! ### Replayable faults (R301, R322) -/

/-- The split waits for the answer of a page fault that lane `lane` has met; a page of the address space whose record waits
for its answer shares that record. -/
def Run.pageFault (r : Run) (w : Nat) (lanes : List Nat) (lane va kind why : Nat) : Run :=
  match r.warp w with
  | none => r
  | some wp =>
    let (id, r) := r.freshId
    let q := match r.grid (r.gridOf wp) with
      | some g => g.queue
      | none => 0
    let part := (r.partOfCore wp.core).getD 0
    let asid := (r.spaceOfGrid (r.gridOf wp)).asid
    let seq := (r.dev.sched.faults.find? (fun e => e.2.part == part && e.2.asid == asid && e.2.va / 65536 == va / 65536 &&
      e.2.outstanding)).bind (fun e => e.2.seq)
    let f : PFault := { warp := w, lanes := lanes, lane := lane, part := part, asid := asid, va := va, queue := q, core := wp.core, kind := kind, why := why, seq := seq,
                        time := r.clk.dtime, unit := none, fatal := false, log := none, counts := (0, 0) }
    let r := r.modSched (fun s => { s with faults := putM s.faults id f })
    r.onLanes w lanes (fun _ l => { l with wait := .fault id })

/-- Whether a wait is that of a page fault. -/
def Wait.isFault (id : Nat) : Wait → Bool
  | .fault i => i == id
  | _ => false

/-- Lanes of a warp whose own wait is that of a fault. -/
def Warp.faultLanes (wp : Warp) (id : Nat) : List Nat :=
  wp.liveLanes.filter (fun l => (nthD wp.lanes l Lane.absent).wait.isFault id)

/-- RPL of TCAUSE (Table 20.3). -/
def rplBit : Nat := 2 ^ 30

/-- A warp takes a fault that system software has declared fatal, once the faulting lanes wait for it in the mode in
which they took it (R301, R303). -/
def Run.fatalNow (r : Run) (w : Nat) : Run :=
  match r.warp w with
  | none => r
  | some wp =>
    match r.dev.sched.faults.find? (fun e => e.2.warp == w && e.2.fatal && !(wp.faultLanes e.1).isEmpty) with
    | none => r
    | some (id, f) =>
      let ls := wp.faultLanes id
      let pc := match wp.lanes[ls.headD 0]? with
        | some l => l.pc
        | none => 0
      let lane := if ls.contains f.lane then f.lane else ls.headD 0
      (r.modSched (fun s => { s with faults := delM s.faults id })).deliver w ls (rplBit + 6) f.va lane pc

/-! ### The outcome of a meaning -/

/-- What a meaning answers for its split. -/
inductive Ret where
  /-- Completed: every lane of the split goes to the next slot. -/
  | done (r : Run)
  /-- Completed: the meaning has set program counters and waits itself. -/
  | moved (r : Run)
  /-- Completed, then a trap of the class "after" (R301). -/
  | after (r : Run) (cause addr tlane : Nat)
  /-- A precise trap: no effect in any lane (R301). -/
  | trap (cause addr tlane : Nat)
  /-- Not ready: tried again when its split is served (R30). -/
  | wait (y : Why)
  /-- Not ready, and what it has begun meanwhile stays. -/
  | waitIn (r : Run) (y : Why)
  /-- A replayable fault at a virtual address: KIND and WHY of Table 21.6, and the lane that met it (R301). -/
  | pfault (va kind why lane : Nat)
  /-- Poison consumed: the row of Table 24.1 and the physical line (R352). -/
  | mcheck (whereRow addr : Nat)
  deriving DecidableEq, Repr

end Sys2Proof.Machine

namespace Sys2Proof

open Sys2Proof.Machine

/-! ### System registers (R298, Tables 20.1 and 26.1) -/

/-- Who has a register (0 warp, 1 control core, 2 both), the lowest mode that reads and that writes it (1 handler,
2 supervisor, 3 machine, 0 none), and whether it is 64 bits wide. -/
structure SysRow where
  per : Nat
  rd : Nat
  wr : Nat
  wide : Bool
  deriving DecidableEq, Repr

def sysRow (n : Nat) : Option SysRow :=
  let row := fun (p r w : Nat) (x : Bool) => some ({ per := p, rd := r, wr := w, wide := x } : SysRow)
  match n with
  | 0x000 => row 2 1 1 false
  | 0x001 => row 2 1 0 false
  | 0x002 => row 2 1 1 true
  | 0x003 => row 0 1 0 false
  | 0x004 => row 2 1 0 true
  | 0x005 => row 0 1 0 false
  | 0x006 => row 2 1 2 true
  | 0x008 => row 2 1 1 false
  | 0x009 => row 2 1 1 false
  | 0x00A => row 2 1 1 false
  | 0x00B => row 2 1 1 false
  | 0x010 => row 0 1 1 false
  | 0x011 => row 0 1 0 true
  | 0x012 => row 0 1 0 false
  | 0x020 => row 2 1 2 false
  | 0x021 => row 1 2 2 false
  | 0x030 => row 2 2 2 false
  | 0x031 => row 2 2 2 false
  | 0x032 => row 2 2 2 false
  | 0x033 => row 2 2 2 false
  | 0x040 => row 2 3 3 false
  | 0x050 => row 1 2 2 false
  | 0x051 => row 2 2 3 false
  | 0x052 => row 1 2 2 false
  | 0x053 => row 1 2 0 false
  | 0x054 => row 2 3 3 false
  | 0x055 => row 1 2 2 false
  | 0x056 => row 2 2 0 false
  | 0x057 => row 2 2 2 false
  | 0x058 => row 2 2 2 true
  | 0x05A => row 2 2 0 true
  | 0x05B => row 1 2 0 false
  | 0x05C => row 2 2 2 true
  | _ => none

def Machine.Mode.rank : Mode → Nat
  | .user => 0
  | .handler => 1
  | .supervisor => 2
  | .machine => 3

/-- The cause that an access of a system register takes, 0 for none: 0x0B before 0x01 (R80, R298, R310). `cc` is the
issuing control core; a warp's TVEC is written by no mode, and CC0 reaches CCRUN in supervisor mode. -/
def sysCause (cc : Option Nat) (m : Mode) (write wide : Bool) (n : Nat) : Nat :=
  match sysRow n with
  | none => 1
  | some x =>
    let need := if n == 0x054 && cc == some 0 then 2
      else if n == 0x006 && write && cc.isNone then 0
      else if write then x.wr else x.rd
    if need != 0 && decide (m.rank < need) then 0x0B
    else if need == 0 || (x.per == 0 && cc.isSome) || (x.per == 1 && cc.isNone) || (wide && !x.wide) then 1
    else 0

/-- The cause of an MFSR or MTSR, 0 for none and for every other instruction. -/
def Instr.sysCause (i : Instr) (cc : Option Nat) (m : Mode) : Nat :=
  match i with
  | .mfsr _ _ w n => Sys2Proof.sysCause cc m false w n
  | .mtsr _ _ w n => Sys2Proof.sysCause cc m true w n
  | _ => 0

/-! ### Checks of every instruction (R79, R80) -/

/-- Whether an instruction is a lane instruction. -/
def Instr.isLane (i : Instr) : Bool :=
  match encode i with
  | some c => !bit c.w 31
  | none => false

/-- Guard field of an instruction with words. -/
def Instr.guard (i : Instr) : Nat :=
  match encode i with
  | some c => if bit c.w 31 then bits c.w 28 3 else bits c.w 27 4
  | none => 15

/-- Modes in which an instruction may issue on a compute core (Table 20.8). -/
def Instr.warpMode (i : Instr) (m : Mode) : Bool :=
  match i with
  | .mfsr _ _ w n => m == .handler && Sys2Proof.sysCause none m false w n != 0x0B
  | .mtsr _ _ w n => m == .handler && Sys2Proof.sysCause none m true w n != 0x0B
  | .eret _ => m == .handler
  | .hirq _ _ _ => m == .handler
  | .tlbiPage _ _ _ _ => false
  | .tlbiPart _ _ => false
  | .tlbiAll _ _ => false
  | .cinvIcache _ _ => false
  | .cinvCcache _ _ => false
  | .cinvL1 _ _ => false
  | .wfi _ => false
  | .halt _ => false
  | _ => true

/-- Modes on a control core: TLBI.all needs machine mode. -/
def Instr.ccMode (i : Instr) (m : Mode) : Bool :=
  match i with
  | .tlbiAll _ _ => m == .machine
  | _ => true

/-- A field that has its meaning on control cores only (Table 20.7). -/
def Instr.warpField (i : Instr) : Bool :=
  match i with
  | .hirq _ _ part => part == 0
  | _ => true

/-- Instructions that a control core executes (R387). -/
def Instr.onCc (i : Instr) : Bool :=
  match i with
  | .usprRead _ _ _ => false
  | .usprWrite _ _ _ => false
  | .ureadl _ _ _ _ _ => false
  | .uld o => !o.cst
  | .launch _ _ _ => false
  | .barSync _ => false
  | .barArrive _ => false
  | .tbar _ _ _ _ => false
  | .qbind _ _ _ _ _ => false
  | .sego _ _ => false
  | .qwait _ _ _ _ => false
  | .qrel _ _ _ _ => false
  | .qstat _ _ _ _ => false
  | .secan _ _ _ => false
  | .mclaim _ _ _ _ => false
  | .mrel _ _ _ _ _ => false
  | .mlds _ _ _ _ _ => false
  | .mldsQ _ _ _ _ _ _ => false
  | .mwld _ _ _ _ _ => false
  | .mma _ _ => false
  | .mhad _ _ _ _ _ => false
  | .maccSt _ _ _ _ _ => false
  | .maccLd _ _ _ _ _ => false
  | .mzero _ _ => false
  | .mwait _ _ _ => false
  | .cbind _ _ _ _ _ => false
  | .cbindUnb _ _ _ => false
  | .cflush _ _ _ => false
  | .trisub _ _ => false
  | .mbindRx _ _ _ _ => false
  | .mbindOut _ _ _ _ _ => false
  | .frpub _ _ _ _ => false
  | .cstart _ _ _ => false
  | .cwait _ => false
  | .cstat _ _ _ _ => false
  | i => !i.isLane

/-- Instructions a continuation kernel may not use, and those that only it may use (R40, R43, R167, R230, R240, R289, R294,
R314). -/
def Instr.kernelOk (i : Instr) (cont : Bool) : Bool :=
  match i with
  | .launch _ _ _ => !cont
  | .barSync o => !cont || o.level == 0
  | .barArrive o => !cont || o.level == 0
  | .trisub _ _ => !cont
  | .tbar _ _ _ _ => !cont
  | .cstart _ _ _ => !cont
  | .cwait _ => !cont
  | .cstat _ _ _ _ => !cont
  | .ecall _ _ _ _ => !cont
  | .trace _ n _ _ _ => cont && decide (n + 4 < 129)
  | .march _ n _ _ _ _ _ _ _ => cont && decide (n + 8 < 129)
  | .susp _ _ _ => cont
  | .samplec _ n _ _ _ => cont && decide (n + 4 < 129)
  | _ => true

/-- Registers that an XCALL's relaunched thread needs: n + a within the declared count (R230). -/
def Instr.xcallRegs (i : Instr) : Nat :=
  match i with
  | .trace _ n _ _ _ => n + 4
  | .march _ n _ _ _ _ _ _ _ => n + 8
  | .susp _ n _ => n
  | .samplec _ n _ _ _ => n + 4
  | _ => 0

/-- The launches that an instruction may belong to, where not to every one (R43): an XCALL to a continuation kernel, BAR at team or
grid level and what R40 and its like forbid there to a launch that is none. -/
def Instr.kernelKind (i : Instr) : Option Bool :=
  match i with
  | .trace _ _ _ _ _ => some true
  | .march _ _ _ _ _ _ _ _ _ => some true
  | .susp _ _ _ => some true
  | .samplec _ _ _ _ _ => some true
  | i => if i.kernelOk true then none else some false

/-- An instruction's place in a launch that is a continuation kernel, is none, or has shown neither yet. -/
def Instr.kernelMay (i : Instr) (cont : Option Bool) : Bool :=
  match cont with
  | some c => i.kernelOk c
  | none => i.kernelOk true || i.kernelOk false

/-- The encoding checks of R79 for a warp. -/
def Instr.legalFor (i : Instr) (wp : Warp) (cont : Option Bool) : Bool :=
  i.wf && i.regsOk wp.regs && i.kernelMay cont && decide (i.xcallRegs ≤ wp.regs) && i.warpField &&
    i.sysCause none wp.mode == 0

/-- FP64 add, multiply and FMA, majors 0x2A to 0x2C (R69). -/
def Instr.isFp64 (i : Instr) : Bool :=
  match i with
  | .dadd _ => true
  | .dmul _ => true
  | .dfma _ => true
  | _ => false

/-- What issues on port A alone: FP64 and the FP64 forms of FMIN, FMAX and FSETP (R12, R69). -/
def Instr.onlyA (i : Instr) : Bool :=
  match i with
  | .fmin o => (o.x.map (fun e => e.ft == 1)).getD false
  | .fmax o => (o.x.map (fun e => e.ft == 1)).getD false
  | .fsetp o => (o.x.map (fun e => e.ft == 1)).getD false
  | i => i.isFp64

/-- The ports an instruction may issue on, the one tried first leading: 0 A, 1 B, 2 M, 3 U (R12, R69, Table 4.6). -/
def Instr.ports (i : Instr) : List Nat :=
  match encode i with
  | some c => if bit c.w 31 then [3] else if 0x30 ≤ bits c.w 21 6 then [2] else if i.onlyA then [0] else [0, 1]
  | none => []

/-- Whether an issue group of it may hold splits of several warps (R27). -/
def Instr.groups (i : Instr) : Bool :=
  match i with
  | .shfl _ => false
  | .vote _ => false
  | .redw _ => false
  | .matchw _ => false
  | .rjn _ _ _ => false
  | i => i.isLane

end Sys2Proof

namespace Sys2Proof.Machine

/-! ### Hazards of fixed-latency results (R70, R71) -/

def Res.idx : Res → Nat
  | .v n => n
  | .p n => 128 + n
  | .s n => 256 + n
  | .g n => 480 + n
  | .m n => 490 + n

/-- Registers of the warp, which a split's instruction writes once (R72, R82). -/
def Res.uniform : Res → Bool
  | .v _ => false
  | .p _ => false
  | _ => true

/-- A lane of the split would read a result that its stall counts do not yet cover (R71), or the instruction writes what the one
before it, of stall count 0, writes (R68, R177). Both are said of fixed-latency results: the destination of a variable-latency
one is guarded by the scoreboard alone. An instruction reads its sources in every lane of the split, also where its own guard
is false. [DEDUCED] (entries 24, 94) -/
def underrun (wp : Warp) (lanes : List Nat) (u : Use) : Bool :=
  lanes.any (fun l => (nthD wp.lanes l Lane.absent).haz.any (fun h => u.r.contains h.res || (h.next && u.w.contains h.res)))

/-- A lane as an early consumer sees it: for each uncovered result it reads, old or new by free choice. -/
def Run.earlyLane (r : Run) (u : Use) (k : Nat) (l : Lane) : Lane :=
  l.haz.foldl (fun x h =>
    if u.r.contains h.res && r.pick (k * 512 + h.res.idx) 2 == 1 then
      match h.res with
      | .v n => x.setV n h.old
      | .p n => x.setP n (h.old != 0)
      | _ => x
    else x) l

/-- Uniform registers read early by the lanes of a split. -/
def Run.earlyS (r : Run) (wp : Warp) (lanes : List Nat) (u : Use) : List (Nat × Nat × Word) :=
  lanes.flatMap (fun k => ((nthD wp.lanes k Lane.absent).haz.filterMap (fun h =>
    match h.res with
    | .s n => if u.r.contains h.res && r.pick (k * 512 + h.res.idx) 2 == 1 then some (k, n, h.old) else none
    | _ => none)))

/-- Uniform registers and predicates as a uniform instruction reads them, once for its split: early where any of its lanes
is a lane of the producer's split. -/
def Run.earlyU (r : Run) (wp : Warp) (lanes : List Nat) (u : Use) : Map Word × BitVec 7 :=
  (lanes.flatMap (fun k => (nthD wp.lanes k Lane.absent).haz)).foldl (fun (x : Map Word × BitVec 7) h =>
    if u.r.contains h.res && r.pick (lanes.headD 0 * 512 + h.res.idx) 2 == 1 then
      match h.res with
      | .s n => (putD x.1 n h.old 0, x.2)
      | .g n => (x.1, if h.old = 0 then x.2 &&& ~~~(1#7 <<< n) else x.2 ||| (1#7 <<< n))
      | _ => x
    else x) (wp.s, wp.g)

/-- The value a resource holds in a lane of a warp. -/
def Warp.resVal (wp : Warp) (l : Lane) : Res → Word
  | .v n => lookD l.v n 0
  | .p n => if l.p.getLsbD n then 1 else 0
  | .s n => wp.getS n
  | .g n => if wp.g.getLsbD n then 1 else 0
  | .m _ => 0

/-- What of its results an instruction writes in a lane whose guard is `wrote`, `any` telling whether some lane's guard is
true: a register of the warp is written once for the split (R82). -/
def resWritten (u : Use) (wrote any : Bool) : List Res := u.w.filter (fun x => if x.uniform then any else wrote)

/-- A lane's hazards after an instruction with stall count `stall` (R70): the ones it had grow older, those
it wrote are replaced. `wp` and `l` hold the values before it. -/
def Lane.age (wp : Warp) (l : Lane) (u : Use) (stall : Nat) (ws : List Res) : List Haz :=
  let old := l.haz.filterMap (fun h => if h.left ≤ stall then none else some { h with left := h.left - stall, next := false })
  old.filter (fun h => !ws.contains h.res) ++
    (if stall < u.lat then ws.map (fun x => { res := x, left := u.lat - stall, old := wp.resVal l x, next := stall == 0 }) else [])

/-- What a lane's split has written in cycle `now`, after an instruction of it that writes `ws`. -/
def Lane.noteWrites (l : Lane) (now : Nat) (ws : List Res) : Nat × List (Nat × Word) :=
  let had := if l.wrote.1 = now then l.wrote.2 else []
  (now, had ++ ws.filterMap (fun x => match x with
    | .v n => if had.any (fun e => e.1 == n) then none else some (n, lookD l.v n 0)
    | _ => none))

/-- A lane of the split as the instruction leaves it: hazards, the cycle from which it may issue (R25), its place in the
round (R29), what it wrote in this cycle, and no poison in that. -/
def Lane.issued (x : Lane) (wp : Warp) (l : Lane) (u : Use) (now stall : Nat) (ws : List Res) : Lane :=
  { x with
    haz := Lane.age wp l u stall ws
    ready := now + stall
    turn := wp.turns + 1
    wrote := l.noteWrites now ws
    bad := x.bad.filter (fun b => !ws.contains b) }

/-- A lane of another split of the warp: a uniform register that has been written again is read as it is now (R72). -/
def Lane.bystand (x : Lane) (ws : List Res) : Lane := { x with haz := x.haz.filter (fun h => !ws.contains h.res) }

/-- The warp as an instruction of a split leaves it: hazards, stalls and turns of its lanes; the split is placed behind every
other one of the warp (R29), which a failed CAS and LD.poll are then too; the port has been issued on (R30). -/
def Warp.issuedBy (x : Warp) (e : Env) (wp : Warp) (i : Instr) (now stall port : Nat) : Warp :=
  let u := i.use
  let guard := fun k => if i.isLane then e.p k i.guard else e.ug i.guard
  let any := e.lanes.any guard
  let ws := resWritten u false any
  { x.mapLanes (fun k y =>
      if e.lanes.contains k then y.issued wp (nthD wp.lanes k Lane.absent) u now stall (resWritten u (guard k) any) else y.bystand ws) with
    turns := wp.turns + 1
    issued := setNth x.issued port now
    since := setNth x.since port none
    raising := x.raising.filter (fun e => decide (now < e.1))
    promoted := x.promoted.filter (fun p => p != port)
    bad := x.bad.filter (fun b => !ws.contains b) }

/-- The issue group of a port in a cycle, with the split that joins it (R12, R26). -/
def PortUse.join (old : Option PortUse) (new : PortUse) : PortUse :=
  match old with
  | some u => if u.cycle = new.cycle ∧ u.open' then { new with mask := u.mask ||| new.mask } else new
  | none => new

/-- The ports of a core as the issue leaves them. -/
def Core.take (c : Core) (part port now : Nat) (fp64 : Bool) (u : PortUse) : Core :=
  { c with
    ports := putM c.ports (4 * part + port) (PortUse.join (lookM c.ports (4 * part + port)) u)
    fp64 := if fp64 then putM c.fp64 part (now + 4) else c.fp64 }

/-- The split's issue group takes the port of the cycle, also when the instruction faults (R12, R28). -/
def Run.took (r : Run) (e : Env) (wp : Warp) (i : Instr) : Run :=
  r.modCore wp.core (fun c => c.take wp.part r.cur.port r.clk.cycles i.isFp64
    { cycle := r.clk.cycles, grid := e.grid, pc := e.pc, mask := maskOf e.lanes, open' := i.groups })

/-- The split has issued an instruction (R25, R29, R30, R69 to R72). -/
def Run.issued (r : Run) (e : Env) (wp : Warp) (i : Instr) (stall : Nat) : Run :=
  (r.modWarp e.w (fun x => x.issuedBy e wp i r.clk.cycles stall r.cur.port)).took e wp i

/-! ### Issue by a split -/

/-- A variable-latency result that the instruction reads or writes is outstanding (R70). -/
def scoreboard (wp : Warp) (lanes : List Nat) (u : Use) : Bool :=
  let hit := fun (b : List Res) => b.any (fun x => u.r.contains x || u.w.contains x)
  hit wp.busy || lanes.any (fun l => hit (nthD wp.lanes l Lane.absent).busy)

/-- What the instruction sees of its split. -/
def Run.envOf (r : Run) (i : Instr) (w : Nat) (wp : Warp) (lanes : List Nat) : Env :=
  let u := i.use
  let (s, g) := r.earlyU wp lanes u
  { agent := r.cur.agent
    w := w
    wp := { wp with lanes := wp.lanes.mapIdx (fun k l => if lanes.contains k then r.earlyLane u k l else l) }
    grid := r.gridOf wp
    lanes := lanes
    early := r.earlyS wp lanes u
    s := if i.isLane then wp.s else s
    g := g
    pc := (nthD wp.lanes (lanes.headD 0) Lane.absent).pc
    words := i.words
    lat := u.lat }

/-- The split is past its instruction. -/
def Run.advance (r : Run) (e : Env) : Run :=
  r.onLanes e.w e.lanes (fun _ l => { l with pc := nextPc l.pc e.words, wait := .none })

/-- How an answer ends the issue (R305). -/
def Ret.ended : Ret → Ended
  | .trap _ _ t => .trap t
  | .after _ _ _ t => .trap t
  | .pfault _ _ _ _ => .fault
  | .mcheck _ _ => .check
  | _ => .ok

/-- What happens after a meaning has answered (R301). -/
def Run.settle (r0 : Run) (i : Instr) (e : Env) (wp : Warp) (stall : Nat) : Ret → Run
  | .done r => (r.issued e wp i stall).advance e
  | .moved r => r.issued e wp i stall
  | .after r c a t => ((r.issued e wp i stall).advance e).deliver e.w e.lanes c a t (nextPc e.pc e.words)
  | .trap c a t => (r0.took e wp i).deliver e.w e.lanes c a t e.pc
  | .wait y => r0.onLanes e.w e.lanes (fun _ l => { l with wait := .ready y })
  | .waitIn r y => r.onLanes e.w e.lanes (fun _ l => { l with wait := .ready y })
  | .pfault va k y l => (r0.took e wp i).pageFault e.w e.lanes l va k y
  | .mcheck p a => (r0.took e wp i).machineCheck e.grid e.wp.core 0x10 0 p a

/-- Whether the code of a warp's grid uses XCALL (R43), as far as its instructions have told. -/
def Run.kernel (r : Run) (wp : Warp) : Option Bool :=
  match r.grid (r.gridOf wp) with
  | some g => g.contKernel
  | none => some false

/-- Where a thread may go on after an instruction, as far as the instruction's own words say (R158 to R161). -/
def nextsOf (i : Instr) (pc : DWord) : List Nat :=
  let next := (nextPc pc i.words).toNat
  match i with
  | .bra g off => if g = 15 then [relTarget pc off] else [relTarget pc off, next]
  | .call _ _ off => [relTarget pc off, next]
  | .ubra g off => if g = 7 then [relTarget pc off] else [relTarget pc off, next]
  | .ucall _ _ off => [relTarget pc off, next]
  | .brx g _ _ => if g = 15 then [] else [next]
  | .exit g _ => if g = 15 then [] else [next]
  | .uret g _ => if g = 7 then [] else [next]
  | .ujmpx g _ _ _ => if g = 7 then [] else [next]
  | .eret g => if g = 7 then [] else [next]
  | _ => [next]

/-- The instruction of a grid's code at an address, where it can be fetched. -/
def Run.codeAt (r : Run) (g pc : Nat) : Option Instr :=
  if !canonical pc || !pcValid pc then none
  else match r.xlate (r.spaceOfGrid g) .fetch false (pc / 32 * 32) with
    | .ok pa _ =>
      match decodeLeaf (r.homeRead (r.nodeOf g) pa 32).1 (pc % 32 / 4) with
      | .ok (i, _, _) => some i
      | .error _ => none
    | .fail _ _ => none

/-- Whether an XCALL stands at one of the places `todo` or where their code goes on; `seen` have been looked at. -/
def Run.findXcall (r : Run) (g : Nat) : Nat → List Nat → List Nat → Bool
  | n + 1, pc :: todo, seen =>
    if seen.contains pc then r.findXcall g n todo seen
    else match r.codeAt g pc with
      | none => r.findXcall g n todo (pc :: seen)
      | some i => if i.kernelKind = some true then true else r.findXcall g n (nextsOf i (BitVec.ofNat 64 pc) ++ todo) (pc :: seen)
  | _, _, _ => false

/-- Whether a grid's code uses XCALL (R43): one can be reached from its entry or its handler, by next slots, direct branches and
calls. [DEDUCED] (entry 28) -/
def Run.usesXcall (r : Run) (g : Nat) : Bool :=
  match r.grid g with
  | some x => r.findXcall g (2 ^ 31) ([x.pkt.entry, x.pkt.handler].map (fun a => (entryPc (BitVec.ofNat 64 a)).toNat)) []
  | none => false

/-- The kind of launch against which an instruction is judged: where it is still open, an instruction that a continuation kernel
may not use asks the launch's code. -/
def Run.kernelFor (r : Run) (i : Instr) (wp : Warp) : Option Bool :=
  match r.kernel wp with
  | none => if i.kernelKind = some false && r.usesXcall (r.gridOf wp) then some true else none
  | k => k

/-- An XCALL shows that its launch is a continuation kernel, where that is still open. -/
def Run.tellKernel (r : Run) (i : Instr) (wp : Warp) : Run :=
  match r.kernel wp, i.kernelKind with
  | none, some true => r.modGrid (r.gridOf wp) (fun g => { g with contKernel := some true })
  | _, _ => r

/-- A register that the instruction reads holds an error that its own check has found (R352). -/
def badRegs (wp : Warp) (lanes : List Nat) (u : Use) : Bool :=
  wp.bad.any u.r.contains || lanes.any (fun l => (nthD wp.lanes l Lane.absent).bad.any u.r.contains)

/-- The row of Table 24.1 of the first such error: its own file's, or a vertical bus that has delivered it (R352, R362). -/
def badRow (wp : Warp) (lanes : List Nat) (u : Use) : Nat :=
  let mine := (wp.bad.filter u.r.contains).map (fun x => (32, x)) ++
    lanes.flatMap (fun l => ((nthD wp.lanes l Lane.absent).bad.filter u.r.contains).map (fun x => (l, x)))
  match mine with
  | [] => 0
  | x :: _ => if wp.bus.contains x then 3 else 0

/-- What an instruction of a split answers, checked in R80's order: privilege, encoding, stall underrun, scoreboard; then
poisoned registers and its own meaning. -/
def Run.judge (r : Run) (i : Instr) (wp : Warp) (e : Env) (f : Run → Env → Ret) : Ret :=
  if !i.warpMode wp.mode then .trap 0x0B 0 e.lead
  else if !i.legalFor wp (r.kernelFor i wp) then .trap 0x01 0 e.lead
  else if wp.chk && underrun wp e.lanes i.use then .trap 0x08 0 e.lead
  else if scoreboard wp e.lanes i.use then .wait .scoreboard
  else if badRegs wp e.lanes i.use then .mcheck (badRow wp e.lanes i.use) noAddr
  else f (r.tellKernel i wp) e

/-- What the instruction has done already, by an earlier try of one of the split's lanes. -/
def Env.progress (e : Env) : Nat × Nat :=
  e.lanes.foldl (fun a l => match (e.lane l).prog with
    | some (pc, n, k) => if pc = e.pc ∧ a.1 < n then (n, k) else a
    | none => a) (0, 0)

/-- Keeps what the instruction has done for its next try, or forgets it. -/
def Run.progress (r : Run) (e : Env) (x : Option (Nat × Nat)) : Run :=
  r.onLanes e.w e.lanes (fun _ l => { l with prog := x.map (fun y => (e.pc, y.1, y.2)) })

/-- The issue in progress has ended so. -/
def Run.note (r : Run) (x : Ended) : Run := { r with cur := { r.cur with ended := x } }

/-- One instruction of a split. -/
def Run.issueWarp (r : Run) (i : Instr) (w : Nat) (wp : Warp) (lanes : List Nat) (f : Run → Env → Ret) : Run :=
  let e := r.envOf i w wp lanes
  if wp.spilled then r
  else
    let z := r.judge i wp e f
    (r.settle i e wp r.cur.stall z).note z.ended

/-! ### Issue by a control core -/

/-- What an instruction sees on a control core. SCHK is a register of warps alone (Table 20.1), and no result is read early
here. [DESIGN CHOICE, unsafe] (entry 95) -/
def Run.ccEnv (r : Run) (i : Instr) (k : Nat) : Env :=
  let c := r.cc k
  { agent := .cc k, w := 0, wp := Warp.empty, grid := 0, lanes := [], early := [], s := c.s, g := c.g, pc := c.pc,
    words := i.words, lat := 0 }

/-- A control core issues its next instruction, on the one port there is, no earlier than the next cycle of its own clock.
[DEDUCED] (entry 121) -/
def Run.ccReady (r : Run) : Nat := r.clk.ccCycles r.clockMhz + max 1 r.cur.stall

def Run.ccSettle (r0 : Run) (e : Env) (k : Nat) : Ret → Run
  | .done r => r.modCc k (fun c => { c with pc := nextPc e.pc e.words, waiting := 0, ready := r.ccReady })
  | .moved r => r.modCc k (fun c => { c with ready := r.ccReady })
  | .after r c a _ => (r.modCc k (fun c => { c with pc := nextPc e.pc e.words })).ccTrap k c a (nextPc e.pc e.words)
  | .trap c a _ => r0.ccTrap k c a e.pc
  | .wait _ => r0
  | .waitIn r _ => r
  | .pfault va _ _ _ => r0.ccTrap k 7 va e.pc
  | .mcheck _ _ => r0.haltCc k true

def Run.issueCc (r : Run) (i : Instr) (k : Nat) (f : Run → Env → Ret) : Run :=
  let e := r.ccEnv i k
  if !i.ccMode (r.cc k).mode || i.sysCause (some k) (r.cc k).mode == 0x0B then r.ccTrap k 0x0B 0 e.pc
  else if !(i.wf && i.onCc && i.sysCause (some k) (r.cc k).mode == 0) then r.ccTrap k 0x01 0 e.pc
  else r.ccSettle e k (f r e)

/-- The issue of an instruction by the agent whose turn it is. -/
def issue (i : Instr) (f : Run → Env → Ret) (s : State) : Host.Outcome State Fault Refusal :=
  match s.cur.agent with
  | .warp w l =>
    match lookM s.dev.warps w with
    | some wp =>
      if (wp.split l).isEmpty then .fault .noIssuer
      else .next (finish s ((Run.of s).issueWarp i w wp (wp.split l) f))
    | none => .fault .noIssuer
  | .cc k =>
    if k < 4 ∧ s.dev.sys.ccrun.getLsbD k then .next (finish s ((Run.of s).issueCc i k f)) else .fault .noIssuer
  | _ => .fault .noIssuer

/-! ### Results -/

/-- What one participating lane writes: registers, predicates and flags. -/
structure LaneRes where
  v : List (Nat × Word)
  p : List (Nat × Bool)
  fl : Nat
  deriving DecidableEq, Repr

def LaneRes.reg (d : Nat) (x : Word) : LaneRes := { v := [(d, x)], p := [], fl := 0 }

def Lane.apply (l : Lane) (x : LaneRes) : Lane :=
  let l := x.v.foldl (fun l e => l.setV e.1 e.2) l
  x.p.foldl (fun l e => l.setP e.1 e.2) l

/-- Applies the results of the participating lanes, and their flags to the warp (R82, R103). -/
def Run.applyLanes (r : Run) (e : Env) (g : Nat) (f : Nat → LaneRes) : Run :=
  let on := e.on g
  (r.onLanes e.w on (fun k l => l.apply (f k))).raise e.w e.lat (on.foldl (fun a k => orFl a (f k).fl) 0)

/-- A lane instruction that computes in each lane alone. -/
def laneOp (i : Instr) (g : Nat) (f : Env → Nat → LaneRes) (s : State) : Host.Outcome State Fault Refusal :=
  issue i (fun r e => .done (r.applyLanes e g (f e))) s

/-- Writes a uniform register of the issuer; sz discards. -/
def Run.putS (r : Run) (e : Env) (n : Nat) (x : Word) : Run :=
  match e.agent with
  | .cc k => r.modCc k (fun c => if n < 192 then { c with s := putD c.s n x 0 } else c)
  | _ => r.modWarp e.w (fun w => w.setS n x)

def Run.putS2 (r : Run) (e : Env) (n : Nat) (x : Nat) : Run := (r.putS e n (lo32 x)).putS e (n + 1) (hi32 x)

def Run.putSs (r : Run) (e : Env) (n : Nat) : List Word → Run
  | [] => r
  | x :: xs => (r.putS e n x).putSs e (n + 1) xs

/-- Writes a uniform predicate of the issuer; gt discards. -/
def Run.putG (r : Run) (e : Env) (n : Nat) (b : Bool) : Run :=
  match e.agent with
  | .cc k => r.modCc k (fun c => if n < 7 then { c with g := if b then c.g ||| (1#7 <<< n) else c.g &&& ~~~(1#7 <<< n) } else c)
  | _ => r.modWarp e.w (fun w => w.setG n b)

/-- A uniform instruction: once for its split, nothing under a false guard (R74, R77). -/
def uniOp (i : Instr) (g : Nat) (f : Run → Env → Ret) (s : State) : Host.Outcome State Fault Refusal :=
  issue i (fun r e => if e.ug g then f r e else .done r) s

/-- A uniform instruction that writes one register. -/
def uniReg (i : Instr) (g d : Nat) (f : Env → Word) (s : State) : Host.Outcome State Fault Refusal :=
  uniOp i g (fun r e => .done (r.putS e d (f e))) s

/-! ### Targets (R66, R158) -/

/-- The address space of an issuing split, with the TLBs of its partition (R320). -/
def Run.spaceAt (r : Run) (e : Env) : ASpace := (r.spaceOfGrid e.grid).ofWarp e.wp.core e.wp.part

/-- Slots of a leaf that hold an instruction's first word, by the three things of R64. -/
def openers (ws : List Nat) : Nat → Nat → List Nat
  | 0, _ => []
  | n + 1, k =>
    if 7 < k then []
    else
      let x := decide (8 ≤ slotField (nthD ws 0 0) k)
      let three := x && bit (nthD ws k 0) 31 && bits (nthD ws k 0) 24 4 == 15 && bit (nthD ws (k + 1) 0) 23
      k :: openers ws n (k + 1 + b2n x + b2n three)

/-- The 32 bytes of a leaf as a core's instruction cache has them, or its home's: a leaf held may have been dropped
since, by a free choice (R312). -/
def Run.leafBytes (r : Run) (core : Nat) (node : Option Nat) (pa : Nat) : List Byte × Run :=
  let key := nkey node pa / 32
  let held := match lookM (r.core core).icache key with
    | some bs => if r.pick (5 * 2 ^ 20 + key % 2 ^ 20) 2 = 0 then some bs else none
    | none => none
  match held with
  | some bs => (bs, r)
  | none =>
    let (bs, r) := r.homeRead node (pa / 32 * 32) 32
    (bs, r.modCore core (fun c => { c with icache := putM c.icache key bs }))

/-- The words of the leaf of a target as the issuer would fetch it; none where it cannot. -/
def Run.targetLeaf (r : Run) (e : Env) (t : Nat) : Option (List Nat) :=
  match e.agent with
  | .cc k =>
    let pa := t / 32 * 32
    if inRom k pa then some (leafWords (romLeaf pa))
    else if isReserved pa && !isFirmware pa then none
    else some (leafWords (r.homeRead none pa 32).1)
  | _ =>
    if !canonical t then none
    else match r.xlate (r.spaceAt e) .fetch false (t / 32 * 32) with
      | .ok pa _ => some (leafWords (r.leafBytes e.wp.core (r.nodeOf e.grid) pa).1)
      | .fail _ _ => none

/-- Whether a target is not a control word and not an extension or third word (R66). Where its leaf cannot be fetched, that
fault comes first (R80): at the target, but for a page that is not resident. -/
def Run.slotOk (r : Run) (e : Env) (t : Nat) : Bool :=
  match r.targetLeaf e t with
  | some ws => pcValid t && (openers ws 7 1).contains (t % 32 / 4)
  | none => true

/-- The WHY of the page fault of a target whose page is not resident. -/
def Run.targetPage (r : Run) (e : Env) (t : Nat) : Option Nat :=
  match e.agent with
  | .cc _ => none
  | _ =>
    if !canonical t then none
    else match r.xlate (r.spaceAt e) .fetch false (t / 32 * 32) with
      | .fail 6 y => some y
      | _ => none

/-- The fault of a split at a target, met in lane `l`: a page that is not resident, which the branch waits for, since R66's check,
which is raised at the branch, needs the leaf; then a target that `ok` rejects. [DEDUCED] (entry 125) -/
def Run.slotFault (r : Run) (e : Env) (l t : Nat) (ok : Bool) : Option Ret :=
  match r.targetPage e t with
  | some y => some (.pfault t 3 y l)
  | none => if ok then none else some (.trap 3 t l)

/-- A target that R158 accepts: in the code window, and one that R66 accepts. -/
def Run.targetOk (r : Run) (e : Env) (t : Nat) : Bool := decide (t / 2 ^ 32 = e.pc.toNat / 2 ^ 32) && r.slotOk e t

/-- The fault at a branch target of lane `l`, if any (R66, R158). -/
def Run.targetFault (r : Run) (e : Env) (l t : Nat) : Option Ret := r.slotFault e l t (r.targetOk e t)

end Sys2Proof.Machine
end

