-- ==== Sys2Proof/Machine/Access.lean ====
section
/-! DEFINITION. Accesses: what a thread waits for, releases and acquires, and the checked locations of every address space (R117 to R122, R130, R132, R139, R146, R358). -/

namespace Sys2Proof.Machine

/-! ### Outstanding accesses of a thread -/

/-- A load, ATOM or CAS of the lane's thread is outstanding. -/
def Run.laneLoads (r : Run) (w l : Nat) : Bool :=
  r.dev.ms.loads.any (fun e => e.2.warp == w && e.2.who.contains l) ||
  r.dev.ms.atomics.any (fun e => e.2.warp == w && !e.2.red && e.2.lanes.any (fun x => x.1 == l))

/-- A store or RED of the lane's thread is not acknowledged. -/
def Run.laneStores (r : Run) (w l : Nat) : Bool :=
  r.dev.ms.stores.any (fun e => e.2.warp == w && !e.2.remote && e.2.who.contains l) ||
  r.dev.ms.atomics.any (fun e => e.2.warp == w && e.2.red && !e.2.remote && e.2.lanes.any (fun x => x.1 == l))

/-- An acquiring load or atomic of the lane's thread is outstanding: no later access is performed before it (R131, R136). -/
def Run.laneAcq (r : Run) (w l : Nat) : Bool :=
  r.dev.ms.loads.any (fun e => e.2.warp == w && e.2.acq && e.2.who.contains l) ||
  r.dev.ms.atomics.any (fun e => e.2.warp == w && e.2.acq && e.2.lanes.any (fun x => x.1 == l))

/-- A load of the lane's thread that reads one of the bytes is outstanding: the next access to them comes after it (R132). -/
def Run.laneReads (r : Run) (w l : Nat) (node : Option Nat) (pas : List Nat) : Bool :=
  r.dev.ms.loads.any (fun e => e.2.warp == w && e.2.node == node && e.2.who.contains l && e.2.addrs.any pas.contains)

/-- A store of the core to a line that its home has not applied, or an atomic of it on the way there. -/
def Run.lineBusy (r : Run) (core key : Nat) : Bool :=
  r.dev.ms.stores.any (fun e => e.2.core == core && e.2.gwct == none && nkey e.2.node e.2.pa / 128 == key) ||
  r.dev.ms.atomics.any (fun e => e.2.core == core && e.2.lanes.any (fun x => nkey e.2.node x.2.1 / 128 == key))

/-- The team of a warp lies on more than one core. -/
def Run.onGang (r : Run) (wp : Warp) : Bool :=
  match r.team wp.team with
  | some t => decide (1 < t.cores.length)
  | none => false

/-- Every lane of a warp: a release by the whole warp covers what its threads that have ended left under way too (R204, R313). -/
def everyLane : List Nat := List.range 32

/-- A release at a scope by the threads of some lanes of a warp: whether its wait has ended, after the flush of the
core's update-only lines that it makes (R139, R146, R151). -/
def Run.release (r : Run) (w : Nat) (wp : Warp) (lanes : List Nat) (scope : Nat) : Bool × Run :=
  let wide := decide (2 ≤ scope) || (scope == 1 && r.onGang wp)
  let r := if wide then r.flushCore wp.core (fun _ => true) else r
  let x := (r.warp w).getD wp
  let free := lanes.all (fun l => !r.laneLoads w l && (!wide || !r.laneStores w l))
  (free && (!wide || decide (x.wch < r.clk.dtime) && r.seenAll w x) && (decide (scope < 3) || x.oac == 0), r)

/-- Demotes the contained node of a grid, if there is one: some when that happens now (R358). -/
def Run.demoteNow (r : Run) (g : Nat) : Option Run := (r.nodeOf g).map (fun n => r.demote n)

/-- A release by the issuing split for an operation at a scope, demoting a contained node first where R358 says so;
`k` goes on once it has completed. -/
def Run.released (r : Run) (e : Env) (lanes : List Nat) (scope : Nat) (demotes : Bool) (k : Run → Ret) : Ret :=
  match (if demotes then r.demoteNow e.grid else none) with
  | some r => .waitIn r .fence
  | none =>
    match r.release e.w e.wp lanes scope with
    | (true, r) => k r
    | (false, r) => .waitIn r .fence

/-! ### Checked locations -/

/-- Where an access goes: physical bytes, bytes of a private region, a team address, or a slot not yet in its state. -/
inductive Loc where
  | glob (pas : List Nat) (rem : Bool)
  | priv (pas : List Nat)
  | team (a : Nat)
  | notReady
  deriving DecidableEq, Repr

/-- Why a lane faults: a precise cause with its TADDR, a replayable fault, or poison in a translation entry. -/
inductive Bad where
  | trap (cause addr : Nat)
  | page (va why : Nat)
  | poison (line : Nat)
  deriving DecidableEq, Repr

/-- A translation failure of an access at `va`. -/
def badTr (va cause why : Nat) : Bad :=
  if cause = 6 then .page va why else if cause = 0x10 then .poison why else .trap cause va

/-- The row of Table 24.1 of an error found in memory: GDDR 7 (entry 21). -/
def rowMemory : Nat := 5

/-- What a split answers to a lane's fault. -/
def Bad.ret (b : Bad) (kind l : Nat) : Ret :=
  match b with
  | .trap c a => .trap c a l
  | .page va y => .pfault va kind y l
  | .poison k => .mcheck rowMemory k

/-- `n` consecutive physical bytes from `pa` up. -/
def run (pa n : Nat) : List Nat := (List.range n).map (fun i => pa + i)

/-- Global space, naturally aligned (R118, R130). -/
def Run.globLoc (r : Run) (sp : ASpace) (a : Acc) (ea n : Nat) : Except Bad Loc :=
  if ea % n ≠ 0 then .error (.trap 4 ea)
  else if !canonical ea then .error (.trap 0x12 ea)
  else match r.xlate sp a false ea with
    | .ok pa rem => .ok (.glob (run pa n) rem)
    | .fail c y => .error (badTr ea c y)

/-- Address of private byte `o` of lane `l` (R119). -/
def privAddr (base l o : Nat) : Nat := base + o / 4 * 128 + l * 4 + o % 4

/-- Physical addresses of some private bytes of a lane, or what the lane faults on (R130). -/
def Run.privPas (r : Run) (sp : ASpace) (a : Acc) (base l : Nat) (os : List Nat) : Except Bad (List Nat) :=
  match (os.map (privAddr base l)).find? (fun va => !canonical va) with
  | some va => .error (.trap 0x12 va)
  | none =>
  let ts := os.map (fun o => (privAddr base l o, r.xlate sp a true (privAddr base l o)))
  match worstOf ts with
  | some (c, y, va) => .error (badTr va c y)
  | none => .ok (pasOf ts).1

/-- Private space (R119, R120). -/
def Run.privLoc (r : Run) (sp : ASpace) (wp : Warp) (a : Acc) (l o n : Nat) : Except Bad Loc :=
  if o % n ≠ 0 then .error (.trap 4 o)
  else if wp.privSize < o + n then .error (.trap 5 o)
  else match r.privPas sp a wp.privBase l (run o n) with
    | .ok ps => .ok (.priv ps)
    | .error x => .error x

/-- Team memory per member and gang size of a warp's launch. -/
def Run.teamGeom (r : Run) (g : Nat) : Nat × Nat :=
  match r.grid g with
  | some x => (2 ^ x.pkt.gang, x.pkt.teamBytes)
  | none => (0, 0)

/-- Team space (R37). -/
def Run.teamLoc (r : Run) (g ta n : Nat) : Except Bad Loc :=
  let (gang, size) := r.teamGeom g
  if ta % n ≠ 0 then .error (.trap 4 ta)
  else if teamOk gang size ta n then .ok (.team ta) else .error (.trap 7 ta)

/-- State of a slot of a quire. -/
def Quire.slot (q : Quire) (k : Nat) : Nat := lookD q.slots (k % q.count) 0

/-- The state in which a quire access or QWAIT finds its slot usable (R121, R190). -/
def Quire.usable (q : Quire) (k : Nat) : Bool := q.slot k == (if q.out then 0 else 2)

/-- Quire space (R121, R201): byte `b` of slot `k` mod N of quire `n`; an access without alignment reports the lowest byte that
lies outside the slot (R133). `met`: the slot was found usable while the warp's handler ran. -/
def Run.quireLoc (r : Run) (wp : Warp) (met : Bool) (n k : Nat) (b : Int) (size : Nat) (align : Bool) : Except Bad Loc :=
  match r.quire wp.core wp.team n with
  | none => .error (.trap 0x0D n)
  | some q =>
    let usable := met || q.usable k
    if q.broken && !usable then .error (.trap 0x0D n)
    else if align && b % (size : Int) ≠ 0 then .error (.trap 4 (ux b 64))
    else if b < 0 ∨ (q.size : Int) < b + size then .error (.trap 7 (ux (if align ∨ b < 0 then b else max b q.size) 64))
    else if !usable then .ok .notReady
    else .ok (.team (q.base + k % q.count * q.size + b.toNat))

/-- The outcome of the checks of every participating lane (R130): the locations, or what is delivered. -/
def checked (kind : Nat) : List (Nat × Except Bad Loc) → Except Ret (List (Nat × Loc))
  | [] => .ok []
  | (l, .error b) :: _ => .error (b.ret kind l)
  | (l, .ok x) :: xs =>
    match checked kind xs with
    | .error z => .error z
    | .ok ys => .ok ((l, x) :: ys)

/-! ### Private lines (R126, R180) -/

/-- A private line of the warp is present at the byte. -/
def Run.privHas (r : Run) (w core pa : Nat) : Bool :=
  match r.lineAt core (pa / 128) with
  | some l => l.lease == .priv && l.owner == w
  | none => false

/-- Makes the private line of a byte present; another copy of the line gives way to it. -/
def Run.privAlloc (r : Run) (w core pa hint : Nat) : Run :=
  let r := if r.privHas w core pa || (r.lineAt core (pa / 128)).isNone then r else r.evict core (pa / 128)
  r.alloc core (pa / 128) hint .priv w

/-- Rows of the poisoned words of a line at its home (R352). -/
def Run.homeBad (r : Run) (base : Nat) : Map Nat :=
  if r.dev.ms.poison.isEmpty then []
  else (List.range 32).filterMap (fun k => (r.poisonRow none [base + 4 * k]).map (fun row => (k, row)))

/-- Fills the words of a private line that are not valid from its address. -/
def Run.privFill (r : Run) (w core pa hint : Nat) : Run :=
  let key := pa / 128
  let r := r.privAlloc w core pa hint
  match r.lineAt core key with
  | none => r
  | some l =>
    let (bs, r) := r.homeRead none (key * 128) 128
    let data := (List.zip (List.range 128) bs).foldl (fun d e => if l.valid.getLsbD (e.1 / 4) then d else putM d e.1 e.2) l.data
    r.putLine core key { l with
      valid := BitVec.allOnes 32
      data := data
      bad := (r.homeBad (key * 128)).foldl (fun m e => if l.valid.getLsbD e.1 then m else putM m e.1 e.2) l.bad }

/-- Whether the word of a byte is valid in a private line of the warp. -/
def Run.privValid (r : Run) (w core pa : Nat) : Bool :=
  r.privHas w core pa && (match r.lineAt core (pa / 128) with
    | some l => l.valid.getLsbD (pa % 128 / 4)
    | none => false)

/-- Reads private bytes of which some are not valid: each is read as soon as its line is whole, since a later fill may evict the
line. With .rd3 a line that is absent is not allocated. -/
def Run.privBytes (r : Run) (w core hint : Nat) : List Nat → List Byte × Run
  | [] => ([], r)
  | pa :: pas =>
    let r := if r.privValid w core pa || (hint == 3 && !r.privHas w core pa) then r else r.privFill w core pa hint
    let b := if r.privValid w core pa then r.l1byte core none pa else r.hread none pa
    let (bs, r) := r.privBytes w core hint pas
    (b :: bs, r)

/-- Reads private bytes: a hit, or fills (R180). -/
def Run.privRead (r : Run) (w core hint : Nat) (pas : List Nat) : List Byte × Run :=
  if pas.all (r.privValid w core) then (pas.map (r.l1byte core none), r.touch core none pas)
  else r.privBytes w core hint pas

/-- Writes one part of a private store, at most a word; a line that is present for it is a hit (R126). A .rd3 store that misses
allocates nothing (R126), and its bytes go to memory. [DEDUCED] (entry 96) -/
def Run.privWrite (r : Run) (w core hint pa : Nat) (bs : List Byte) : Run :=
  let key := pa / 128
  let has := r.privHas w core pa
  if hint = 3 ∧ !has then (if (r.lineAt core key).isSome then r.evict core key else r).homeWrite none pa bs
  else
    let fills := decide (bs.length < 4) && !r.privValid w core pa
    let r := if fills then r.privFill w core pa hint else r.privAlloc w core pa hint
    match r.lineAt core key with
    | some l =>
      let l := l.store (pa % 128) bs true
      r.putLine core key (if has && !fills then l.hit else l)
    | none => r

end Sys2Proof.Machine
end

