-- ==== Sys2Proof/Machine/Memory.lean ====
section
/-! DEFINITION. Memory instructions and the steps of the memory system (chapters 07, 08, 11). -/

namespace Sys2Proof.Machine

/-! ### Sizes and values -/

/-- Bytes of an LD or ST type (Table 7.4). -/
def tyBytes (ty : Nat) : Nat :=
  match ty with
  | 0 => 1
  | 1 => 1
  | 2 => 2
  | 3 => 2
  | 4 => 4
  | 5 => 8
  | _ => 16

/-- The words that a loaded value gives its destination (R131). -/
def loadWords (size : Nat) (sext : Bool) (x : Nat) : List Word :=
  if size < 4 then [if sext then word (ux (sx x (8 * size)) 32) else word x] else wordsOf (size / 4) x

/-- The words of a completed load (R131, R133). -/
def Load.result (ld : Load) : List Word :=
  let x := ofBytes (ld.addrs.map (fun a => lookD ld.got a 0))
  match ld.field with
  | some (p, w) => [word (if ld.sext then ux (sx (x / 2 ^ p) w) 32 else fld x p w)]
  | none => loadWords ld.size ld.sext x

/-- Writes registers of one lane, and ends their outstanding state. -/
def Lane.putVs (l : Lane) (d : Nat) : List Word → Lane
  | [] => l
  | x :: xs => ({ l with busy := l.busy.filter (fun b => b != Res.v d) }.setV d x).putVs (d + 1) xs

/-- Writes uniform registers, and ends their outstanding state. -/
def Warp.putSs (wp : Warp) (d : Nat) : List Word → Warp
  | [] => wp
  | x :: xs => ({ wp with busy := wp.busy.filter (fun b => b != Res.s d) }.setS d x).putSs (d + 1) xs

/-- Registers `d` to `d + k - 1` of a lane wait for a variable-latency result (R70). -/
def Lane.await (l : Lane) (d k : Nat) : Lane := { l with busy := l.busy ++ vk k d }

def Warp.await (wp : Warp) (d k : Nat) : Warp := { wp with busy := wp.busy ++ sk k d }

/-- Delivers a completed load. -/
def Run.putLoad (r : Run) (ld : Load) : Run :=
  match ld.lane with
  | some l => r.modWarpAny ld.warp (fun w => w.onLanes [l] (fun _ x => x.putVs ld.dst ld.result))
  | none => r.modWarpAny ld.warp (fun w => w.putSs ld.dst ld.result)

/-! ### LD and LDP -/

/-- What a load of one lane asks for. -/
structure Want where
  lane : Option Nat
  /-- The threads whose event it is (R144). -/
  who : List Nat
  dst : Nat
  size : Nat
  sext : Bool
  field : Option (Nat × Nat)
  hint : Nat
  inv : Bool
  acq : Bool
  deriving DecidableEq, Repr

/-- A load that goes to a warp's registers. -/
def Want.load (x : Want) (core w : Nat) (node : Option Nat) (pas : List Nat) : Load :=
  { core := core, warp := w, lane := x.lane, who := x.who, node := node, addrs := pas, got := [], dst := x.dst, size := x.size,
    sext := x.sext, field := x.field, hint := x.hint, inv := x.inv, acq := x.acq }

/-- Registers that a load writes. -/
def Want.regs (x : Want) : Nat := if x.field.isSome ∨ x.size < 4 then 1 else x.size / 4

/-- Gives a load its bytes at once. -/
def Run.loadNow (r : Run) (x : Want) (core w : Nat) (pas : List Nat) (bs : List Byte) : Run :=
  r.putLoad { x.load core w none pas with got := (List.zip pas bs).foldl (fun m e => putM m e.1 e.2) [] }

/-- A load that has to wait for fills (R124). -/
def Run.loadLater (r : Run) (x : Want) (core w : Nat) (node : Option Nat) (pas : List Nat) : Run :=
  let (id, r) := r.freshId
  let r := r.modMs (fun m => { m with loads := putM m.loads id (x.load core w node pas) })
  match x.lane with
  | some l => r.onLanes w [l] (fun _ y => y.await x.dst x.regs)
  | none => r.modWarp w (fun y => y.await x.dst x.regs)

/-- With .inv the L1 then holds the lines with an unbounded lease of the launch (R127); a private line stays one (R180, R181). -/
def Run.unbound (r : Run) (core : Nat) (node : Option Nat) (g : Nat) (pas : List Nat) : Run :=
  pas.foldl (fun r pa =>
    let key := nkey node pa / 128
    match r.lineAt core key with
    | some l => if l.lease == .priv then r else r.putLine core key { l with lease := .unbounded g }
    | none => r) r

/-- A load that meets an update-only line of its own core sees it after the flush (R142). -/
def Run.ownFlush (r : Run) (core : Nat) (node : Option Nat) (pas : List Nat) : Run :=
  ((pas.map (fun pa => nkey node pa / 128)).foldl addNew []).foldl (fun r k => r.flushCore core (fun j => j / 128 == k)) r

/-- A global load of one lane: a hit, or a load that waits for its fills. -/
def Run.loadGlob (r : Run) (e : Env) (node : Option Nat) (x : Want) (pas : List Nat) : Run :=
  let core := e.wp.core
  let r := r.ownFlush core node pas
  if r.hits core e.grid node pas then
    let bs := pas.map (r.l1byte core node)
    let r := r.touch core node pas
    ((if x.inv then r.unbound core node e.grid pas else r).seeL1 core e.w node pas).loadNow x core e.w pas bs
  else r.loadLater x core e.w node pas

/-- A load of one lane at its checked location. -/
def Run.loadAt (r : Run) (e : Env) (node : Option Nat) (poll : Bool) (x : Want) : Loc → Run
  | .glob pas _ =>
    if poll then
      let key := nkey node (pas.headD 0) / 128
      let r := (r.recallLine key).see e.w (lookD r.dev.ms.vis key 0)
      (r.loadNow x e.wp.core e.w pas (pas.map (r.hread node))).l1drop e.wp.core node pas
    else r.loadGlob e node x pas
  | .priv pas =>
    let (bs, r) := r.privRead e.w e.wp.core x.hint pas
    r.loadNow x e.wp.core e.w pas bs
  | .team a => r.loadNow x e.wp.core e.w (run a x.size) (r.treadN e.wp.team a x.size)
  | .notReady => r

/-- The row of an error that an L1 holds in the words of some bytes (R352). -/
def Run.l1Row (r : Run) (core : Nat) (node : Option Nat) (pas : List Nat) : Option Nat :=
  pas.findSome? (fun pa => (r.lineAt core (nkey node pa / 128)).bind (fun l => lookM l.bad (pa % 128 / 4)))

/-- The row of an error in the first of some private bytes that has one, in the L1 where the word is valid there. -/
def Run.privRow (r : Run) (w core : Nat) (pas : List Nat) : Option Nat :=
  pas.findSome? (fun pa => if r.privValid w core pa then r.l1Row core none [pa] else r.poisonRow none [pa])

/-- A location whose bytes, read at once, hold poison (R352): the row of Table 24.1 and the line. Global bytes are read at
once by a poll at their home and by a hit in the L1. -/
def Run.badLoc (r : Run) (e : Env) (node : Option Nat) (size : Nat) (poll : Bool) : Loc → Option (Nat × Nat)
  | .glob pas _ =>
    let row := if poll then r.poisonRow node pas else if r.hits e.wp.core e.grid node pas then r.l1Row e.wp.core node pas else none
    row.map (fun k => (k, pas.headD 0 / 128 * 128))
  | .priv pas => (r.privRow e.w e.wp.core pas).map (fun k => (k, pas.headD 0 / 128 * 128))
  | .team a => (r.tpoisonRow e.wp.team a size).map (fun k => (k, noAddr))
  | .notReady => none

/-- Whether a checked access must wait for its slot. -/
def anyNotReady (ls : List (Nat × Loc)) : Bool := ls.any (fun x => x.2 == .notReady)

/-- Consumed poison of the lowest lane that reads it at once: a hit, a poll, private and team bytes. -/
def Run.anyBad (r : Run) (e : Env) (node : Option Nat) (size : Nat → Nat) (poll : Bool) (ls : List (Nat × Loc)) : Option (Nat × Nat) :=
  ls.findSome? (fun x => r.badLoc e node (size x.1) poll x.2)

/-- A poll reads its location at the home: earlier accesses of its thread to the line come first (R131, R132). -/
def Run.pollWaits (r : Run) (e : Env) (node : Option Nat) (ls : List (Nat × Loc)) : Bool :=
  ls.any (fun x => r.laneLoads e.w x.1 || (match x.2 with
    | .glob pas _ => r.lineBusy e.wp.core (nkey node (pas.headD 0) / 128)
    | _ => false))

/-- An earlier load of the thread to one of the bytes is outstanding: the next one is performed after it (R132). -/
def Run.overlaps (r : Run) (e : Env) (node : Option Nat) (ls : List (Nat × Loc)) : Bool :=
  ls.any (fun x => match x.2 with
    | .glob pas _ => r.laneReads e.w x.1 node pas
    | _ => false)

/-- Loads of all participating lanes whose locations have been checked. -/
def Run.loads (r : Run) (e : Env) (poll : Bool) (want : Nat → Want) (ls : List (Nat × Loc)) : Ret :=
  let node := r.nodeOf e.grid
  if ls.any (fun x => r.laneAcq e.w x.1) then .wait .fence
  else if anyNotReady ls then .wait .quire
  else if r.overlaps e node ls || (poll && r.pollWaits e node ls) then .wait .fence
  else match r.anyBad e node (fun l => (want l).size) poll ls with
    | some (p, a) => .mcheck p a
    | none => .done (ls.foldl (fun r x => r.loadAt e node poll (want x.1) x.2) r)

/-- Checked location of an LD, ST in one lane (R117 to R121, R129). -/
def Run.locOf (r : Run) (e : Env) (o : MemOp) (a : Acc) (l : Nat) : Except Bad Loc :=
  let n := tyBytes o.ty
  match o.space with
  | .global => r.globLoc (r.spaceAt e) a (ux (e.v2 l o.a + o.off) 64) n
  | .priv => r.privLoc (r.spaceAt e) e.wp a l (ux ((e.v l o.a).toNat + o.off) 32) n
  | .team => r.teamLoc e.grid (ux ((e.v l o.a).toNat + o.off) 32) n
  | .quire => r.quireLoc e.wp e.met o.quire (e.su l o.sk).toNat ((if o.nr then 0 else (e.v l o.a).toNat : Nat) + o.off) n true

/-- LD (R131): fabric and system scope demote a contained node first (R358). -/
def execLd (o : MemOp) (s : State) : Host.Outcome State Fault Refusal :=
  issue (.ld o) (fun r e =>
    match checked 0 ((e.on o.g).map (fun l => (l, r.locOf e o .load l))) with
    | .error z => z
    | .ok ls =>
      if ls.isEmpty then .done r
      else match (if o.ord = 1 ∧ 3 ≤ o.scope then r.demoteNow e.grid else none) with
        | some r => .waitIn r .fence
        | none => r.loads e o.poll (fun l =>
          { lane := some l, who := [l], dst := o.d, size := tyBytes o.ty, sext := o.ty == 1 || o.ty == 3, field := none, hint := o.rd,
            inv := o.inv, acq := o.ord == 1 }) ls) s

/-- The bytes of an element and its first bit in them (R133): offset of its first byte, byte count, first bit. -/
def packed (index w : Nat) : Nat × Nat × Nat :=
  let p := index * w
  (p / 8, (p % 8 + w + 7) / 8, p % 8)

/-- Translations of the bytes of an element: 0x12 counts before 0x07, and that before 0x06; of equal causes the lowest byte. -/
def Run.packedPas (r : Run) (sp : ASpace) (ea n : Nat) : Except Bad Loc :=
  let bs := (run ea n).map (fun x => x % 2 ^ 64)
  match bs.find? (fun x => !canonical x) with
  | some x => .error (.trap 0x12 x)
  | none =>
    let ts := bs.map (fun x => (x, r.xlate sp .load false x))
    match worstOf ts with
    | some (c, y, x) => .error (badTr x c y)
    | none => .ok (.glob (pasOf ts).1 false)

/-- Checked bytes of an LDP element in one lane. -/
def Run.packedLoc (r : Run) (e : Env) (o : LdpOp) (l : Nat) : Except Bad Loc :=
  let (off, n, _) := packed (e.v l o.vb).toNat (o.ty + 1)
  match o.space with
  | .global => r.packedPas (r.spaceAt e) (ux (e.v2 l o.a + o.off) 64 + off) n
  | .team =>
    let a := ux ((e.v l o.a).toNat + o.off) 32 + off
    match (run a n).find? (fun x => !teamOk (r.teamGeom e.grid).1 (r.teamGeom e.grid).2 x 1) with
    | some x => .error (.trap 7 x)
    | none => .ok (.team a)
  | .quire => r.quireLoc e.wp e.met o.quire (e.su l o.sk).toNat ((if o.nr then 0 else (e.v l o.a).toNat : Nat) + o.off + off) n false
  | .priv => .error (.trap 1 0)

/-- LDP (R133). -/
def execLdp (o : LdpOp) (s : State) : Host.Outcome State Fault Refusal :=
  issue (.ldp o) (fun r e =>
    match checked 0 ((e.on o.g).map (fun l => (l, r.packedLoc e o l))) with
    | .error z => z
    | .ok ls =>
      r.loads e false (fun l =>
        let (_, n, b) := packed (e.v l o.vb).toNat (o.ty + 1)
        { lane := some l, who := [l], dst := o.d, size := n, sext := o.sgn, field := some (b, o.ty + 1), hint := o.rd, inv := o.inv,
          acq := false }) ls) s

/-! ### ST -/

/-- A store enters the L1, where a line that is present is a hit (R126), and is on its way to its home (R125). A private line
keeps its own bytes (R180). -/
def Run.storeGlob (r : Run) (core w g : Nat) (who : List Nat) (node : Option Nat) (hint pa : Nat) (rem : Bool)
    (bs : List Byte) : Run :=
  let key := nkey node pa / 128
  let r := match r.lineAt core key with
    | some l => if l.lease == Lease.priv then r else r.putLine core key (l.store (pa % 128) bs false).hit
    | none =>
      if hint = 3 then r
      else
        let r := r.alloc core key hint .none w
        match r.lineAt core key with
        | some l => r.putLine core key (l.store (pa % 128) bs false)
        | none => r
  let (id, r) := r.freshId
  let st : Store := { core := core, warp := w, who := who, grid := g, node := node, pa := pa, bytes := bs, remote := rem,
                      gwct := none, req := id, seenBy := [] }
  let r := r.modMs (fun m => { m with stores := putM m.stores id st })
  if rem then r.modWarp w (fun x => { x with oac := x.oac + 1 }) else r

/-- Splits a byte string into words at most. -/
def chunks4 : Nat → List Byte → List (List Byte)
  | 0, _ => []
  | n + 1, bs => if bs.isEmpty then [] else bs.take 4 :: chunks4 n (bs.drop 4)

/-- A store of one lane at its checked location. -/
def Run.storeAt (r : Run) (e : Env) (l hint : Nat) (bs : List Byte) : Loc → Run
  | .glob pas rem => r.storeGlob e.wp.core e.w e.grid [l] (r.nodeOf e.grid) hint (pas.headD 0) rem bs
  | .priv pas =>
    (List.zip (List.range 4) (chunks4 4 bs)).foldl (fun r c => r.privWrite e.w e.wp.core hint (nthD pas (4 * c.1) 0) c.2) r
  | .team a => r.twrite e.wp.team a bs
  | .notReady => r

/-- The stores that an instruction has sent since number `id` are one request for each line (R128). -/
def Run.join (r : Run) (id : Nat) : Run :=
  r.modMs (fun m => { m with stores := mapM' m.stores (fun k x => if id ≤ k then { x with req := id } else x) })

/-- What every store, RED and atomic waits for: earlier loads of its thread (R132), earlier acquires, and the commit
of a node demoted before it. -/
def Run.storeWaits (r : Run) (e : Env) (lanes : List Nat) : Bool :=
  lanes.any (fun l => r.laneLoads e.w l || r.laneAcq e.w l) || r.commitPending e.grid

def anyRemote (ls : List (Nat × Loc)) : Bool :=
  ls.any (fun x => match x.2 with
    | .glob _ rem => rem
    | _ => false)

/-- ST (R131): a store to a remote page, or one ordered at fabric or system scope, demotes a contained node first (R358). -/
def execSt (o : MemOp) (s : State) : Host.Outcome State Fault Refusal :=
  issue (.st o) (fun r e =>
    let on := e.on o.g
    match checked 1 (on.map (fun l => (l, r.locOf e o .store l))) with
    | .error z => z
    | .ok ls =>
      let go := fun (r : Run) =>
        if r.storeWaits e on then Ret.waitIn r .fence
        else if anyNotReady ls then .waitIn r .quire
        else .done ((ls.foldl (fun r x =>
          r.storeAt e x.1 o.rd (bytesOf (tyBytes o.ty) (ofWords (e.vs x.1 o.d (tyRegs o.ty)))) x.2) r).join r.dev.ms.nextId)
      if on.isEmpty then .done r
      else if o.ord = 2 then r.released e on o.scope (anyRemote ls || decide (3 ≤ o.scope)) go
      else match (if anyRemote ls then r.demoteNow e.grid else none) with
        | some r => .waitIn r .fence
        | none => go r) s

/-! ### Atomics -/

/-- An atomic's location in one lane. -/
def Run.atomLoc (r : Run) (e : Env) (o : AtomOp) (a : Acc) (n l : Nat) : Except Bad Loc :=
  if o.team then r.teamLoc e.grid (ux ((e.v l o.a).toNat + o.off) 32) n
  else r.globLoc (r.spaceAt e) a (ux (e.v2 l o.a + o.off) 64) n

/-- The update of one lane (R134, R136). -/
def atomStep (cas : Bool) (op ty : Nat) (b c o : Nat) : Nat := if cas then (if o = b then c else o) else atomNew op ty o b

/-- An atomic on team memory, lane by lane at the member. Only RED .exch replaces a word whose poison it has not read (R352). -/
def Run.atomTeam (r : Run) (e : Env) (red cas : Bool) (op ty n d : Nat) (b c : Nat → Nat) : List (Nat × Nat) → Run
  | [] => r
  | (l, a) :: xs =>
    let o := ofBytes (r.treadN e.wp.team a n)
    let bs := bytesOf n (atomStep cas op ty (b l) (c l) o)
    let r := if red && op == 6 then r.twrite e.wp.team a bs else r.tput e.wp.team a bs
    let r := if red then r else r.onLanes e.w [l] (fun _ x => x.putVs d (wordsOf (max 1 (n / 4)) o))
    r.atomTeam e red cas op ty n d b c xs

/-- Sends the atomics of a split to their homes, one request per line (R136). -/
def Run.atomSend (r : Run) (e : Env) (a : Atomic) (b c : Nat → Nat) (ls : List (Nat × Nat × Bool)) : Run :=
  let node := r.nodeOf e.grid
  let lines := (ls.map (fun x => x.2.1 / 128)).foldl addNew []
  let r := lines.foldl (fun r k =>
    let mine := ls.filter (fun x => x.2.1 / 128 == k)
    let rem := mine.any (fun x => x.2.2)
    let (id, r) := r.freshId
    let at' : Atomic := { a with node := node, lanes := mine.map (fun x => (x.1, x.2.1, b x.1, c x.1)), remote := rem }
    let r := r.modMs (fun m => { m with atomics := putM m.atomics id at' })
    if rem then r.modWarp e.w (fun x => { x with oac := x.oac + 1 }) else r) r
  let r := r.l1drop e.wp.core node (ls.flatMap (fun x => run x.2.1 a.size))
  if a.red then r else r.onLanes e.w (ls.map (·.1)) (fun _ x => x.await a.dst (max 1 (a.size / 4)))

/-- A RED recalls what other cores hold of the line under another operation or type (R137). -/
def Run.recallOthers (r : Run) (core op ty line : Nat) : Run :=
  let other := fun (c : Nat × Map Partial) => c.1 != core && c.2.any (fun p => p.1 / 128 == line && (p.2.op != op || p.2.ty != ty))
  (r.dev.ms.partials.filter other).foldl (fun r c => r.flushCore c.1 (fun j => j / 128 == line)) r

/-- RED in the L1: the partial of one lane (R137). -/
def Run.redL1 (r : Run) (e : Env) (op ty pa b : Nat) : Run :=
  let node := r.nodeOf e.grid
  let k := nkey node pa
  let core := e.wp.core
  let other := fun (p : Nat × Partial) => p.1 / 128 == k / 128 && (p.2.op != op || p.2.ty != ty || p.2.warp != e.w)
  let r := if (lookD r.dev.ms.partials core []).any other then r.flushCore core (fun j => j / 128 == k / 128) else r
  let r := r.recallOthers core op ty (k / 128)
  let r := r.l1drop core node (run pa (atomBytes ty))
  r.modMs (fun m =>
    let ps := lookD m.partials core []
    let val := match lookM ps k with
      | some p => atomNew op ty p.val b
      | none => b
    { m with partials := putM m.partials core (putM ps k { op := op, ty := ty, val := val, warp := e.w, grid := e.grid }) })

/-- Physical addresses of checked global locations. -/
def globOf (ls : List (Nat × Loc)) : List (Nat × Nat × Bool) :=
  ls.filterMap (fun x => match x.2 with
    | .glob pas rem => some (x.1, pas.headD 0, rem)
    | _ => none)

def teamOf (ls : List (Nat × Loc)) : List (Nat × Nat) :=
  ls.filterMap (fun x => match x.2 with
    | .team a => some (x.1, a)
    | _ => none)

/-- ATOM, RED and CAS (R134 to R138) on `n` bytes: operand and new value per lane. -/
def Run.atomic (r : Run) (e : Env) (o : AtomOp) (red cas : Bool) (n : Nat) (b c : Nat → Nat) : Ret :=
  let on := e.on o.g
  match checked (if red then 1 else 2) (on.map (fun l => (l, r.atomLoc e o (if red then .store else .atomic) n l))) with
  | .error z => z
  | .ok ls =>
    let node := r.nodeOf e.grid
    let gl := globOf ls
    let ty := if cas then 0 else o.ty
    let a : Atomic := { core := e.wp.core, warp := e.w, grid := e.grid, acq := o.ord == 1 || o.ord == 3, node := none,
                        team := false, cas := cas, red := red, op := o.op, ty := ty, size := n, dst := o.d, lanes := [],
                        remote := false }
    let go := fun (r : Run) =>
      if r.storeWaits e on then Ret.waitIn r .fence
      else if red && !anyRemote ls && atomPartial o.op && !gl.isEmpty && gl.any (fun x => r.lineBusy e.wp.core (nkey node x.2.1 / 128)) then
        Ret.waitIn r .fence
      else match (if red then none else (teamOf ls).findSome? (fun x => r.tpoisonRow e.wp.team x.2 n)) with
      | some row => .mcheck row noAddr
      | none =>
        let r := r.atomTeam e red cas o.op ty n o.d b c (teamOf ls)
        if gl.isEmpty then .done r
        else if red && !anyRemote ls && atomPartial o.op then
          .done (gl.foldl (fun r x => r.redL1 e o.op ty x.2.1 (b x.1)) r)
        else .done (r.atomSend e a b c gl)
    let dem := anyRemote ls || (o.ord != 0 && decide (3 ≤ o.scope))
    if on.isEmpty then .done r
    else if o.ord = 2 ∨ o.ord = 3 then r.released e on o.scope dem go
    else match (if dem then r.demoteNow e.grid else none) with
      | some r => .waitIn r .fence
      | none => go r

/-- A lane's value of `k` registers. -/
def Env.num (e : Env) (l n k : Nat) : Nat := ofWords (e.vs l n k)

def execAtom (o : AtomOp) (s : State) : Host.Outcome State Fault Refusal :=
  issue (.atom o) (fun r e => r.atomic e o false false (atomBytes o.ty) (fun l => e.num l o.b (atomRegs o.ty)) (fun _ => 0)) s

def execRed (o : AtomOp) (s : State) : Host.Outcome State Fault Refusal :=
  issue (.red o) (fun r e => r.atomic e o true false (atomBytes o.ty) (fun l => e.num l o.b (atomRegs o.ty)) (fun _ => 0)) s

def execCas (o : AtomOp) (s : State) : Host.Outcome State Fault Refusal :=
  issue (.cas o) (fun r e => r.atomic e o false true (4 * 2 ^ o.op) (fun l => e.num l o.b (2 ^ o.op))
    (fun l => e.num l o.c (2 ^ o.op))) s

/-! ### FENCE and CCTL -/

/-- An acquiring fence completes when the loads before it have (R148). -/
def Run.fence (r : Run) (e : Env) (g scope : Nat) (rel acq : Bool) : Ret :=
  let on := e.on g
  let go := fun (r : Run) => if acq && on.any (fun l => r.laneLoads e.w l) then Ret.waitIn r .fence else .done r
  if on.isEmpty then .done r
  else if rel then r.released e on scope (decide (3 ≤ scope)) go
  else match (if 3 ≤ scope then r.demoteNow e.grid else none) with
    | some r => .waitIn r .fence
    | none => go r

def execFenceAcq (g scope : Nat) (s : State) : Host.Outcome State Fault Refusal :=
  issue (.fenceAcq g scope) (fun r e => r.fence e g scope false true) s

def execFenceRel (g scope : Nat) (s : State) : Host.Outcome State Fault Refusal :=
  issue (.fenceRel g scope) (fun r e => r.fence e g scope true false) s

def execFenceAr (g scope : Nat) (s : State) : Host.Outcome State Fault Refusal :=
  issue (.fenceAr g scope) (fun r e => r.fence e g scope true true) s

/-- Its place in the single order of R150 is the step that completes it. -/
def execFenceSc (g scope : Nat) (s : State) : Host.Outcome State Fault Refusal :=
  issue (.fenceSc g scope) (fun r e => r.fence e g scope true true) s

/-- The line that a CCTL names in one lane (R140). -/
def Run.cctlLoc (r : Run) (e : Env) (o : CctlOp) (l : Nat) : Except Bad Loc :=
  let sp := r.spaceAt e
  if o.priv then r.privLoc sp e.wp .load l (ux ((e.v l o.a).toNat + o.off) 32) 1
  else r.globLoc sp .load (ux (e.v2 l o.a + o.off) 64) 1

/-- Distinct lines that the lanes name, a lane that faults aside: key, a byte of it, whether private. -/
def Run.cctlLines (r : Run) (e : Env) (o : CctlOp) : List Nat :=
  let node := if o.priv then none else r.nodeOf e.grid
  ((e.on o.g).filterMap (fun l => match r.cctlLoc e o l with
    | .ok (.glob pas _) => some (nkey node (pas.headD 0) / 128)
    | .ok (.priv pas) => some (pas.headD 0 / 128)
    | _ => none)).foldl addNew []

/-- CCTL.pf: a fill into the L1 at the RRPV of RD (Table 7.8). A prefetch that would fault does nothing. -/
def execCctlPf (o : CctlOp) (s : State) : Host.Outcome State Fault Refusal :=
  issue (.cctlPf o) (fun r e =>
    .done ((r.cctlLines e o).foldl (fun r k =>
      if o.priv then r.privFill e.w e.wp.core (k * 128) o.rd
      else r.modMs (fun m => { m with fills := m.fills ++ [(e.wp.core, k, o.rd)] })) r)) s

/-- CCTL.pf2: a fill into L2 and the stacked cache, which hold no value of their own in the model. -/
def execCctlPf2 (o : CctlOp) (s : State) : Host.Outcome State Fault Refusal :=
  issue (.cctlPf2 o) (fun r _ => .done r) s

/-- The checks of CCTL.inv and .wb (R130). -/
def Run.cctlChecked (r : Run) (e : Env) (o : CctlOp) (f : Run → Nat → Run) : Ret :=
  match checked 0 ((e.on o.g).map (fun l => (l, r.cctlLoc e o l))) with
  | .error z => z
  | .ok _ => .done ((r.cctlLines e o).foldl f r)

/-- Drops a global copy, its partials flushed first (Table 7.8). -/
def Run.dropGlobal (r : Run) (core k : Nat) : Run :=
  let r := r.flushCore core (fun j => j / 128 == k)
  match r.lineAt core k with
  | some l => if l.lease = .priv then r else r.setL1 core (delM (r.l1 core) k)
  | none => r

def execCctlInv (o : CctlOp) (s : State) : Host.Outcome State Fault Refusal :=
  issue (.cctlInv o) (fun r e => r.cctlChecked e o (fun r k => if o.priv then r else r.dropGlobal e.wp.core k)) s

def execCctlWb (o : CctlOp) (s : State) : Host.Outcome State Fault Refusal :=
  issue (.cctlWb o) (fun r e => r.cctlChecked e o (fun r k => if o.priv then r.writeBack e.wp.core k else r)) s

/-- Drops every global line and unbounded lease of a core, partials flushed first (Table 7.8, R312). -/
def Run.invAll (r : Run) (core : Nat) : Run :=
  let r := r.flushCore core (fun _ => true)
  r.setL1 core (filterM (r.l1 core) (fun _ l => l.lease == .priv))

def execCctlInvall (o : CctlOp) (s : State) : Host.Outcome State Fault Refusal :=
  issue (.cctlInvall o) (fun r e => .done (if (e.on o.g).isEmpty then r else r.invAll e.wp.core)) s

/-! ### ULD and UST (R122, R141) -/

/-- Base and offset of a uniform access, modulo 2^64; sz gives base 0. -/
def Env.uaddr (e : Env) (o : UMemOp) : Nat :=
  let base := if o.a = 255 then 0 else if o.cst then (e.us o.a).toNat else e.us2 o.a
  ux (base + o.off) 64

/-- Bytes of a constant line as the core's constant cache has them for the launch, or its home's: a line held may have been
dropped since, by a free choice (R122). -/
def Run.constByte (r : Run) (core g : Nat) (node : Option Nat) (pa : Nat) : Byte × Run :=
  let key := nkey node pa / 128
  let held := match lookM (r.core core).ccache key with
    | some (by', bs) => if by' = g ∧ r.pick (6 * 2 ^ 20 + key % 2 ^ 20) 2 = 0 then some bs else none
    | none => none
  match held with
  | some bs => (nthD bs (pa % 128) 0, r)
  | none =>
    let (bs, r) := r.homeRead node (pa / 128 * 128) 128
    (nthD bs (pa % 128) 0, r.modCore core (fun c => { c with ccache := putM c.ccache key (g, bs) }))

def Run.constBytes (r : Run) (core g : Nat) (node : Option Nat) : List Nat → List Byte × Run
  | [] => ([], r)
  | pa :: pas =>
    let (b, r) := r.constByte core g node pa
    let (bs, r) := r.constBytes core g node pas
    (b :: bs, r)

/-- ULD.c: 65,536 bytes from the launch's parameter pointer (R122). -/
def Run.uldConst (r : Run) (e : Env) (o : UMemOp) (n : Nat) : Ret :=
  let off := ux ((if o.a = 255 then 0 else (e.us o.a).toNat : Nat) + o.off) 64
  if 65536 < off + n then .trap 7 off e.lead
  else
    let base := match r.grid e.grid with
      | some x => x.pkt.param
      | none => 0
    let va := (base + off) % 2 ^ 64
    if !canonical va then .trap 0x12 va e.lead
    else match r.xlateN (r.spaceAt e) .load false va n with
      | .error (c, y, a) => (badTr a c y).ret 0 e.lead
      | .ok (pas, _) =>
        let node := r.nodeOf e.grid
        match r.poisonRow node pas with
        | some row => .mcheck row (pas.headD 0 / 128 * 128)
        | none =>
          let (bs, r) := r.constBytes e.wp.core e.grid node pas
          .done (r.putSs e o.d (wordsOf (n / 4) (ofBytes bs)))

/-- A control core's access: physical, with no translation (R315, R377, R387). A bank that holds the image of a running control core is
never written: a store to it is cause 0x07 in machine mode too. [DESIGN CHOICE, unsafe] (entry 136) -/
def Run.ccLoc (r : Run) (m : Mode) (write : Bool) (ea n : Nat) : Option Ret :=
  if ea % n ≠ 0 then some (.trap 4 ea 0)
  else if !canonical ea then some (.trap 0x12 ea 0)
  else if 2 ^ 48 ≤ ea then some (.trap 7 ea 0)
  else if isFirmware ea then (if write && (m != .machine || r.bankRuns (run ea n)) then some (.trap 7 ea 0) else none)
  else if isReserved ea then some (.trap 7 ea 0)
  else none

/-- ULD.g of a warp: its access is one event of each thread of the split (R141, R144). -/
def Run.uldGlob (r : Run) (e : Env) (o : UMemOp) (n : Nat) : Ret :=
  match r.globLoc (r.spaceAt e) .load (e.uaddr o) n with
  | .error b => b.ret 0 e.lead
  | .ok loc =>
    if o.ord ∧ 3 ≤ o.scope ∧ (r.nodeOf e.grid).isSome then .waitIn ((r.demoteNow e.grid).getD r) .fence
    else if e.lanes.any (fun l => r.laneAcq e.w l) ||
        r.overlaps e (r.nodeOf e.grid) (e.lanes.map (fun l => (l, loc))) then .wait .fence
    else
      let node := r.nodeOf e.grid
      match r.anyBad e node (fun _ => n) false [(e.lead, loc)] with
      | some (p, a) => .mcheck p a
      | none => .done (r.loadAt e node false
        { lane := none, who := e.lanes, dst := o.d, size := n, sext := false, field := none, hint := 0, inv := false, acq := o.ord } loc)

/-- A control core's store has a GWCT, or its load has returned a value that has one (R125, R146). -/
def Run.ccSaw (r : Run) (k gw : Nat) : Run := r.modCc k (fun c => { c with wch := max c.wch gw })

/-- A release of a control core may complete: its earlier stores are visible at device scope (R145, R149, R387). -/
def Run.ccReleased (r : Run) (k : Nat) : Bool := decide ((r.cc k).wch = 0 ∨ (r.cc k).wch < r.clk.dtime)

def execUld (o : UMemOp) (s : State) : Host.Outcome State Fault Refusal :=
  uniOp (.uld o) o.g (fun r e =>
    let n := 4 * 2 ^ o.width
    match e.agent with
    | .cc k =>
      match r.ccLoc (r.cc k).mode false (e.uaddr o) n with
      | some z => z
      | none =>
        let (bs, r) := r.homeRead none (e.uaddr o) n
        let r := r.ccSaw k (lookD r.dev.ms.vis (e.uaddr o / 128) 0)
        match r.poisonRow none (run (e.uaddr o) n) with
        | some row => .mcheck row (e.uaddr o / 128 * 128)
        | none => .done (r.putSs e o.d (wordsOf (n / 4) (ofBytes bs)))
    | _ => if o.cst then r.uldConst e o n else r.uldGlob e o n) s

def execUst (o : UMemOp) (s : State) : Host.Outcome State Fault Refusal :=
  uniOp (.ust o) o.g (fun r e =>
    let n := 4 * 2 ^ o.width
    let bs := bytesOf n (ofWords (e.uss o.d (2 ^ o.width)))
    match e.agent with
    | .cc k =>
      match r.ccLoc (r.cc k).mode true (e.uaddr o) n with
      | some z => z
      | none =>
        if o.ord && !r.ccReleased k then .wait .fence
        else .done ((r.homeWrite none (e.uaddr o) bs).ccSaw k (r.gwctOf (e.uaddr o)))
    | _ =>
      match r.globLoc (r.spaceAt e) .store (e.uaddr o) n with
      | .error b => b.ret 1 e.lead
      | .ok loc =>
        let rem := anyRemote [(e.lead, loc)]
        let go := fun (r : Run) =>
          if r.storeWaits e e.lanes then Ret.waitIn r .fence
          else match loc with
            | .glob pas rem => .done (r.storeGlob e.wp.core e.w e.grid e.lanes (r.nodeOf e.grid) 0 (pas.headD 0) rem bs)
            | _ => .done r
        if o.ord then r.released e e.lanes o.scope (rem || decide (3 ≤ o.scope)) go
        else match (if rem then r.demoteNow e.grid else none) with
          | some r => .waitIn r .fence
          | none => go r) s

/-! ### Steps of the memory system -/

/-- Whether an address of a load lies in a line. -/
def Load.on (ld : Load) (key : Nat) : Bool := ld.addrs.any (fun pa => nkey ld.node pa / 128 == key)

/-- A load takes the bytes of a filled line. -/
def Load.take (ld : Load) (key : Nat) (bs : List Byte) : Load :=
  let mine := ld.addrs.filter (fun pa => nkey ld.node pa / 128 == key)
  { ld with got := mine.foldl (fun m pa => putM m pa (nthD bs (pa % 128) 0)) ld.got }

def Load.full (ld : Load) : Bool := ld.addrs.all (fun pa => (lookM ld.got pa).isSome)

/-- Gives every waiting load of a core the bytes of a line; loads that have all their bytes complete, and one that
takes poison is a machine check of its node (R124, R352). `bad` holds the rows of the line's poisoned words. -/
def Run.feedLoads (r : Run) (core key : Nat) (bs : List Byte) (bad : Map Nat) : Run :=
  let base := key * 128 % 2 ^ 48
  let mine := r.dev.ms.loads.filter (fun e => e.2.core == core && e.2.on key)
  mine.foldl (fun r e =>
    match lookM r.dev.ms.loads e.1 with
    | none => r
    | some ld =>
      let ld := ld.take key bs
      let r := (r.see ld.warp (lookD r.dev.ms.vis key 0)).seeL1 core ld.warp ld.node (ld.addrs.filter (fun pa => nkey ld.node pa / 128 == key))
      match (ld.addrs.filter (fun pa => nkey ld.node pa / 128 == key)).findSome? (fun pa => lookM bad (pa % 128 / 4)) with
      | some row =>
        let g := match r.warpAny ld.warp with
          | some w => r.gridOf w
          | none => 0
        r.machineCheck g core 0x10 0 row base
      | none =>
      if ld.full then (r.putLoad ld).modMs (fun m => { m with loads := delM m.loads e.1 })
      else r.modMs (fun m => { m with loads := putM m.loads e.1 ld })) r

/-- A merging fill of a line returns to a core (R124): update-only copies are recalled, a lease is granted unless only .inv
loads have asked (R127), the line becomes whole and readable, and the loads that wait for it take their bytes. A fill with
.rd3 allocates nothing, but a line that is present takes its bytes too (R151); a private line keeps its own. -/
def execMergingFill (core line : Nat) (s : State) : Host.Outcome State Fault Refusal :=
  act (fun r =>
    let lds := r.dev.ms.loads.filter (fun e => e.2.core == core && e.2.on line)
    let pfs := r.dev.ms.fills.filter (fun f => f.1 == core && f.2.1 == line)
    let atom := r.dev.ms.atomics.any (fun e => e.2.core == core && e.2.lanes.any (fun x => nkey e.2.node x.2.1 / 128 == line))
    if (lds.isEmpty && pfs.isEmpty) || atom then r
    else
      let node := keyNode (line * 128)
      let r := r.recallLine line
      let (lease, r) := if lds.any (fun e => !e.2.inv) || !pfs.isEmpty then
          let (ex, r) := r.grant ((r.partOfCore core).getD 0) line
          (Lease.until ex, r)
        else (Lease.none, r)
      let alloc := lds.filter (fun e => e.2.hint != 3)
      let hint := match alloc with
        | e :: _ => e.2.hint
        | [] => match pfs with
          | f :: _ => f.2.2
          | [] => 3
      let bs := r.fillBytes core node (line * 128 % 2 ^ 48)
      let bad := r.fillBad core node (line * 128 % 2 ^ 48)
      let fills : Bool := match r.lineAt core line with
        | some l => l.lease != .priv
        | none => hint != 3
      let r := if fills then r.fillLine core line lease hint else r
      let r := match lds.find? (fun e => e.2.inv && e.2.hint != 3) with
        | some e => match r.warpAny e.2.warp with
          | some w => r.unbound core node (r.gridOf w) [line * 128 % 2 ^ 48]
          | none => r
        | none => r
      let r := r.modMs (fun m => { m with fills := m.fills.filter (fun f => !(f.1 == core && f.2.1 == line)) })
      r.feedLoads core line bs bad) s

/-- No earlier store or atomic of the same core on the same line is still on its way. -/
def Run.inOrder (r : Run) (id core key : Nat) : Bool :=
  !(r.dev.ms.stores.any (fun e => decide (e.1 < id) && e.2.core == core && e.2.gwct == none && nkey e.2.node e.2.pa / 128 == key)) &&
  !(r.dev.ms.atomics.any (fun e => decide (e.1 < id) && e.2.core == core &&
    e.2.lanes.any (fun x => nkey e.2.node x.2.1 / 128 == key)))

/-- Another store not yet applied of the request that `st` belongs to: the same instruction and line (R128). -/
def Store.joins (st x : Store) : Bool :=
  x.req == st.req && x.gwct == none && x.node == st.node && x.pa / 128 == st.pa / 128

/-- The bytes of a store by physical address. -/
def Store.cells (st : Store) : List (Nat × Byte) := List.zip (run st.pa st.bytes.length) st.bytes

/-- Data that an error on the crossbar has struck in transfer arrives poisoned (Table 24.1). -/
def Run.crossPoison (r : Run) (id : Nat) (node : Option Nat) (pas : List Nat) : Run :=
  if r.dev.ms.xbad.contains id then r.addPoison node 2 pas else r

/-- The home applies a store with those of its request (R125, R128): it returns the GWCT; a remote write has none (R146). A
poison unit that the request overwrites is cleared (R352). -/
def execStoreApply (id : Nat) (s : State) : Host.Outcome State Fault Refusal :=
  act (fun r =>
    match lookM r.dev.ms.stores id with
    | none => r
    | some st =>
      if st.gwct.isSome || !r.inOrder id st.core (nkey st.node st.pa / 128) then r
      else
        let cells := (r.dev.ms.stores.filter (fun e => st.joins e.2)).flatMap (fun e => e.2.cells)
        let gw := if st.remote then 0 else r.gwctOf st.pa
        let mine := r.dev.ms.stores.filter (fun e => st.joins e.2)
        let r := r.modMs (fun m => { m with stores := mapM' m.stores (fun _ x => if st.joins x then { x with gwct := some gw } else x) })
        let r := mine.foldl (fun r e => r.seenApplied e.2 gw) r
        let r := ((r.by' st.grid).homeWriteL st.node cells).unpoisonL st.node (cells.map (·.1))
        mine.foldl (fun r e => r.crossPoison e.1 st.node (e.2.cells.map (·.1))) r) s

/-- A home's acknowledgement reaches the core: WCH takes the GWCT (R125, R146). -/
def execStoreAcknowledgement (id : Nat) (s : State) : Host.Outcome State Fault Refusal :=
  act (fun r =>
    match lookM r.dev.ms.stores id with
    | some st =>
      match st.gwct with
      | some gw => if st.remote then r else (r.wch st.warp st.grid gw).modMs (fun m => { m with stores := delM m.stores id })
      | none => r
    | none => r) s

/-- A remote destination's acknowledgement returns: OAC falls by one (R146). -/
def execRemoteAcknowledgement (id : Nat) (s : State) : Host.Outcome State Fault Refusal :=
  act (fun r =>
    match lookM r.dev.ms.stores id with
    | some st =>
      if st.remote && st.gwct.isSome then
        (r.modWarpAny st.warp (fun w => { w with oac := w.oac - 1 })).modMs (fun m => { m with stores := delM m.stores id })
      else r
    | none => r) s

/-- A lane's split is placed behind every other one of its warp (R29). -/
def Warp.behind (wp : Warp) (l : Nat) : Warp :=
  { wp.onLanes [l] (fun _ x => { x with turn := wp.turns + 1 }) with turns := wp.turns + 1 }

/-- The lanes of an atomic at the home, one after another (R136); a CAS that fails puts its split behind the others (R29). -/
def Run.atomLanes (r : Run) (a : Atomic) : List (Nat × Nat × Nat × Nat) → Run
  | [] => r
  | (l, pa, b, c) :: xs =>
    let o := ofBytes (r.hreadN a.node pa a.size)
    let n := atomStep a.cas a.op a.ty b c o
    let r := r.hputs a.node pa (bytesOf a.size n)
    let r := if a.red && a.op == 6 then r.unpoison a.node pa a.size else r
    let r := if a.red then r
      else r.modWarpAny a.warp (fun w => w.onLanes [l] (fun _ x => x.putVs a.dst (wordsOf (max 1 (a.size / 4)) o)))
    (if a.cas && o != b then r.modWarpAny a.warp (fun w => w.behind l) else r).atomLanes a xs

/-- An atomic executes at its home and its result returns (R136). One that reads poison is a machine check (R352). -/
def execAtomicAtHome (id : Nat) (s : State) : Host.Outcome State Fault Refusal :=
  act (fun r =>
    match lookM r.dev.ms.atomics id with
    | none => r
    | some a =>
      let pa := match a.lanes with
        | (_, pa, _, _) :: _ => pa
        | [] => 0
      let key := nkey a.node pa / 128
      if !r.inOrder id a.core key then r
      else match (if a.red then none else (r.poisonRow a.node (a.lanes.flatMap (fun x => run x.2.1 a.size))).orElse (fun _ =>
          if r.dev.ms.xbad.contains id then some 2 else none)) with
      | some row =>
        (r.modMs (fun m => { m with atomics := delM m.atomics id })).machineCheck a.grid a.core 0x10 0 row (pa / 128 * 128)
      | none =>
        let r := ((r.recallLine key).by' a.grid).atomLanes a a.lanes
        let r := r.crossPoison id a.node (a.lanes.flatMap (fun x => run x.2.1 a.size))
        let r := r.modMs (fun m => { m with atomics := delM m.atomics id })
        if a.remote then r.modWarpAny a.warp (fun w => { w with oac := w.oac - 1 })
        else r.wch a.warp a.grid (r.gwctOf pa)) s

/-- The home recalls, or the L1 evicts, the update-only copy that a core has of a line (R137). -/
def execUpdateOnlyRecall (core line : Nat) (s : State) : Host.Outcome State Fault Refusal :=
  act (fun r => r.flushCore core (fun k => k / 128 == line)) s

/-- The host reads or writes device memory at its L2 home (R155); it reaches GDDR 7 only (Table 21.1). -/
def execHostMemoryAccess (pa size : Nat) (write : Option (List Nat)) (s : State) : Host.Outcome State Fault Refusal :=
  act (fun r =>
    match write with
    | some bs => if bs.isEmpty || !isGddr (pa + bs.length - 1) then r else r.homeWrite none pa (toBytes bs)
    | none =>
      if size = 0 || !isGddr (pa + size - 1) then r
      else
        let (bs, r) := r.homeRead none pa size
        r.emit (.hostData pa bs)) s

/-- A write of a peer card arrives at its home here; its acknowledgement leaves once it is visible at device scope (R146). -/
def execRemoteWriteReceive (pa : Nat) (bytes : List Nat) (s : State) : Host.Outcome State Fault Refusal :=
  act (fun r =>
    if bytes.isEmpty || !isGddr (pa + bytes.length - 1) then r
    else
      let gw := max (r.gwctOf pa) (r.gwctOf (pa + bytes.length - 1))
      let (id, r) := (r.homeWrite none pa (toBytes bytes)).freshId
      r.modMs (fun m => { m with peerAcks := putM m.peerAcks id (pa, gw) })) s

/-- The acknowledgement of a peer card's write leaves once DTIME has passed its GWCT (R146). -/
def Run.peerAck (r : Run) (id : Nat) : Run :=
  match lookM r.dev.ms.peerAcks id with
  | some (pa, gw) =>
    if gw < r.clk.dtime then (r.modMs (fun m => { m with peerAcks := delM m.peerAcks id })).emit (.peerAck pa) else r
  | none => r

/-- DTIME passes a warp's WCH: what waited for that tries again (R139, R146). -/
def execDtimePassesWch (w : Nat) (s : State) : Host.Outcome State Fault Refusal :=
  act (fun r =>
    match r.warp w with
    | some wp =>
      if wp.wch < r.clk.dtime then
        r.modWarp w (fun x => x.mapLanes (fun _ l => if l.wait = .ready .fence then { l with wait := .none, ready := max l.ready r.clk.cycles } else l))
      else r
    | none => r) s

end Sys2Proof.Machine
end

