-- ==== Sys2Proof/Machine/Control.lean ====
section
/-! DEFINITION. Control flow, rejoining, barriers, TSLEEP and the ends of threads (chapter 09, R29 to R34, R41). -/

namespace Sys2Proof.Machine

/-! ### Lane branches (R159, R160) -/

/-- Lanes whose guard is true go to their targets, the others to the next slot; the fault at its target of the lowest
faulting lane comes first. -/
def Run.branch (r : Run) (e : Env) (g : Nat) (target : Nat → Nat) : Ret :=
  let on := e.on g
  match on.findSome? (fun l => r.targetFault e l (target l)) with
  | some z => z
  | none => .moved (r.onLanes e.w e.lanes (fun k l =>
      { l with pc := if on.contains k then BitVec.ofNat 64 (target k) else nextPc e.pc e.words, wait := .none }))

/-- cat(pc[63:32], x). -/
def inWindow (pc : DWord) (x : Word) : Nat := pc.toNat / 2 ^ 32 * 2 ^ 32 + x.toNat

/-- Low 32 bits of the next slot. -/
def Env.retAddr (e : Env) : Word := word (nextPc e.pc e.words).toNat

def execBra (g : Nat) (off : Int) (s : State) : Host.Outcome State Fault Refusal :=
  issue (.bra g off) (fun r e => r.branch e g (fun _ => relTarget e.pc off)) s

def execBrx (g a : Nat) (lit : Option Nat) (s : State) : Host.Outcome State Fault Refusal :=
  issue (.brx g a lit) (fun r e => r.branch e g (fun l => inWindow e.pc (e.v l a + word (lit.getD 0)))) s

/-- CALL writes its return address and branches. -/
def execCall (g d : Nat) (off : Int) (s : State) : Host.Outcome State Fault Refusal :=
  issue (.call g d off) (fun r e =>
    match r.branch e g (fun _ => relTarget e.pc off) with
    | .moved r => .moved (r.onLanes e.w (e.on g) (fun _ l => l.setV d e.retAddr))
    | z => z) s

/-! ### Uniform branches (R161) -/

/-- Moves the issuer to a program counter. -/
def Run.goTo (r : Run) (e : Env) (pc : DWord) : Run :=
  match e.agent with
  | .cc k => r.modCc k (fun c => { c with pc := pc, waiting := 0 })
  | _ => r.onLanes e.w e.lanes (fun _ l => { l with pc := pc, wait := .none })

def Run.jump (r : Run) (e : Env) (t : Nat) : Ret :=
  (r.targetFault e e.lead t).getD (.moved (r.goTo e (BitVec.ofNat 64 t)))

def execUbra (g : Nat) (off : Int) (s : State) : Host.Outcome State Fault Refusal :=
  uniOp (.ubra g off) g (fun r e => r.jump e (relTarget e.pc off)) s

def execUcall (g d : Nat) (off : Int) (s : State) : Host.Outcome State Fault Refusal :=
  uniOp (.ucall g d off) g (fun r e =>
    match r.jump e (relTarget e.pc off) with
    | .moved r => .moved (r.putS e d e.retAddr)
    | z => z) s

def execUret (g a : Nat) (s : State) : Host.Outcome State Fault Refusal :=
  uniOp (.uret g a) g (fun r e => r.jump e (inWindow e.pc (e.us a))) s

/-- UJMPX: entry min(s[B], LIMIT) of the table of slots at s[A]; a base that R66 rejects is cause 0x03. -/
def execUjmpx (g a b n : Nat) (s : State) : Host.Outcome State Fault Refusal :=
  uniOp (.ujmpx g a b n) g (fun r e =>
    let base := inWindow e.pc (e.us a)
    (r.slotFault e e.lead base (pcValid base && r.slotOk e base)).getD
      (r.jump e (pcOfSlot (slotOf base + min (e.us b).toNat n)))) s

/-! ### Rejoin (R162, R163) -/

/-- The mask of an RJN as lane `l` reads it. -/
def Env.rjnMask (e : Env) (l : Nat) : RjnMask → Word
  | .reg n => e.su l n
  | .lit m => word m

def execRjn (g pd : Nat) (m : RjnMask) (s : State) : Host.Outcome State Fault Refusal :=
  issue (.rjn g pd m) (fun r e =>
    let on := e.on g
    let w := fun (k : Nat) => Wait.rjn (e.rjnMask k m) pd r.clk.cycles e.words
    let r := r.onLanes e.w e.lanes (fun k l =>
      if on.contains k then { l with wait := w k } else { l with pc := nextPc e.pc e.words, wait := .none })
    .moved (r.rjnCheck e.w)) s

/-- Every live thread of the warp waits at an RJN and none can be released (R163). -/
def Warp.rjnDead (wp : Warp) : Bool :=
  !wp.liveLanes.isEmpty && wp.liveLanes.all (fun l => (nthD wp.lanes l Lane.absent).wait.isRjn && !wp.rjnFree l)

/-- A rejoin deadlock is broken: every waiting thread is released with false, RJD is set, and with RJTE cause 0x11 is
delivered. -/
def Run.rjnBreak (r : Run) (w : Nat) (wp : Warp) : Run :=
  let ls := wp.liveLanes
  let r := r.modWarp w (fun x => ({ x with wst := wstRjd x.wst }).onLanes ls (fun _ l => l.rjnEnd r.clk.cycles false))
  if wp.rjte then
    match r.warp w with
    | some x =>
      let lead := ls.headD 0
      let pc := (nthD x.lanes lead Lane.absent).pc
      r.deliver w (ls.filter (fun l => (nthD x.lanes l Lane.absent).pc == pc)) 0x11 0 lead pc
    | none => r
  else r

def execRejoinDeadlock (w : Nat) (s : State) : Host.Outcome State Fault Refusal :=
  act (fun r =>
    match r.warp w with
    | some wp => if wp.rjnDead then r.rjnBreak w wp else r
    | none => r) s

/-! ### EXIT, TRAP, BKPT (R164) -/

/-- EXIT (R41): the thread waits as a release at the scope; at fabric or system scope a contained node is demoted (R358). -/
def execExit (g scope : Nat) (s : State) : Host.Outcome State Fault Refusal :=
  issue (.exit g scope) (fun r e =>
    let on := e.on g
    let r := if !on.isEmpty && decide (3 ≤ scope) then (r.demoteNow e.grid).getD r else r
    .moved (r.onLanes e.w e.lanes (fun k l =>
      if on.contains k then { l with wait := .exit scope } else { l with pc := nextPc e.pc e.words, wait := .none }))) s

def execTrap (g n : Nat) (s : State) : Host.Outcome State Fault Refusal :=
  issue (.trap g n) (fun r e => if (e.on g).isEmpty then .done r else .after r 9 n (e.lead' g)) s

def execBkpt (g : Nat) (s : State) : Host.Outcome State Fault Refusal :=
  issue (.bkpt g) (fun r e => if (e.on g).isEmpty then .done r else .trap 0x0A 0 (e.lead' g)) s

/-- The exit wait of a thread ends (R41): it is exited, and its team's completion count rises. While the wait goes on,
the flush that it made stays. -/
def execCompletionCountIncrement (w l : Nat) (s : State) : Host.Outcome State Fault Refusal :=
  act (fun r =>
    match r.warp w with
    | none => r
    | some wp =>
      let x := nthD wp.lanes l Lane.absent
      match x.wait with
      | .exit scope =>
        if x.isLive then
          (match r.release w wp [l] scope with
            | (true, r) => r.threadDone w l .exited
            | (false, r) => r)
        else r
      | _ => r) s

/-! ### Barriers (R165 to R167) -/

/-- Whether every live thread of the split is a member of the barrier. -/
def Run.barMember (r : Run) (e : Env) (o : BarOp) : Bool :=
  if o.level = 0 then
    let m := nthD e.wp.wbarMem o.id 0
    m != 0 && e.lanes.all (inMask m)
  else if o.level = 1 then
    match r.team e.wp.team with
    | some t => (nthD t.tbarMem o.id []).contains e.wp.wid
    | none => false
  else true

/-- Threads of the split that have not arrived in the phase. -/
def Run.barNew (r : Run) (e : Env) (o : BarOp) : List Nat :=
  if o.level = 0 then e.lanes.filter (fun l => !inMask (lookD e.wp.wbar o.id 0) l)
  else if o.level = 1 then
    match r.team e.wp.team with
    | some t => e.lanes.filter (fun l => !(nthD t.tbar o.id []).contains (32 * e.wp.wid + l))
    | none => []
  else
    match r.grid e.grid, r.team e.wp.team with
    | some x, some t => e.lanes.filter (fun l => !(nthD x.gbar o.id []).contains (t.idx * 65536 + 32 * e.wp.wid + l))
    | _, _ => []

/-- Arrivals of threads in the phase. -/
def Run.barArrive (r : Run) (e : Env) (o : BarOp) (ls : List Nat) : Run :=
  if o.level = 0 then r.modWarp e.w (fun x => { x with wbar := putD x.wbar o.id (lookD x.wbar o.id 0 ||| maskOf ls) 0 })
  else if o.level = 1 then
    r.modTeam e.wp.team (fun t => { t with tbar := modNth t.tbar o.id (fun a => a ++ ls.map (fun l => 32 * e.wp.wid + l)) })
  else
    match r.team e.wp.team with
    | some t => r.modGrid e.grid (fun x => { x with
        gbar := modNth x.gbar o.id (fun a => a ++ ls.map (fun l => t.idx * 65536 + 32 * e.wp.wid + l)) })
    | none => r

/-- BAR (R167): its checks in their order, the first of which every instruction shares (R79); the releasing arrivals, and for .sync
the wait for the phase. -/
def Run.bar (r : Run) (e : Env) (o : BarOp) (sync : Bool) : Ret :=
  let x := r.grid e.grid
  let coop := (x.map (fun y => y.pkt.coop)).getD false
  if o.level = 2 ∧ !coop then .trap 0x14 o.id e.lead
  else if (o.level ≠ 1 ∧ 4 ≤ o.id) ∨ r.barMember e o = false then .trap 1 0 e.lead
  else
    let new := r.barNew e o
    let go := fun (r : Run) =>
      let r := r.barArrive e o new
      let r := r.onLanes e.w e.lanes (fun _ l =>
        if sync then { l with wait := .bar o.level o.id } else { l with pc := nextPc e.pc e.words, wait := .none })
      Ret.moved (r.barCheck e.w)
    if new.isEmpty then go r else r.released e new o.level false go

def execBarSync (o : BarOp) (s : State) : Host.Outcome State Fault Refusal :=
  uniOp (.barSync o) o.g (fun r e => r.bar e o true) s

def execBarArrive (o : BarOp) (s : State) : Host.Outcome State Fault Refusal :=
  uniOp (.barArrive o) o.g (fun r e => r.bar e o false) s

/-! ### TSLEEP (R168) -/

/-- TSLEEP of a control core: its wait keeps the time named first. -/
def Run.tsleepCc (r : Run) (e : Env) (k d t : Nat) : Ret :=
  let c := r.cc k
  if c.waiting = 2 then (if c.wtime ≤ r.ptime then .done (r.putS e d 0) else .moved r)
  else if t ≤ r.ptime then .done (r.putS e d 1)
  else .moved (r.modCc k (fun c => { c with waiting := 2, wtime := t, wsd := d }))

def execTsleep (g d a : Nat) (s : State) : Host.Outcome State Fault Refusal :=
  uniOp (.tsleep g d a) g (fun r e =>
    let t := e.us2 a
    match e.agent with
    | .cc k => r.tsleepCc e k d t
    | _ =>
      if t ≤ r.ptime then .done (r.putS e d 1)
      else .moved ((r.onLanes e.w e.lanes (fun _ l => { l with wait := .tsleep d t })).modWarp e.w (fun w => w.await d 1))) s

/-- Whether a wait is a TSLEEP whose time has come. -/
def Wait.slept (now : Nat) : Wait → Bool
  | .tsleep _ t => decide (t ≤ now)
  | _ => false

/-- Where a TSLEEP answers. -/
def Wait.sleepSd : Wait → Option Nat
  | .tsleep d _ => some d
  | _ => Option.none

/-- PTIME has reached the times of TSLEEPs of a warp: their splits go on, with 0 in sd. -/
def Warp.wake (wp : Warp) (cycle now : Nat) : Warp :=
  let hit := wp.lanes.filter (fun l => l.isLive && l.waits (Wait.slept now))
  let ds := hit.flatMap (fun l => ([l.wait, l.rwait].filter (Wait.slept now)).filterMap Wait.sleepSd)
  ds.foldl (fun w d => w.putSs d [0]) (wp.mapLanes (fun _ l => if l.isLive then l.release cycle (Wait.slept now) else l))

def execTsleepRelease (w : Nat) (s : State) : Host.Outcome State Fault Refusal :=
  act (fun r => r.modWarp w (fun x => x.wake r.clk.cycles r.ptime)) s

/-! ### Residency (R33, R34) -/

/-- The waits of R33. -/
def Wait.mayMove : Wait → Bool
  | .bar _ _ => true
  | .tbar _ _ _ => true
  | .tsleep _ _ => true
  | .rjn _ _ _ _ => true
  | .fault _ => true
  | .ready .quire => true
  | .ready .bank => true
  | .ready (.matrix _) => true
  | .ready .collective => true
  | .ready .present => true
  | _ => false

/-- A warp's registers move to the backing tier (R33), which a core whose vault is offline has lost (R362). -/
def execRegisterSpill (w : Nat) (s : State) : Host.Outcome State Fault Refusal :=
  act (fun r => r.modWarp w (fun x =>
    if !(r.core x.core).offline && x.lanes.all (fun l => !l.isLive || l.wait.mayMove) then { x with spilled := true } else x)) s

/-- They come back, unchanged (R34), once the declared registers of the partition leave room for them (R14, R32). -/
def execRegisterRecall (w : Nat) (s : State) : Host.Outcome State Fault Refusal :=
  act (fun r =>
    match r.warp w with
    | some wp => if wp.spilled && r.fitsOnDie wp then r.modWarp w (fun x => { x with spilled := false }) else r
    | none => r) s

end Sys2Proof.Machine
end

