-- ==== Sys2Proof/Machine/Media.lean ====
section
/-! DEFINITION. Presentation time, media flows, stream registers (chapters 17, 18). -/

namespace Sys2Proof.Machine

/-! ### Flow descriptors (R268, R269) -/

/-- The frame whose slot time lies nearest, the earlier one at the middle. -/
def FlowDesc.nearest (d : FlowDesc) (t : Nat) : Nat :=
  let k := d.kOf t
  if d.slot (k + 1) - t < t - d.slot k then k + 1 else k

/-- dl(k, y). -/
def FlowDesc.deadline (d : FlowDesc) (k y : Nat) : Int := (d.slot k : Int) + d.offs + ((y + 1) * d.linedur : Nat)

/-- The PTIME at which frame k is committed (R279). -/
def FlowDesc.commitAt (d : FlowDesc) (k : Nat) : Int := (d.slot k : Int) + d.offs - 4000

/-- Bits per component. -/
def FlowDesc.bits (d : FlowDesc) : Nat := 8 + 2 * d.depth

/-- The fields of Table 17.3. -/
def FlowDesc.parse (v : Nat) : FlowDesc :=
  { en := bitOf v 0, send := bitOf v 1, pair := bitOf v 2, port := fld v 3 2, samp := fld v 5 3, depth := fld v 8 2,
    pm := bitOf v 10, snd := bitOf v 11, part := fld v 12 3, width := fld v 16 16, height := fld v 48 16,
    fden := fld v 64 16, fnum := fld v 80 16, offs := sx (fld v 96 32) 32, linedur := fld v 128 32,
    fill := [fld v 160 16, fld v 176 16, fld v 192 16], pt := fld v 208 7, udp := fld v 224 16, dstip := fld v 256 32,
    srcip := fld v 288 32, ssrc := fld v 320 32, buf := fld v 352 64 }

/-- The reserved bits and limits of R268; a frame duration of zero has no frames. -/
def FlowDesc.valid (d : FlowDesc) (v flow : Nat) : Bool :=
  fld v 416 96 == 0 && fld v 240 16 == 0 && fld v 215 9 == 0 && fld v 32 16 == 0 && !bitOf v 15 &&
  d.send == decide (256 ≤ flow) && decide (d.width < 8192) && decide (d.height < 4352) && decide (d.samp < 3) &&
  decide (d.depth < 3) && (d.samp == 0 || d.depth != 0) && d.fnum != 0 && d.fden != 0 && d.buf % 65536 == 0

/-- A flow as a write of its descriptor leaves it: objects empty, object 0 the write object of a send flow (R277). -/
def Flow.start (d : FlowDesc) (counters : List Nat) (seq : Nat) (committed : Option Nat) : Flow :=
  { desc := d, counters := counters, objs := [], write := if d.send then some 0 else none, lastSent := none, lastData := [], lastBad := []
    published := [], seqs := [], sending := [], txSeq := seq, committed := committed, leftOut := [] }

/-- The descriptor at reset (Table 17.3): 10-bit 4:2:2 black, payload type 96, 50 frames per second. -/
def FlowDesc.reset : FlowDesc :=
  { en := false, send := false, pair := false, port := 0, samp := 0, depth := 1, pm := false, snd := false, part := 0, width := 0
    height := 0, fden := 50, fnum := 1, offs := 0, linedur := 0, fill := [64, 512, 512], pt := 96, udp := 0, dstip := 0
    srcip := 0, ssrc := 0, buf := 0 }

def Flow.reset : Flow := Flow.start FlowDesc.reset [0, 0, 0, 0, 0, 0] 0 none

/-- Flows 0 to 511 (R268). -/
def Run.flow (r : Run) (f : Nat) : Option Flow := if f < 512 then some (lookD r.dev.flows f Flow.reset) else none

def Run.modFlow (r : Run) (f : Nat) (g : Flow → Flow) : Run := r.modFlows (fun m => putM m f (g (lookD m f Flow.reset)))

/-- The last frame whose commit time is already past at a PTIME. -/
def FlowDesc.past (d : FlowDesc) (now : Nat) : Option Nat :=
  let t := (now : Int) - d.offs + 4000
  if t ≤ 0 then none else some (d.kOf (t.toNat - 1))

/-- System software writes a flow descriptor (R268): one that breaks a limit is refused, and its flow is disabled.
[DEDUCED] (entry 103) -/
def execFlowDescriptorWrite (flow : Nat) (words : List Nat) (s : State) : Host.Outcome State Fault Refusal :=
  act (fun r =>
    let v := ofWords (words.map word) % 2 ^ 512
    let d := FlowDesc.parse v
    match r.flow flow with
    | none => r
    | some old =>
      if d.valid v flow then
        r.modFlow flow (fun _ => Flow.start d old.counters old.txSeq (if d.send then d.past r.ptime else none))
      else r.modFlow flow (fun x => { x with desc := { x.desc with en := false } })) s

/-! ### Reading the clocks (R266, R267) -/

/-- Table 17.2. -/
def Ptp.status (p : Ptp) : Nat :=
  let st := match p.st with
    | .unlocked => 0
    | .acquiring => 1
    | .locked => 2
    | .holdover => 3
  st * 2 ^ 30 + p.steps % 64 * 2 ^ 24 + p.port % 4 * 2 ^ 16 + ux p.ofs 16

def execTnow (g d sel : Nat) (s : State) : Host.Outcome State Fault Refusal :=
  issue (.tnow g d sel) (fun r e =>
    let t := if sel = 0 then r.clk.dtime else r.ptime
    .done (r.applyLanes e g (fun _ => { v := [(d, lo32 t), (d + 1, hi32 t)], p := [], fl := 0 }))) s

def execUtime (g d sel : Nat) (s : State) : Host.Outcome State Fault Refusal :=
  uniOp (.utime g d sel) g (fun r e =>
    .done (if sel = 2 then r.putS e d (word r.dev.ptp.status)
      else r.putS2 e d (if sel = 0 then r.clk.dtime else r.ptime))) s

/-! ### The servo (R263 to R265) -/

/-- The bases and the rate that the servo sets: its own until the first lock, then those in force (R263). -/
def Ptp.bases (p : Ptp) : Nat × Nat × Int := if p.first then (p.pbase, p.dbase, p.rate) else (p.sbase, p.sdbase, p.srate)

def Ptp.setBases (p : Ptp) (base dbase : Nat) (rate : Int) : Ptp :=
  if p.first then { p with pbase := base, dbase := dbase, rate := rate } else { p with sbase := base, sdbase := dbase, srate := rate }

/-- The servo's presentation time: PTIME from the first lock on. -/
def Ptp.servo (p : Ptp) (dtime : Nat) : Nat :=
  let (base, dbase, rate) := p.bases
  ptpTime base dbase rate dtime

/-- RATE as the servo may set it: within ±500 × 10^-6, and by at most 0.5 × 10^-6 per second since the last base. -/
def Ptp.limit (p : Ptp) (dtime : Nat) (rate : Int) : Int :=
  let (_, dbase, old) := p.bases
  let most : Int := (500 * (dtime - dbase) / 1000000000 : Nat)
  max (-500000) (min 500000 (max (old - most) (min (old + most) rate)))

/-- At the first lock the servo's bases come into force: where they tell another time PTIME steps to it, and the step is counted
(R263). [DESIGN CHOICE, unsafe] (entry 43) -/
def Ptp.firstLock (p : Ptp) (dtime : Nat) : Ptp :=
  { p with first := true, pbase := p.sbase, dbase := p.sdbase, rate := p.srate
           steps := if p.servo dtime = dtime then p.steps else (p.steps + 1) % 64 }

/-- The lock state after a measured offset (R264). -/
def Ptp.judge (p : Ptp) (dtime : Nat) (offset : Int) : Ptp :=
  let near := decide (-40 ≤ offset) && decide (offset ≤ 40)
  let run := if near then p.run + 1 else 0
  match p.st with
  | .unlocked => p
  | .holdover => { p with st := .acquiring, run := if near then 1 else 0 }
  | .locked => if near then { p with run := run } else { p with st := .acquiring, run := 0 }
  | .acquiring =>
    if Config.lockRun ≤ run then
      { (if p.first then p else p.firstLock dtime) with st := .locked, run := run }
    else { p with run := run }

/-- An accepted Sync: a measured offset above 1 ms steps PTIME, a smaller one changes RATE; before the first lock it is the
servo's time alone that does so. -/
def Ptp.sync (p : Ptp) (dtime : Nat) (offset rate : Int) : Ptp :=
  let now := p.servo dtime
  let (_, _, old) := p.bases
  let q := if 1000000 < offset.natAbs then
      { p.setBases ((now : Int) - offset).toNat dtime old with steps := if p.first then (p.steps + 1) % 64 else p.steps }
    else if p.st = .holdover then p
    else p.setBases now dtime (p.limit dtime rate)
  { q.judge dtime offset with ofs := max (-32767) (min 32767 offset), lastSync := dtime }

/-- MEDIA is raised on CC2 by a PTP event (R308). -/
def Run.ptpEvent (r : Run) (f : Ptp → Ptp) : Run := (r.modPtp f).intp 2 2

/-- A Sync of the active port and domain. -/
def execPtpSync (src : PtpSource) (m : PtpOffset) (s : State) : Host.Outcome State Fault Refusal :=
  act (fun r =>
    let p := r.dev.ptp
    if p.st = .unlocked ∨ src.port ≠ p.port ∨ src.domain ≠ p.domain then r
    else r.ptpEvent (fun p => p.sync r.clk.dtime m.offset m.rate)) s

/-- An Announce of the active port and domain whose master is accepted; the interval is at least 2^-3 s (Table 17.1). -/
def execPtpAnnounce (src : PtpSource) (m : PtpMaster) (s : State) : Host.Outcome State Fault Refusal :=
  act (fun r =>
    let p := r.dev.ptp
    if !m.accept || src.port != p.port || src.domain != p.domain || decide (m.log < -3) then r
    else r.ptpEvent (fun p => { p with
      master := true
      lastAnn := r.clk.dtime
      annLog := m.log
      st := if p.st = .unlocked then .acquiring else p.st })) s

/-- Three announce intervals in ns (R264). -/
def Ptp.patience (p : Ptp) : Nat := 3000000000 * 2 ^ p.annLog.toNat / 2 ^ (-p.annLog).toNat

/-- Announces are lost when none has been accepted for three intervals. [DEDUCED] (entry 104) -/
def Ptp.lostAnn (p : Ptp) (dtime : Nat) : Bool := p.st != .unlocked && decide (p.lastAnn + p.patience ≤ dtime)

/-- No Sync has been accepted for three announce intervals after lock (R264). -/
def Ptp.lostSync (p : Ptp) (dtime : Nat) : Bool := p.st == .locked && decide (p.lastSync + p.patience ≤ dtime)

/-- Holdover, and on loss of announces failover to the other port of the pair (R264, R265). -/
def execHoldoverEntry (failover : Bool) (s : State) : Host.Outcome State Fault Refusal :=
  act (fun r =>
    let p := r.dev.ptp
    let now := r.clk.dtime
    let flip := failover && p.lostAnn now
    let hold := p.lostSync now
    if !hold && !flip then r
    else
      let r := if hold then r.modPtp (fun p => { p with st := .holdover, run := 0 }) else r
      r.ptpEvent (fun p => if flip then
          { p with port := if p.port % 2 = 0 then p.port + 1 else p.port - 1, master := false, lastAnn := now }
        else p)) s

/-- System software chooses the port and the domain (Table 17.1). -/
def Ptp.choose (p : Ptp) (domain port : Nat) : Ptp := if domain < 128 ∧ port < 4 then { p with domain := domain, port := port } else p

def execDelayReq (s : State) : Host.Outcome State Fault Refusal :=
  act (fun r => if r.dev.ptp.master && r.dev.ptp.st != .unlocked then r.emit .ptp else r) s

/-! ### Pgroups (ST 2110-20) -/

/-- Pixels and bytes of a pgroup. [PRESUMED: ST 2110-20] (entry 102) -/
def FlowDesc.pgroup (d : FlowDesc) : Nat × Nat :=
  if d.samp = 0 then (2, if d.depth = 0 then 4 else if d.depth = 1 then 5 else 6)
  else if d.depth = 1 then (4, 15) else (2, 9)

/-- The components of a pgroup in the order of their bits, as pixel and component: Cb Y0 Cr Y1 of 4:2:2 (R275), Cb Y Cr of each
pixel of 4:4:4, R G B of each pixel of RGB. [PRESUMED: ST 2110-20] (entry 102) -/
def FlowDesc.order (d : FlowDesc) : List (Nat × Nat) :=
  if d.samp = 0 then [(0, 1), (0, 0), (0, 2), (1, 0)]
  else (List.range d.pgroup.1).flatMap (fun p => if d.samp = 1 then [(p, 1), (p, 0), (p, 2)] else [(p, 0), (p, 1), (p, 2)])

/-- The codes of a pgroup, most significant bit first. -/
def FlowDesc.codes (d : FlowDesc) (bs : List Byte) : List Nat :=
  let n := d.order.length
  let x := ofBytes bs.reverse
  (List.range n).map (fun i => fld x (d.bits * (n - 1 - i)) d.bits)

/-- The bytes of a pgroup of these codes. -/
def FlowDesc.pack (d : FlowDesc) (cs : List Nat) : List Byte :=
  (bytesOf d.pgroup.2 (cs.foldl (fun a c => a * 2 ^ d.bits + c % 2 ^ d.bits) 0)).reverse

/-- Where component `c` of pixel `p` of a pgroup stands among its codes; 4:2:2 chroma is shared. -/
def FlowDesc.codeAt (d : FlowDesc) (p c : Nat) : Nat := d.order.findIdx (fun e => e == (if d.samp = 0 ∧ c ≠ 0 then 0 else p, c))

/-- Key of the first byte of the pgroup of a pixel. -/
def FlowDesc.pgKey (d : FlowDesc) (y x : Nat) : Nat := y * 65536 + x / d.pgroup.1 * d.pgroup.2

/-- The fill codes of a flow as SRD gives them (R274). -/
def FlowDesc.fillPixel (d : FlowDesc) : Nat × Nat × Nat :=
  let f := fun (i : Nat) => nthD d.fill i 0
  (f 0, f 1, f 2)

/-- A pgroup of fill codes, of which it holds the low bits. -/
def FlowDesc.fillGroup (d : FlowDesc) : List Byte :=
  let f := d.fillPixel
  d.pack (d.order.map (fun e => if e.2 = 0 then f.1 else if e.2 = 1 then f.2.1 else f.2.2))

/-- The bytes of the pgroup of a pixel that a frame holds. -/
def FlowDesc.groupIn (d : FlowDesc) (m : Map Byte) (y x : Nat) : Option (List Byte) :=
  let k := d.pgKey y x
  if (lookM m k).isSome then some ((List.range d.pgroup.2).map (fun i => lookD m (k + i) 0)) else none

/-- Puts the bytes of a pgroup. -/
def putGroup (m : Map Byte) (k : Nat) (bs : List Byte) : Map Byte :=
  (List.zip (List.range bs.length) bs).foldl (fun m e => putM m (k + e.1) e.2) m

/-- Bytes of a line: whole pgroups, the last one filled up (R281). -/
def FlowDesc.lineBytes (d : FlowDesc) : Nat := (d.width + d.pgroup.1) / d.pgroup.1 * d.pgroup.2

/-- The row of the error that poisons one of `n` bytes of an object's data (R352). -/
def badIn (bad : Map Nat) (k n : Nat) : Option Nat := (bad.find? (fun e => decide (e.1 * 8 < k + n) && decide (k < e.1 * 8 + 8))).map (·.2)

/-- An object after one write of data that overwrites the bytes `across`: poison goes from the 8-byte units of a line that are
overwritten whole (R352). -/
def FrameObj.overwrite (o : FrameObj) (d : FlowDesc) (data : Map Byte) (across : List Nat) : FrameObj :=
  let whole := fun (u : Nat) => (run (8 * u) 8).all (fun k => decide (d.lineBytes ≤ k % 65536) || across.contains k)
  { o with data := data, bad := o.bad.filter (fun e => !whole e.1) }

/-- Components of pixel `x` of a pgroup's bytes (R274). -/
def FlowDesc.pixelOf (d : FlowDesc) (bs : List Byte) (x : Nat) : Nat × Nat × Nat :=
  let cs := d.codes bs
  let c := fun (i : Nat) => nthD cs (d.codeAt (x % d.pgroup.1) i) 0
  (c 0, c 1, c 2)

/-! ### Receiving (R269 to R271) -/

/-- Whether a flow takes packets of a port. -/
def FlowDesc.onPort (d : FlowDesc) (port : Nat) : Bool := port == d.port || (d.pair && port / 2 == d.port / 2)

/-- An address and UDP port that a receive flow owns. -/
def FlowDesc.mine (d : FlowDesc) (port : Nat) (p : MediaPacket) : Bool :=
  d.en && !d.send && d.onPort port && p.dst == d.dstip && p.udp == d.udp

def FlowDesc.matchesPkt (d : FlowDesc) (p : MediaPacket) : Bool :=
  p.pt == d.pt && (d.srcip == 0 || p.src == d.srcip) && (d.ssrc == 0 || p.ssrc == d.ssrc)

/-- The object of frame `k` (R270). -/
def Flow.obj (f : Flow) (k : Nat) : FrameObj := lookD f.objs (k % 4) FrameObj.empty

/-- The whole pgroups of a segment enter the object (R270, R271). -/
def FrameObj.take (o : FrameObj) (d : FlowDesc) (g : Segment) : FrameObj :=
  let (px, n) := d.pgroup
  if g.first % px ≠ 0 then o
  else
    let is := (List.range (g.data.length / n)).filter (fun i => decide (g.first + px * i ≤ d.width))
    o.overwrite d
      (is.foldl (fun m i => putGroup m (d.pgKey g.line (g.first + px * i)) (toBytes ((g.data.drop (n * i)).take n))) o.data)
      (run (d.pgKey g.line g.first) (n * is.length))

/-- One segment is accepted or counted late (R270). -/
def Flow.segment (f : Flow) (k stamp : Nat) (g : Segment) : Flow :=
  if f.desc.height < g.line then f
  else if f.desc.deadline k g.line < (stamp : Int) then f.count 1
  else ({ f with objs := putD f.objs (k % 4) ((f.obj k).take f.desc g) FrameObj.empty }).count 0

/-- A packet of a receive flow. -/
def Flow.receive (f : Flow) (p : MediaPacket) : Flow :=
  let d := f.desc
  let k := d.nearest p.stamp
  let o := f.obj k
  if !d.matchesPkt p || p.rtp != d.rtp k || o.frame != some k then f.count 2
  else if d.pair && f.seqs.contains (k, p.seq) then f.count 3
  else
    let hit := p.segs.any (fun g => decide ((p.stamp : Int) ≤ d.deadline k g.line))
    let f := p.segs.foldl (fun f g => f.segment k p.stamp g) f
    if d.pair && hit then { f with seqs := f.seqs ++ [(k, p.seq)] } else f

/-- A packet arrives at a media port, within 1 µs of its hardware timestamp (R275). A frame with a bad check sequence is dropped and
counted, and a record reports it (Table 24.1, R351), in which no partition is named [DESIGN CHOICE] (entry 132). A packet goes to the
flow that it matches; one that only an address and UDP port claim is discarded there
(Table 17.4); any other is passed to the host. Passing on and dropping are events of the port, which raise MEDIA.
[DEDUCED] (entry 97) -/
def execMediaPacketReceive (port : Nat) (pkt : MediaPacket) (s : State) : Host.Outcome State Fault Refusal :=
  act (fun r =>
    if 4 ≤ port ∨ r.ptime < pkt.stamp ∨ pkt.stamp + 1000 ≤ r.ptime then r
    else if !pkt.good then ((r.modRel (fun x => { x with fcs := modNth x.fcs port (fun n => n + 1) })).report 0 7 0 0xFF noAddr).intp 2 2
    else
      let mine := r.dev.flows.filter (fun e => e.2.desc.mine port pkt)
      match (mine.find? (fun e => e.2.desc.matchesPkt pkt)).orElse (fun _ => mine.head?) with
      | some e => r.modFlow e.1 (fun f => f.receive pkt)
      | none => (r.emit (.toHost port)).intp 2 2) s

/-- A stream register is bound to frame `k` of a receive flow. -/
def Warp.bound (wp : Warp) (flow k : Nat) : Bool :=
  wp.m.any (fun b => match b with
    | some x => x.flow == flow && !x.send && x.frame == k
    | none => false)

/-- At F_(k-1) the object of frame k is cleared, or stays pinned by a register bound to frame k - 4 (R271). -/
def execFrameObjectClear (flow k : Nat) (s : State) : Host.Outcome State Fault Refusal :=
  act (fun r =>
    match r.flow flow with
    | none => r
    | some f =>
      let o := f.obj k
      let newer := (match o.frame with
        | some j => decide (k ≤ j)
        | none => false) || (match o.pinned with
        | some j => decide (k ≤ j)
        | none => false)
      if !f.desc.en || f.desc.send || newer || (k != 0 && decide (r.ptime < f.desc.slot (k - 1))) then r
      else
        let pin := decide (4 ≤ k) && (r.dev.warps.any (fun w => w.2.bound flow (k - 4)) ||
          r.dev.sched.images.any (fun m => m.2.any (fun w => w.2.bound flow (k - 4))))
        r.modFlow flow (fun f => { f with
          objs := putD f.objs (k % 4)
            (if pin then { o with pinned := some k } else { FrameObj.empty with frame := some k }) FrameObj.empty
          seqs := f.seqs.filter (fun x => decide (k < x.1 + 4)) })) s

/-! ### Binding (R272, R273) -/

/-- The flow of an MBIND, when it may be bound. -/
def Run.bindable (r : Run) (e : Env) (f : Nat) (out : Bool) : Option Flow :=
  match r.flow f with
  | some x => if x.desc.en && some x.desc.part == r.partOfCore e.wp.core && x.desc.send == out then some x else none
  | none => none

def Run.bindM (r : Run) (e : Env) (m : Nat) (b : Stream) : Run := r.modWarp e.w (fun w => { w with m := setNth w.m m (some b) })

def execMbindRx (g d a m : Nat) (s : State) : Host.Outcome State Fault Refusal :=
  uniOp (.mbindRx g d a m) g (fun r e =>
    let f := (e.us a).toNat
    let y := (e.us (a + 1)).toNat
    let t := e.us2 (a + 2)
    match r.bindable e f false with
    | none => .done (r.putS e d 1)
    | some x =>
      let k := x.desc.kOf t
      if x.desc.height < y then .done (r.putS e d 2)
      else if x.desc.slot (k + 3) ≤ r.ptime then .done (r.putS e d 3)
      else
        let b : Stream := { flow := f, send := false, line := y, frame := k, ts := x.desc.rtp k, tsv := false, src := none }
        .done ((r.bindM e m b).putS e d 0)) s

def execMbindOut (g d a m : Nat) (inh : Option Nat) (s : State) : Host.Outcome State Fault Refusal :=
  uniOp (.mbindOut g d a m inh) g (fun r e =>
    let f := (e.us a).toNat
    let y := (e.us (a + 1)).toNat
    match r.bindable e f true with
    | none => .done (r.putS e d 1)
    | some x =>
      if x.desc.height < y then .done (r.putS e d 2)
      else
        let b : Stream := { flow := f, send := true, line := y, frame := 0, ts := 0, tsv := false, src := inh }
        .done ((r.bindM e m b).putS e d 0)) s

/-! ### SRD and SWR (R274 to R276) -/

def Env.m (e : Env) (m : Nat) : Option Stream := nthD e.wp.m m none

/-- TADDR of a stream register that is not bound so. -/
def unboundAddr (m : Nat) : Nat := 0xFFFFFFFFFFFFFFE0 + m

/-- The binding and flow of an access, or the trap of the lowest participating lane that fails a check. -/
def Run.streamOf (r : Run) (e : Env) (g m : Nat) (send : Bool) (x : Nat → Nat) : Except Ret (Stream × Flow) :=
  let on := e.on g
  match e.m m with
  | none => .error (.trap 7 (unboundAddr m) (e.lead' g))
  | some b =>
    match r.flow b.flow with
    | none => .error (.trap 7 (unboundAddr m) (e.lead' g))
    | some f =>
      if b.send != send then .error (.trap 7 (unboundAddr m) (e.lead' g))
      else match on.find? (fun l => decide (f.desc.width < x l)) with
        | some l => .error (.trap 7 (x l) l)
        | none => .ok (b, f)

/-- A pixel of a receive frame, if it is present: in 4:2:2 with the chroma of its pgroup (R274). -/
def Flow.present (f : Flow) (k y x : Nat) : Option (Nat × Nat × Nat) :=
  let o := f.obj k
  if o.frame = some k then (f.desc.groupIn o.data y x).map (fun bs => f.desc.pixelOf bs x) else none

/-- The row of the error that poisons a pixel which SRD reads. -/
def Flow.poisoned (f : Flow) (k y x : Nat) : Option Nat :=
  if (f.present k y x).isSome then badIn (f.obj k).bad (f.desc.pgKey y x) f.desc.pgroup.2 else none

/-- A component as SRD writes it. -/
def FlowDesc.readCode (d : FlowDesc) (norm : Bool) (c : Nat) : Word :=
  word (if norm then (ofUnorm Fmt.f16 d.bits c).bits else c)

def execSrd (g d a : Nat) (norm : Bool) (pd m : Nat) (s : State) : Host.Outcome State Fault Refusal :=
  issue (.srd g d a norm pd m) (fun r e =>
    let on := e.on g
    let x := fun l => (e.v l a).toNat
    if on.isEmpty then .done r
    else match r.streamOf e g m false x with
      | .error z => z
      | .ok (b, f) =>
        let px := fun l => f.present b.frame b.line (x l)
        if !e.met && !on.all (fun l => (px l).isSome) &&
            decide ((r.ptime : Int) < f.desc.deadline b.frame b.line + 1000) then .wait .present
        else match on.findSome? (fun l => f.poisoned b.frame b.line (x l)) with
        | some row => .mcheck row noAddr
        | none =>
          let r := r.bindM e m { b with tsv := true }
          .done (r.applyLanes e g (fun l =>
            let c := (px l).getD f.desc.fillPixel
            let w := fun n => f.desc.readCode norm n
            { v := [(d, w c.1), (d + 1, w c.2.1), (d + 2, w c.2.2), (d + 3, word (x l))], p := [(pd, (px l).isSome)], fl := 0 }))) s

/-- PTIME passes a line deadline: SRDs that wait try again (R275). -/
def execSrdDeadline (w : Nat) (s : State) : Host.Outcome State Fault Refusal :=
  act (fun r =>
    match r.warp w with
    | none => r
    | some wp =>
      let due := wp.m.any (fun b => match b with
        | some x => !x.send && (match r.flow x.flow with
          | some f => decide (f.desc.deadline x.frame x.line + 1000 ≤ (r.ptime : Int))
          | none => false)
        | none => false)
      if due then r.modWarp w (fun x => x.mapLanes (fun _ l =>
        if l.wait = .ready .present then l.retry r.clk.cycles (fun y => y == .ready .present) else l))
      else r) s

/-- A component as SWR stores it. -/
def FlowDesc.writeCode (d : FlowDesc) (norm : Bool) (v : Word) : Nat :=
  if norm then (toUnorm d.bits (decodeF Fmt.f16 (v.toNat % 2 ^ 16))).bits else v.toNat % 2 ^ d.bits

/-- The codes of a pgroup that a pixel writes, by their places: chroma of a 4:2:2 pgroup is the even pixel's (R276). -/
def FlowDesc.writes (d : FlowDesc) (x : Nat) (c : Nat × Nat × Nat) : List (Nat × Nat) :=
  let p := x % d.pgroup.1
  (d.codeAt p 0, c.1) :: (if d.samp = 0 ∧ p = 1 then [] else [(d.codeAt p 1, c.2.1), (d.codeAt p 2, c.2.2)])

/-- One lane's pixel enters the data of a write object, whose other pixels are FILL (R276). -/
def FlowDesc.put (d : FlowDesc) (m : Map Byte) (y x : Nat) (c : Nat × Nat × Nat) : Map Byte :=
  let old := d.codes ((d.groupIn m y x).getD d.fillGroup)
  putGroup m (d.pgKey y x) (d.pack ((d.writes x c).foldl (fun cs e => setNth cs e.1 e.2) old))

/-- The pixels that one SWR writes into a line enter the object; the bytes of a pgroup are overwritten when every code of it is. -/
def FrameObj.putAll (o : FrameObj) (d : FlowDesc) (y : Nat) (px : List (Nat × Nat × Nat × Nat)) : FrameObj :=
  let codes := px.flatMap (fun e => (d.writes e.1 e.2).map (fun w => (d.pgKey y e.1, w.1)))
  let whole := (codes.map (·.1)).filter (fun k => (List.range d.order.length).all (fun i => codes.contains (k, i)))
  o.overwrite d (px.foldl (fun m e => d.put m y e.1 e.2) o.data) (whole.flatMap (fun k => run k d.pgroup.2))

def execSwr (g a b : Nat) (norm : Bool) (m : Nat) (s : State) : Host.Outcome State Fault Refusal :=
  issue (.swr g a b norm m) (fun r e =>
    let on := e.on g
    let x := fun l => (e.v l b).toNat
    if on.isEmpty then .done r
    else match r.streamOf e g m true x with
      | .error z => z
      | .ok (bd, f) =>
        match f.write with
        | none => .wait .writeObject
        | some i =>
          match r.demoteNow e.grid with
          | some r => .waitIn r .fence
          | none =>
            let d := f.desc
            let ts := match bd.src.bind (fun j => e.m j) with
              | some y => if y.tsv then some y.ts else none
              | none => none
            let write := fun (o : FrameObj) =>
              let o := o.putAll d bd.line (on.map (fun l =>
                let c := fun n => d.writeCode norm (e.v l (a + n))
                (x l, c 0, c 1, c 2)))
              match ts with
              | some t => { o with ts := some t }
              | none => o
            .done (r.modFlow bd.flow (fun f => { f with
              objs := putD f.objs i (write (lookD f.objs i FrameObj.empty)) FrameObj.empty }))) s

/-! ### Publishing and sending (R277 to R281, R296) -/

/-- The write object's contents are discarded. -/
def Flow.renew (f : Flow) : Flow :=
  match f.write with
  | some i => { f with objs := delM f.objs i }
  | none => f

/-- The write object is published for frame `k`. -/
def Flow.publish (f : Flow) (k : Nat) : Flow :=
  match f.write with
  | some i => ({ f with published := putM f.published k i, write := none }).nextWrite
  | none => f

/-- FRPUB (R278): it demotes a contained node first (R358). It is judged once, when it passes the wait, and publishes then; its
release completes before it does. [DEDUCED] (entry 105) -/
def execFrpub (g d a m : Nat) (s : State) : Host.Outcome State Fault Refusal :=
  uniOp (.frpub g d a m) g (fun r e =>
    let t := e.us2 a
    match r.demoteNow e.grid with
    | some r => .waitIn r .fence
    | none =>
      if e.progress.1 = 1 then r.released e everyLane 2 false (fun r => .done ((r.progress e none).putS e d 0))
      else match (e.m m).bind (fun b => if b.send then (r.flow b.flow).map (fun f => (b.flow, f)) else none) with
      | none => .done (r.putS e d 1)
      | some (n, f) =>
        let k := f.desc.kOf t
        if f.desc.slot k ≠ t then .done (r.putS e d 2)
        else if f.write.isNone then .wait .writeObject
        else if f.leftOut.contains k then .done ((r.modFlow n Flow.renew).putS e d 3)
        else if f.desc.commitAt k ≤ (r.ptime : Int) then .done ((r.modFlow n (fun f => f.renew.count 5)).putS e d 3)
        else if (lookM f.published k).isSome then .done (r.putS e d 4)
        else match (r.modFlow n (fun f => f.publish k)).release e.w e.wp everyLane 2 with
          | (true, r) => .done (r.putS e d 0)
          | (false, r) => .waitIn (r.progress e (some (1, 0))) .fence) s

/-- Frame `k` begins to leave with these contents and their poison. -/
def Flow.send (f : Flow) (k : Nat) (data : Map Byte) (bad : Map Nat) (rtp : Nat) (again : Bool) : Flow :=
  { f with
    committed := some k
    lastData := data
    lastBad := bad
    sending := f.sending ++ [{ frame := k, rtp := rtp, data := data, bad := bad, before := f.lastData, beforeBad := f.lastBad
                               again := again, line := 0, off := 0 }] }

/-- The flow after the commit of frame `k` (R279). -/
def Flow.commit (f : Flow) (k : Nat) : Flow :=
  match lookM f.published k with
  | some i =>
    let o := lookD f.objs i FrameObj.empty
    ({ f.send k o.data o.bad (o.ts.getD (f.desc.rtp k)) false with published := delM f.published k, lastSent := some i }).nextWrite
  | none => (f.send k f.lastData f.lastBad (f.desc.rtp k) true).count 4

def execFrameCommit (flow k : Nat) (s : State) : Host.Outcome State Fault Refusal :=
  act (fun r =>
    match r.flow flow with
    | none => r
    | some f =>
      let next := match f.committed with
        | some j => j + 1
        | none => 0
      if f.desc.en && f.desc.send && k == next && decide (f.desc.commitAt k ≤ (r.ptime : Int)) then r.modFlow flow (fun f => f.commit k)
      else r) s

/-- Bytes that one packet carries at most: a line that fits in 1,200 bytes, else whole pgroups within 1,200 bytes, and with block
packing blocks of 180 bytes. [PRESUMED: ST 2110-20] (entry 44) -/
def FlowDesc.perPacket (d : FlowDesc) : Nat :=
  if d.lineBytes ≤ 1200 then d.lineBytes else if d.pm then 1080 else 1200 / d.pgroup.2 * d.pgroup.2

/-- The bytes of a line from `off` up as they are sent: unwritten pixels are FILL. -/
def FlowDesc.sentBytes (d : FlowDesc) (m : Map Byte) (line off n : Nat) : List Byte :=
  let fill := d.fillGroup
  (List.range n).map (fun i => (lookM m (line * 65536 + off + i)).getD (nthD fill ((off + i) % d.pgroup.2) 0))

/-- The next packet of the frame being sent leaves (R281). One that holds poison consumes it: a record without a node reports it
(R352), and whether the packet leaves is open. [DESIGN CHOICE] (entry 132) -/
def Run.sendPacket (r : Run) (flow : Nat) (f : Flow) (x : Sending) (rest : List Sending) : Run :=
  let d := f.desc
  let n := min d.perPacket (d.lineBytes - x.off)
  let lineEnd := decide (d.lineBytes ≤ x.off + n)
  let last := lineEnd && decide (d.height ≤ x.line)
  let next : List Sending := if last then rest
    else
      let y : Sending := if lineEnd then { x with line := x.line + 1, off := 0 } else { x with off := x.off + n }
      y :: rest
  let out := fun (port : Nat) => Out.media port flow x.frame x.line (x.off / d.pgroup.2 * d.pgroup.1) (d.sentBytes x.data x.line x.off n)
    x.rtp (f.txSeq % 2 ^ 32) last
  let bad := badIn x.bad (x.line * 65536 + x.off) n
  let r := match bad with
    | some row => r.report 0 row d.part 0xFF noAddr
    | none => r
  let leaves := bad.isNone || r.pick 0 2 == 0
  let r := if leaves then r.emit (out d.port) else r
  let r := if leaves && d.pair then r.emit (out (if d.port % 2 = 0 then d.port + 1 else d.port - 1)) else r
  r.modFlow flow (fun f => ({ f with sending := next, txSeq := (f.txSeq + 1) % 2 ^ 32 }).count 0)

def execMediaPacketSend (flow : Nat) (s : State) : Host.Outcome State Fault Refusal :=
  act (fun r =>
    match r.flow flow with
    | none => r
    | some f =>
      match f.sending with
      | [] => r
      | x :: rest =>
        if (r.ptime : Int) < (f.desc.slot x.frame : Int) + f.desc.offs then r else r.sendPacket flow f x rest) s


end Sys2Proof.Machine
end

