-- ==== Sys2Proof/Machine/Launch.lean ====
section
/-! DEFINITION. What a warp, a team and a grid hold when they start (R22, R62, R146, R298, Table 22.2). -/

namespace Sys2Proof.Machine

/-- A thread at its entry: registers and predicates zero (R62). -/
def Lane.start (live : Bool) (pc : DWord) : Lane :=
  { st := if live then .live else .exited, pc := pc, v := [], p := 0, wait := .none, rpc := 0, rwait := .none, latch := none,
    rjnRel := [], haz := [], busy := [], ready := 0, turn := 0, prog := none, rprog := none, wrote := (0, []), bad := [] }

/-- The first `n` preload words in s0 upward (Table 22.2). -/
def preload (ws : List Nat) (n : Nat) : Map Word :=
  ((List.zip (List.range 4) ws).take n).foldl (fun m e => putD m e.1 (word e.2) 0) []

/-- Declared lane registers. -/
def Packet.regCount (p : Packet) : Nat := (p.regs + 2) * 8

/-- Declared private bytes per thread. -/
def Packet.privBytes (p : Packet) : Nat := 16 * p.priv

/-- A warp of a launch at its start: `live` lanes, lane masks of its warp barriers. -/
def Warp.start (p : Packet) (schk : Nat) (core slot team wid : Nat) (live : Nat → Bool) (privBase : Nat) (bars : List Word) : Warp :=
  { core := core, slot := slot, part := slot % 4, team := team, wid := wid
    lanes := (List.range 32).map (fun l => Lane.start (live l) (BitVec.ofNat 64 p.entry))
    s := preload p.pre p.precnt, g := 0, m := [none, none, none, none], regs := p.regCount, privSize := p.privBytes
    privBase := privBase, wst := 0, wch := 0, oac := 0, seen := 0, latch := none, mode := .user, tcause := 0, tepc := 0, tlane := 0
    taddr := 0, tmask := 0, tvec := BitVec.ofNat 64 p.handler, hscr := [0, 0, 0, 0], schk := word schk, gsave := 0
    wbar := [], wbarMem := bars, busy := [], spilled := false, promoted := [], issued := [0, 0, 0, 0]
    turns := 0, since := [none, none, none, none], raising := [], bad := [], bus := [], serial := none, recs := [] }

/-- A timed barrier with no phase under way. -/
def TBar.idle : TBar := { time := none, arrived := [], sent := false, listed := none }

/-- A team at its dispatch. -/
def Team.start (p : Packet) (grid idx : Nat) (cores : List Nat) (tbarMem : List (List Nat)) : Team :=
  { grid := grid, idx := idx, cores := cores, nwarps := (p.threads + 31) / 32, nthreads := p.threads, done := 0,
    complete := false, tbar := List.replicate 16 [], tbarMem := tbarMem, timed := List.replicate 4 TBar.idle }

/-- A packet that declares team memory or banks is no continuation kernel's (R43). -/
def Packet.kernelOpen (p : Packet) : Option Bool := if p.team = 0 ∧ p.banks = 0 then none else some false

/-- Default membership: every lane of every warp barrier, every warp of every team barrier (R333). -/
def barsDefault : List Word := List.replicate 4 (BitVec.allOnes 32)

def Packet.tbarDefault (p : Packet) : List (List Nat) := List.replicate 16 (List.range ((p.threads + 31) / 32))

/-- A grid that has been read and not dispatched. -/
def Grid.start (p : Packet) (part queue : Nat) (seq : Option Nat) (depth : Nat) (parent : Option Nat) (cls deadline : Nat)
    (root : Option Nat) : Grid :=
  { pkt := p, part := part, queue := queue, seq := seq, depth := depth, parent := parent, cls := cls, deadline := deadline,
    st := .waiting, contKernel := p.kernelOpen, nextTeam := 0, serial := 0, gbar := [[], [], [], []], bars := barsDefault,
    tbars := p.tbarDefault, root := root,
    staged := [], base := [], writes := [], dem := false, rq := 0, excluded := [], gwct := 0, fin := none }

/-- Lanes of warp `w` that hold threads (R22). -/
def Packet.liveLane (p : Packet) (w l : Nat) : Bool := decide (32 * w + l < p.threads)

end Sys2Proof.Machine
end

