-- ==== Sys2Proof/Machine/System.lean ====
section
/-! DEFINITION. System instructions, system registers, control cores and service records (chapters 20, 26; R364). -/

namespace Sys2Proof.Machine

/-! ### Device registers -/

def b1 (b : Bool) (k : Nat) : Nat := if b then 2 ^ k else 0

/-- A value taken to the nearest in range (R298). -/
def clamp (lo hi x : Nat) : Nat := max lo (min hi x)

/-- Active slots (R335, Table 26.2). -/
def Sched.act (s : Sched) : Nat := (s.active.filter Option.isSome).length

/-- SQCTL as it reads (Table 26.2). -/
def Run.sqctlRead (r : Run) : Nat :=
  r.dev.sched.act * 256 + r.dev.sys.scc * 16 + b1 r.dev.sys.quiet 1 + b1 r.dev.sys.hold 0

/-- The queue whose ring entry is being read at this moment, if any: a free choice among those with an entry to read, since the read of
an entry is one step here. [DESIGN CHOICE, safe] (entry 135) -/
def Run.midRead (r : Run) : Option Nat :=
  let ks := r.dev.sched.active.filterMap (fun a => a.bind (fun k => match r.queue k with
    | some q => if q.v && q.ridx != q.widx then some k else none
    | none => none))
  ks[r.pick (13 * 2 ^ 20) (ks.length + 1)]?

/-- HOLD is set or cleared, and SCC written (R378, R379). -/
def Run.holdWrite (r : Run) (hold : Bool) : Run :=
  if hold && !r.dev.sys.hold then
    r.modSys (fun s => { s with hold := true, quiet := false, reading := r.midRead, handed := 0 })
  else if hold then r
  else r.modSys (fun s => { s with hold := false, quiet := false, reading := none, handed := 0 })

def Run.sccWrite (r : Run) (scc : Nat) : Run := r.modSys (fun s => { s with scc := scc % 4 })

/-- TALW changes: a boundary's refill uses the value at the start of its tick (R349). -/
def Run.setTalw (r : Run) (v : Nat) : Run :=
  let old := r.dev.sys.talw
  let now := r.clk.dtime
  (r.modPower (fun p => { p with
    talwMark := if p.talwMark.any (fun m => m.1 == now) then p.talwMark else p.talwMark ++ [(now, old)] })).modSys
    (fun s => { s with talw := v })

/-- TALW as a write leaves it: fields above 256 take 256, those of a forced stack above 128 take 128 (R341, R343). -/
def Run.talwWrite (r : Run) (v : Nat) : Run :=
  let f := fun (k x : Nat) => let x := min 256 x; if nthD r.dev.power.forced k false then min 128 x else x
  r.setTalw (f 1 (fld v 16 9) * 65536 + f 0 (fld v 0 9))

/-- Quiet mode is in force (R346). -/
def Sys.quietMode (s : Sys) : Bool := decide (s.qclk < 2300) || decide (s.qpwr < 1200)

/-- Outside quiet mode no power-derived limit holds (R346). -/
def Run.clockCap (r : Run) : Run :=
  if r.dev.sys.quietMode then r else r.modPower (fun p => { p with plim := 2300 })

/-- A lane number of LREPAIR: values above 32 take 32 (Table 24.4). -/
def lrepairLane (v : Nat) : Nat := min 32 (fld v 0 6)

/-- LREPAIR with WR set: a pending map of INDEX (R364). -/
def Run.lrepairPut (r : Run) (v : Nat) : Run :=
  r.modSched (fun s => { s with lanePend := putM s.lanePend (fld v 16 9) (lrepairLane v) })

/-- LREPAIR with WR clear: INDEX is selected for reading. -/
def Run.lrepairSel (r : Run) (v : Nat) : Run := r.modSched (fun s => { s with laneSel := fld v 16 9 })

/-- LREPAIR as it reads; the map of a partition that nothing has written is the fuse map's: no failed lane but the
spare (entry 6). -/
def Run.lrepairRead (r : Run) : Nat :=
  let s := r.dev.sched
  s.laneSel * 65536 + b1 (lookM s.lanePend s.laneSel).isSome 15 + lookD s.laneMap s.laneSel 32

/-- HBV (Table 26.1). -/
def Sys.hbv (s : Sys) : Nat :=
  (List.range 4).foldl (fun a i => a + (s.cc.get i).hbeat.toNat % 256 * 256 ^ i) 0

/-! ### Starting and stopping control cores (R298, R380) -/

/-- A stopped control core starts in supervisor mode at its TVEC. -/
def CtlCore.start (c : CtlCore) : CtlCore :=
  { c with hbeat := 0, mode := .supervisor, pc := entryPc c.tvec, busy := false, prev := false, waiting := 0, calls := [] }

def Run.ccStart (r : Run) (k : Nat) : Run :=
  if r.dev.sys.ccrun.getLsbD k then r
  else (r.modCc k CtlCore.start).modSys (fun s => { s with ccrun := s.ccrun ||| (1#4 <<< k) })

/-- Its stores were performed at their homes as they issued; the bit reads 0 once they are so at device scope (R380). -/
def Run.ccStop (r : Run) (k : Nat) : Run :=
  if r.dev.sys.ccrun.getLsbD k then (r.haltCc k false).modCc k (fun c => { c with waiting := 0, calls := [] }) else r

/-- CCRUN as it reads: the bit of a stopped core reads 0 once its stores have been performed at device scope (R380). -/
def Run.ccrunRead (r : Run) : Nat :=
  (List.range 4).foldl (fun a k => a + b1 (r.dev.sys.ccrun.getLsbD k || !r.ccReleased k) k) 0

/-- A write of CCRUN that starts a core: it is a device-scope release by the core that issues it (R380). -/
def Run.ccStarts (r : Run) (v : Nat) : Bool := (List.range 4).any (fun k => bitOf v k && !r.dev.sys.ccrun.getLsbD k)

/-- A write of CCRUN starts and stops cores. -/
def Run.ccrunWrite (r : Run) (v : Nat) : Run :=
  (List.range 4).foldl (fun r k => if bitOf v k then r.ccStart k else r.ccStop k) r

/-! ### Service records (R314, Table 20.9) -/

/-- SVCREC's value for a record. -/
def Svc.word (x : Svc) : Nat := 2 ^ 63 + x.part * 2 ^ 60 + x.ticket * 2 ^ 50 + x.code * 2 ^ 32 + x.operand

/-- Pops the oldest record not popped, and latches its source on the reading control core. -/
def Run.svcPop (r : Run) (k : Nat) : Nat × Run :=
  match r.dev.sys.svc.find? (fun x => !x.popped) with
  | none => (0, r)
  | some x =>
    let r := r.modSys (fun s => { s with svc := s.svc.map (fun y =>
      if y.part = x.part ∧ y.ticket = x.ticket then { y with popped := true } else y) })
    (x.word, r.modCc k (fun c => { c with svcsrc := word (x.core * 65536 + x.wid) }))

/-- The wait of an ECALL's record. -/
def Wait.isEcall (ticket : Nat) : Wait → Bool
  | .ecall t _ => t == ticket
  | _ => false

/-- Where the reply of an ECALL goes. -/
def Wait.ecallDst : Wait → Nat
  | .ecall _ d => d
  | _ => 255

/-- The waiting split's lanes go on, with the reply in sd. -/
def Warp.ecallDone (wp : Warp) (cycle ticket reply : Nat) : Warp :=
  let hit := fun (l : Lane) => l.isLive && l.waits (Wait.isEcall ticket)
  match wp.lanes.find? hit with
  | none => wp
  | some l =>
    let d := if Wait.isEcall ticket l.wait then l.wait.ecallDst else l.rwait.ecallDst
    (wp.mapLanes (fun _ x => if hit x then x.release cycle (Wait.isEcall ticket) else x)).putSs d [word reply]

/-- SVCRPL with CC = 0: answers a record that has been popped. -/
def Run.svcAnswer (r : Run) (v : Nat) : Run :=
  let p := fld v 60 3
  let t := fld v 50 10
  match r.dev.sys.svc.find? (fun x => x.popped && x.part == p && x.ticket == t) with
  | none => r
  | some x =>
    let r := r.modSys (fun s => { s with svc := s.svc.filter (fun y => !(y.part == p && y.ticket == t)) })
    r.modWarpAny x.warp (fun w => w.ecallDone r.clk.cycles t (v % 2 ^ 32))

/-- The record of the ECALL at which a control core stands: in a trap handler another than outside (R307). -/
def CtlCore.call (c : CtlCore) : Option CcCall := c.calls.find? (fun x => x.pc == c.pc && x.deep == c.busy)

/-- The record that a reply answers: the oldest that CC3 has taken and not answered. -/
def CtlCore.asked (c : CtlCore) : Option CcCall := c.calls.find? (fun x => x.sent && x.reply.isNone)

def CcCall.same (x y : CcCall) : Bool := x.pc == y.pc && x.deep == y.deep

/-- A record of a core goes, and its reply to the register that waits. -/
def CtlCore.endCall (c : CtlCore) (x : CcCall) (v : Word) : CtlCore :=
  { c with calls := c.calls.filter (fun y => !y.same x), s := if x.sd < 192 then putD c.s x.sd v 0 else c.s }

/-- A reply reaches a control core that waits for it; one that does not wait at that ECALL, because a watchdog has taken it out or CC3
is in its own delivery, keeps it (R307, R314). -/
def CtlCore.takeReply (c : CtlCore) (now : Nat) (v : Word) : CtlCore :=
  match c.asked with
  | none => c
  | some x =>
    if c.waiting = 3 ∧ c.call = some x then
      { c.endCall x v with waiting := 0, pc := nextPc c.pc 2, ready := max c.ready now }
    else { c with calls := c.calls.map (fun y => if y.same x then { y with reply := some v } else y) }

/-- CC3 leaves the handler in which it has served its own ECALL: a reply written there reaches sd (R314). Where none was written, sd
keeps its value. [DESIGN CHOICE, unsafe] (entry 128) -/
def CtlCore.ownCalls (c : CtlCore) : CtlCore :=
  (c.calls.filter (fun x => x.sent)).foldl (fun c x => match x.reply with
    | some v => c.endCall x v
    | none => { c with calls := c.calls.filter (fun y => !y.same x) }) c

/-- SVCRPL with CC = 1, in machine mode: answers the delivered ECALL of a control core. -/
def Run.svcAnswerCc (r : Run) (v : Nat) : Run :=
  r.modCc (fld v 32 2) (fun c => c.takeReply (r.clk.ccCycles r.clockMhz) (word v))

/-- A write of SVCRPL on a control core in a mode. -/
def Run.svcrplWrite (r : Run) (m : Mode) (v : Nat) : Run :=
  if bitOf v 63 then (if m == .machine then r.svcAnswerCc v else r) else r.svcAnswer v

/-! ### MFSR and MTSR -/

/-- A system register of a warp (R298, R299). -/
def Warp.sysGet (w : Warp) (lease : Nat) (n : Nat) : Nat :=
  match n with
  | 0x000 => w.wst.toNat
  | 0x001 => w.tcause.toNat
  | 0x002 => w.tepc.toNat
  | 0x003 => w.tlane
  | 0x004 => w.taddr.toNat
  | 0x005 => w.tmask.toNat
  | 0x006 => w.tvec.toNat
  | 0x008 => (nthD w.hscr 0 0).toNat
  | 0x009 => (nthD w.hscr 1 0).toNat
  | 0x00A => (nthD w.hscr 2 0).toNat
  | 0x00B => (nthD w.hscr 3 0).toNat
  | 0x010 => w.schk.toNat
  | 0x011 => w.wch
  | 0x012 => w.oac
  | _ => lease

/-- What a write leaves of a 64-bit register: a 32-bit write keeps the high word (R298). -/
def put64 (old : DWord) (wide : Bool) (v : Nat) : DWord :=
  BitVec.ofNat 64 (if wide then v else old.toNat / 2 ^ 32 * 2 ^ 32 + v % 2 ^ 32)

def Warp.sysSet (w : Warp) (now n v : Nat) (wide : Bool) : Warp :=
  match n with
  | 0x000 => w.putWst now (wstWrite (word v))
  | 0x002 => { w with tepc := put64 w.tepc wide v }
  | 0x008 => { w with hscr := setNth w.hscr 0 (word v) }
  | 0x009 => { w with hscr := setNth w.hscr 1 (word v) }
  | 0x00A => { w with hscr := setNth w.hscr 2 (word v) }
  | 0x00B => { w with hscr := setNth w.hscr 3 (word v) }
  | 0x010 => { w with schk := schkWrite (word v) }
  | _ => w

/-- A register that a control core reads; SVCREC is read by `svcPop`. -/
def Run.ccGet (r : Run) (k n : Nat) : Nat :=
  let c := r.cc k
  let s := r.dev.sys
  match n with
  | 0x000 => c.wst.toNat
  | 0x001 => c.tcause.toNat
  | 0x002 => c.tepc.toNat
  | 0x004 => c.taddr.toNat
  | 0x006 => c.tvec.toNat
  | 0x008 => (nthD c.hscr 0 0).toNat
  | 0x009 => (nthD c.hscr 1 0).toNat
  | 0x00A => (nthD c.hscr 2 0).toNat
  | 0x00B => (nthD c.hscr 3 0).toNat
  | 0x020 => match r.part c.lpsel with
    | some p => p.lease
    | none => 0
  | 0x021 => c.lpsel
  | 0x030 => s.talw
  | 0x031 => s.tokrate
  | 0x032 => s.qclk
  | 0x033 => s.qpwr
  | 0x040 => r.lrepairRead
  | 0x050 => c.hbeat.toNat
  | 0x051 => s.fwslot
  | 0x052 => c.wdog
  | 0x053 => b1 c.busy 1 + b1 c.prev 0
  | 0x054 => r.ccrunRead
  | 0x055 => c.intp.toNat
  | 0x056 => s.hbv
  | 0x057 => r.sqctlRead
  | 0x058 => s.hoptr
  | 0x05B => c.svcsrc.toNat
  | _ => 0

/-- INTP: write one to clear (Table 20.6). -/
def CtlCore.intpClear (c : CtlCore) (v : Nat) : CtlCore := { c with intp := c.intp &&& ~~~(BitVec.ofNat 8 v) }

/-- LEASE of partition LPSEL, 64 to 8,192 ns; of a partition that is not valid, ignored. -/
def Run.leaseWrite (r : Run) (k v : Nat) : Run :=
  let p := (r.cc k).lpsel
  match r.part p with
  | some _ => r.modSched (fun s => { s with parts := modM s.parts p (fun x => { x with lease := clamp 64 8192 v }) })
  | none => r

/-- A register that a control core writes. -/
def Run.ccSet (r : Run) (k n v : Nat) (wide : Bool) : Run :=
  let v32 := v % 2 ^ 32
  match n with
  | 0x000 => r.modCc k (fun c => { c with wst := wstWrite (word v) })
  | 0x002 => r.modCc k (fun c => { c with tepc := put64 c.tepc wide v })
  | 0x006 => r.modCc k (fun c => { c with tvec := put64 c.tvec wide v })
  | 0x008 => r.modCc k (fun c => { c with hscr := setNth c.hscr 0 (word v) })
  | 0x009 => r.modCc k (fun c => { c with hscr := setNth c.hscr 1 (word v) })
  | 0x00A => r.modCc k (fun c => { c with hscr := setNth c.hscr 2 (word v) })
  | 0x00B => r.modCc k (fun c => { c with hscr := setNth c.hscr 3 (word v) })
  | 0x020 => r.leaseWrite k v32
  | 0x021 => r.modCc k (fun c => { c with lpsel := v % 8 })
  | 0x030 => r.talwWrite v32
  | 0x031 => r.modSys (fun s => { s with tokrate := min 9200 (v % 2 ^ 14) })
  | 0x032 => (r.modSys (fun s => { s with qclk := clamp 500 2300 v32 })).clockCap
  | 0x033 => (r.modSys (fun s => { s with qpwr := clamp 300 1200 v32 })).clockCap
  | 0x040 => if bitOf v 31 then r.lrepairPut v32 else r.lrepairSel v32
  | 0x050 => r.modCc k (fun c => { c with hbeat := word v })
  | 0x051 => r.modSys (fun s => { s with fwslot := v % 2 })
  | 0x052 => r.modCc k (fun c => { c with wdog := v32 })
  | 0x054 => r.ccrunWrite (v % 16)
  | 0x055 => r.modCc k (fun c => c.intpClear v)
  | 0x057 => (r.holdWrite (bitOf v 0)).sccWrite (fld v 4 2)
  | 0x058 => r.modSys (fun s => { s with hoptr := (put64 (BitVec.ofNat 64 s.hoptr) wide v).toNat })
  | 0x05C => r.svcrplWrite (r.cc k).mode (if wide then v else v32)
  | _ => r

/-- Writes a register or a pair of the issuer. -/
def Run.putSw (r : Run) (e : Env) (d : Nat) (w : Bool) (x : Nat) : Run := r.putSs e d (wordsOf (if w then 2 else 1) x)

/-- MFSR (R310): its modes and numbers are checked at issue. -/
def execMfsr (g d : Nat) (w : Bool) (n : Nat) (s : State) : Host.Outcome State Fault Refusal :=
  uniOp (.mfsr g d w n) g (fun r e =>
    match e.agent with
    | .cc k =>
      let (x, r) := if n = 0x05A then r.svcPop k else (r.ccGet k n, r)
      .done (r.putSw e d w x)
    | _ => .done (r.putSw e d w (e.wp.sysGet (r.leaseLen ((r.partOfCore e.wp.core).getD 0)) n))) s

/-- MTSR (R310). -/
def execMtsr (g a : Nat) (w : Bool) (n : Nat) (s : State) : Host.Outcome State Fault Refusal :=
  uniOp (.mtsr g a w n) g (fun r e =>
    let v := if w then e.us2 a else (e.us a).toNat
    match e.agent with
    | .cc k =>
      if n = 0x054 ∧ r.ccStarts v ∧ !r.ccReleased k then .wait .fence
      else
      let r := r.modCc k (fun c => { c with pc := nextPc e.pc e.words, waiting := 0 })
      .moved (r.ccSet k n v w)
    | _ => .done (r.modWarp e.w (fun x => x.sysSet r.clk.cycles n v w))) s

/-! ### ERET (R304, R307) -/

/-- ERET: a TEPC that R66 and R158 reject is cause 0x03; the barriers and rejoins that the handler's lanes left are
judged again. -/
def execEret (g : Nat) (s : State) : Host.Outcome State Fault Refusal :=
  uniOp (.eret g) g (fun r e =>
    match e.agent with
    | .cc k =>
      let t := (r.cc k).tepc.toNat
      (r.slotFault e 0 t (r.slotOk e t)).getD (.moved (r.modCc k (fun c =>
        { (if k = 3 then c.ownCalls else c).leaveTrap with waiting := 0 })))
    | _ =>
      let t := e.wp.tepc.toNat
      (r.targetFault e e.lead t).getD (.moved ((((r.modWarp e.w Warp.leaveHandler).rjnCheck e.w).barCheck e.w).fatalNow e.w))) s

/-! ### TLBI and CINV (R311, R312, R321) -/

/-- Accesses of a partition older than identifier `id` that are not yet performed, the drains of engines among them (R321). -/
def Run.older (r : Run) (part : Option Nat) (id : Nat) : Bool :=
  let mine := fun (g : Nat) => match part, r.grid g with
    | some p, some x => x.part == p
    | _, _ => true
  r.dev.ms.stores.any (fun e => decide (e.1 < id) && e.2.gwct == none && mine e.2.grid) ||
  r.dev.ms.atomics.any (fun e => decide (e.1 < id) && mine e.2.grid) ||
  r.dev.ms.loads.any (fun e => decide (e.1 < id) && (match r.warpAny e.2.warp with
    | some w => mine (r.gridOf w)
    | none => false)) ||
  r.dev.lists.any (fun e => e.2.running && mine e.2.grid &&
    e.2.transfers.any (fun t => t.2.pull && decide (t.1 < id)))

/-- The cores of a partition, or all of them, give to its home what their L1s keep back from it: update-only partials and the dirty
words of private lines (R137, R180). -/
def Run.cleanCores (r : Run) (part : Option Nat) : Run :=
  ((r.dev.ms.partials.map (·.1) ++ r.dev.ms.l1.map (·.1)).foldl addNew []).foldl (fun r c =>
    if part = none ∨ r.partOfCore c = part then
      let r := r.flushCore c (fun _ => true)
      ((r.l1 c).filter (fun e => e.2.lease == .priv && e.2.dirty != 0)).foldl (fun r e => r.writeBack c e.1) r
    else r) r

/-- TLBI: removes the translations that `f` names and completes when every earlier access of the partition has been
performed at its home (R321). -/
def Run.tlbi (r : Run) (k : Nat) (part : Option Nat) (f : Tlb → Bool) : Ret :=
  let c := r.cc k
  let id := if c.waiting = 4 then c.wtime else r.dev.ms.nextId
  let r := (r.modSched (fun s => { s with tlb := s.tlb.filter (fun t => !f t) })).cleanCores part
  if r.older part id then .moved (r.modCc k (fun c => { c with waiting := 4, wtime := id })) else .done r

def Env.ccNo (e : Env) : Nat :=
  match e.agent with
  | .cc k => k
  | _ => 0

def execTlbiPage (g a b part : Nat) (s : State) : Host.Outcome State Fault Refusal :=
  uniOp (.tlbiPage g a b part) g (fun r e =>
    let va := e.us2 a
    let asid := (e.us b).toNat % 4096
    if !canonical va then .trap 0x12 va 0
    else if (r.part part).isNone then .done r
    else r.tlbi e.ccNo (some part) (fun t => t.part == part && t.asid == asid && va / 2 ^ t.span == t.vpn)) s

def execTlbiPart (g part : Nat) (s : State) : Host.Outcome State Fault Refusal :=
  uniOp (.tlbiPart g part) g (fun r e =>
    if (r.part part).isNone then .done r else r.tlbi e.ccNo (some part) (fun t => t.part == part)) s

def execTlbiAll (g part : Nat) (s : State) : Host.Outcome State Fault Refusal :=
  uniOp (.tlbiAll g part) g (fun r e => r.tlbi e.ccNo none (fun _ => true)) s

/-- Acts on every compute core of a partition; a partition that is not valid has none. -/
def Run.onCores (r : Run) (part : Nat) (f : Run → Nat → Run) : Run :=
  match r.part part with
  | none => r
  | some p => ((List.range 128).filter (fun c => p.groups.getLsbD (c / 8))).foldl f r

def execCinvIcache (g part : Nat) (s : State) : Host.Outcome State Fault Refusal :=
  uniOp (.cinvIcache g part) g (fun r _ =>
    .done (r.onCores part (fun r c => if (lookM r.dev.cores c).isSome then r.modCore c (fun x => { x with icache := [] }) else r))) s

def execCinvCcache (g part : Nat) (s : State) : Host.Outcome State Fault Refusal :=
  uniOp (.cinvCcache g part) g (fun r _ =>
    .done (r.onCores part (fun r c => if (lookM r.dev.cores c).isSome then r.modCore c (fun x => { x with ccache := [] }) else r))) s

def execCinvL1 (g part : Nat) (s : State) : Host.Outcome State Fault Refusal :=
  uniOp (.cinvL1 g part) g (fun r _ => .done (r.onCores part Run.invAll)) s

/-! ### WFI, HALT, HIRQ -/

/-- WFI continues when INTP of its control core is not zero (R312). -/
def execWfi (g : Nat) (s : State) : Host.Outcome State Fault Refusal :=
  uniOp (.wfi g) g (fun r e =>
    if (r.cc e.ccNo).intp ≠ 0 then .done r else .moved (r.modCc e.ccNo (fun c => { c with waiting := 1 }))) s

/-- HALT stops the issuing control core and clears its CCRUN bit (R312). -/
def execHalt (g : Nat) (s : State) : Host.Outcome State Fault Refusal :=
  uniOp (.halt g) g (fun r e =>
    .moved ((r.modCc e.ccNo (fun c => { c with pc := nextPc e.pc e.words, waiting := 0 })).haltCc e.ccNo false)) s

/-- HIRQ (R313): a system-scope release by the warp, then an MSI-X message of the partition's function. -/
def execHirq (g a part : Nat) (s : State) : Host.Outcome State Fault Refusal :=
  uniOp (.hirq g a part) g (fun r e =>
    let v := (e.us a).toNat
    let p := match e.agent with
      | .cc _ => part
      | _ => (r.partOfCore e.wp.core).getD 0
    match r.part p with
    | none => .trap 7 p e.lead
    | some x =>
      if 2048 ≤ v then .trap 7 v e.lead
      else match e.agent with
        | .cc k => if r.ccReleased k then .done (r.emit (.msix x.func v)) else .wait .fence
        | _ => r.released e everyLane 4 true (fun r => .done (r.emit (.msix x.func v)))) s

/-! ### ECALL (R314) -/

/-- The lowest place of a partition's service queue that no record holds. -/
def Sys.freeTicket (s : Sys) (part : Nat) : Option Nat :=
  (List.range 1024).find? (fun t => !s.svc.any (fun x => x.part == part && x.ticket == t))

/-- ECALL of a warp: after its release the record is queued and the split waits for the reply; code 0 is answered with 0. -/
def Run.ecallWarp (r : Run) (e : Env) (d a code : Nat) : Ret :=
  let part := (r.partOfCore e.wp.core).getD 0
  r.released e e.lanes 2 false (fun r =>
    if code = 0 then .done (r.putS e d 0)
    else match r.dev.sys.freeTicket part with
    | none => .waitIn r .space
    | some t =>
      let x : Svc := { part := part, ticket := t, code := code, operand := (e.us a).toNat, core := e.wp.core, wid := e.wp.wid,
                       warp := e.w, popped := false }
      let r := r.modSys (fun s => { s with svc := s.svc ++ [x] })
      let r := r.intp r.dev.sys.scc 5
      .moved ((r.onLanes e.w e.lanes (fun _ l => { l with wait := .ecall t d })).modWarp e.w (fun w => w.await d 1)))

/-- The core queues a record, and those answered ones go that it has left behind for good. -/
def CtlCore.queueCall (c : CtlCore) (x : CcCall) : CtlCore :=
  { c with calls := c.calls.filter (fun y => !(y.deep == c.busy && y.reply.isSome)) ++ [x] }

/-- ECALL of a control core: in machine mode it is answered at once, otherwise once it is a release; a record that a watchdog left
behind is not queued again (R307). -/
def Run.ecallCc (r : Run) (e : Env) (k d a code : Nat) : Ret :=
  let c := r.cc k
  if k = 3 ∧ c.mode = .machine then .done (r.putS e d 0xFFFFFFFF)
  else if !r.ccReleased k then .wait .fence
  else if code = 0 then .done (r.putS e d 0)
  else match c.call with
  | none =>
    let x : CcCall := { pc := c.pc, deep := c.busy, operand := (e.us a).toNat, code := code, sd := d, sent := false, reply := none }
    .moved (r.modCc k (fun c => { c.queueCall x with waiting := 3, wsd := d }))
  | some x =>
    match x.reply with
    | some v => .done (r.modCc k (fun c => c.endCall x v))
    | none => .moved (r.modCc k (fun c => { c with waiting := 3, wsd := d }))

def execEcall (g d a code : Nat) (s : State) : Host.Outcome State Fault Refusal :=
  uniOp (.ecall g d a code) g (fun r e =>
    match e.agent with
    | .cc k => r.ecallCc e k d a code
    | _ => r.ecallWarp e d a code) s

/-- TADDR of cause 0x15. -/
def callAddr (k operand code : Nat) : Nat := k * 2 ^ 40 + code * 2 ^ 32 + operand

/-- The record of a core that is the next to reach CC3: of CC3's own, that of the ECALL at which it waits. -/
def Run.callDue (r : Run) (k : Nat) : Option CcCall :=
  let c := r.cc k
  if !r.dev.sys.ccrun.getLsbD k then none
  else if k = 3 then (if c.waiting = 3 then c.call else none).filter (fun x => !x.sent)
  else c.calls.find? (fun x => !x.sent)

/-- A record has reached CC3. -/
def CtlCore.sendCall (c : CtlCore) (x : CcCall) : CtlCore :=
  { c with calls := c.calls.map (fun y => if y.same x then { y with sent := true } else y) }

/-- The ECALL of the lowest-numbered control core that waits for delivery reaches CC3, unless CC3 is in a trap. For
one that CC3 issued, TEPC is its next slot. -/
def execServiceCallDelivery (s : State) : Host.Outcome State Fault Refusal :=
  act (fun r =>
    if (r.cc 3).busy || !r.dev.sys.ccrun.getLsbD 3 then r
    else match (List.range 4).findSome? (fun k => (r.callDue k).map (fun x => (k, x))) with
      | none => r
      | some (k, x) =>
        let epc := if k = 3 then nextPc (r.cc 3).pc 2 else (r.cc 3).pc
        (r.modCc k (fun c => c.sendCall x)).ccTrap 3 0x15 (callAddr k x.operand x.code) epc) s

/-- A control core in supervisor or machine mode reads SVCREC. -/
def execSvcrecRead (cc : Nat) (s : State) : Host.Outcome State Fault Refusal :=
  act (fun r => if cc < 4 then (r.svcPop cc).2 else r) s

def execSvcrplAnswer (cc v : Nat) (s : State) : Host.Outcome State Fault Refusal :=
  act (fun r => if cc < 4 && !bitOf v 63 then r.svcAnswer v else r) s

/-- Machine mode is CC3's alone. -/
def execSvcrplAnswerCc (cc v : Nat) (s : State) : Host.Outcome State Fault Refusal :=
  act (fun r => if cc < 4 && bitOf v 63 then r.svcrplWrite (r.cc cc).mode v else r) s

/-! ### Control-core steps -/

/-- CC0 in supervisor mode, or machine mode, may write CCRUN (Table 20.1). -/
def Run.mayRun (r : Run) (who : Nat) : Bool :=
  decide (who < 4) && r.dev.sys.ccrun.getLsbD who && (who == 0 || (r.cc who).mode == .machine)

def execCcrunStart (who cc : Nat) (s : State) : Host.Outcome State Fault Refusal :=
  act (fun r => if r.mayRun who && decide (cc < 4) && r.ccReleased who then r.ccStart cc else r) s

def execCcrunStop (who cc : Nat) (s : State) : Host.Outcome State Fault Refusal :=
  act (fun r => if r.mayRun who && decide (cc < 4) then r.ccStop cc else r) s

def execWdogWrite (cc v : Nat) (s : State) : Host.Outcome State Fault Refusal :=
  act (fun r => r.modCc cc (fun c => { c with wdog := v % 2 ^ 32 })) s

/-- The watchdog count of a running control core has reached zero: cause 0x13. A WFI counts as executed; any other wait
ends with its instruction not executed (R307). -/
def Run.watchdog (r : Run) (k : Nat) : Run :=
  let c := r.cc k
  let epc := if c.waiting = 1 then nextPc c.pc 2 else c.pc
  (r.modCc k (fun c => { c with wdog := 0, waiting := 0 })).ccTrap k 0x13 0 epc

/-- The last microsecond of a watchdog count passes. -/
def execWatchdogExpiry (cc : Nat) (s : State) : Host.Outcome State Fault Refusal :=
  act (fun r => if cc < 4 && r.dev.sys.ccrun.getLsbD cc && (r.cc cc).wdog == 1 then r.watchdog cc else r) s

/-- A microsecond boundary: TICK rises on every control core, and the watchdog counts of running cores that are above 1
fall; one that would reach zero is the step WATCHDOG_EXPIRY. -/
def execTick (s : State) : Host.Outcome State Fault Refusal :=
  act (fun r => (List.range 4).foldl (fun r k =>
    let r := r.intp k 0
    if r.dev.sys.ccrun.getLsbD k then
      r.modCc k (fun c => { c with wdog := if 1 < c.wdog then c.wdog - 1 else c.wdog })
    else r) r) s

def execIntpClear (cc v : Nat) (s : State) : Host.Outcome State Fault Refusal :=
  act (fun r => r.modCc cc (fun c => c.intpClear v)) s

/-- The host rings its doorbell: HOST on the core that SCC names (R308, R378). -/
def execHostDoorbell (s : State) : Host.Outcome State Fault Refusal := act (fun r => r.intp r.dev.sys.scc 4) s

def execSqctlHoldSet (cc : Nat) (s : State) : Host.Outcome State Fault Refusal :=
  act (fun r => if cc < 4 then r.holdWrite true else r) s

def execSqctlHoldClear (cc : Nat) (s : State) : Host.Outcome State Fault Refusal :=
  act (fun r => if cc < 4 then r.holdWrite false else r) s

def execSqctlSccWrite (cc scc : Nat) (s : State) : Host.Outcome State Fault Refusal :=
  act (fun r => if cc < 4 then r.sccWrite scc else r) s

/-! ### Lane repair (R364) -/

def execLrepairWrite (v : Nat) (s : State) : Host.Outcome State Fault Refusal := act (fun r => r.lrepairPut (v % 2 ^ 32)) s

def execLrepairSelect (v : Nat) (s : State) : Host.Outcome State Fault Refusal := act (fun r => r.lrepairSel (v % 2 ^ 32)) s

/-- A pending map of partition `x` takes effect at its drain: no resident warp (R364). -/
def execLaneMapApply (x : Nat) (s : State) : Host.Outcome State Fault Refusal :=
  act (fun r =>
    match lookM r.dev.sched.lanePend x with
    | none => r
    | some f =>
      if r.dev.warps.any (fun w => w.2.core * 4 + w.2.part == x) then r
      else r.modSched (fun s => { s with lanePend := delM s.lanePend x, laneMap := putM s.laneMap x f })) s

/-- Physical lane of a logical lane under a partition's map (R364). -/
def physLane (f i : Nat) : Nat := if i < f then i else i + 1

end Sys2Proof.Machine
end

