-- ==== Sys2Proof/Machine/Issue.lean ====
section
/-! DEFINITION. Fetching the next instruction of an agent: translation, the leaf, decoding, and the faults that come before an instruction's own (R64, R67, R80, R318). -/

namespace Sys2Proof

open Sys2Proof.Machine

/-- Leaf checks of Table 4.4. -/
def Reject.isLeaf : Reject → Bool
  | .leafControl => true
  | .leafX7 => true
  | .leafLong => true
  | .leafSlot => true
  | _ => false

end Sys2Proof

namespace Sys2Proof.Machine

/-- Puts an element before the first of a list that a measure ranks above it. -/
def insertBy {α : Type} (f : α → Nat) (x : α) : List α → List α
  | [] => [x]
  | y :: ys => if f x < f y then x :: y :: ys else y :: insertBy f x ys

/-- Lowest lanes of the splits of a warp. -/
def Warp.heads (wp : Warp) : List Nat := (List.range 32).filter (fun l => (wp.split l).headD 32 == l)

/-- The cycle in which the stall counts and the last waits of a split are over. -/
def Warp.stallEnd (wp : Warp) (l : Nat) : Nat :=
  (wp.split l).foldl (fun a k => max a (nthD wp.lanes k Lane.absent).ready) 0

/-- What a fetch gives: no such agent; the state after a fault or a wait of the fetch; or an instruction and the
state in which it issues. -/
inductive Fetched where
  | none
  | ended (s : State)
  | instr (s : State) (i : Instr)
  deriving DecidableEq, Repr

/-- The cause of words that are not an instruction: 0x0B where their sub-major is one that the mode may not issue,
else 0x01 (R76, R80). `x` is the word's extension bit: without it the word has no sub-major. -/
def rawCause (cc : Option Nat) (m : Mode) (x : Bool) (w e : Nat) : Nat :=
  if x && bit w 31 && bits w 24 4 == 15 then
    let sub := bits e 24 8
    let sys := fun (write : Bool) => Sys2Proof.sysCause cc m write (bit e 12) (bits e 0 10) == 0x0B
    let low := cc.isNone && m == .user
    if sub == 0x80 then (if low || sys false then 0x0B else 1)
    else if sub == 0x81 then (if low || sys true then 0x0B else 1)
    else if sub == 0x82 || sub == 0x86 then (if low then 0x0B else 1)
    else if sub == 0x83 then (if cc.isNone || (bits e 0 2 == 2 && m != .machine) then 0x0B else 1)
    else if sub == 0x84 || sub == 0x85 || sub == 0x88 then (if cc.isNone then 0x0B else 1)
    else 1
  else 1

/-- Slot of a program counter within its leaf. -/
def slotNo (pc : Nat) : Nat := pc % 32 / 4

/-- The state in which an instruction of an agent issues. -/
def issueState (s : State) (r : Run) (a : Agent) (stall : Nat) : State :=
  { finish s r with cur := { agent := a, stall := stall, port := 3, ended := .ok } }

/-- A trap or fault of the fetch leaves the agent as the one that issues. -/
def endedState (s : State) (r : Run) (a : Agent) (x : Ended) : Fetched :=
  .ended { finish s r with cur := { agent := a, stall := 0, port := 3, ended := x } }

/-- What the bytes of a leaf give an agent at `pc`: the instruction, or the trap that `trap` delivers. -/
def fromLeaf (s : State) (r : Run) (a : Agent) (cc : Option Nat) (m : Mode) (pc lead : Nat) (bs : List Byte)
    (trap : Nat → Nat → Run) : Fetched :=
  match decodeLeaf bs (slotNo pc) with
  | .ok (i, _, stall) => .instr (issueState s r a stall) i
  | .error x =>
    if x.isLeaf then endedState s (trap 2 (pc / 32 * 32)) a (.trap lead)
    else endedState s (trap (rawCause cc m (decide (8 ≤ slotField (wordAt bs 0) (slotNo pc))) (wordAt bs (slotNo pc)) (wordAt bs (slotNo pc + 1))) 0) a
      (.trap lead)

/-- Fetch by a split: an address that is not canonical, then the faults of its leaf, then a slot that holds no
instruction's first word (R80). -/
def fetchWarp (s : State) (w l : Nat) : Fetched :=
  let r := Run.of s
  let a := Agent.warp w l
  match lookM s.dev.warps w with
  | none => .none
  | some wp =>
    let lanes := wp.split l
    let lead := lanes.headD 0
    let pc := (nthD wp.lanes lead Lane.absent).pc
    let trap := fun (r : Run) (c t : Nat) => r.deliver w lanes c t lead pc
    let check := fun (row line : Nat) => endedState s (r.machineCheck (r.gridOf wp) wp.core 0x10 0 row line) a .check
    let sp := (r.spaceOfGrid (r.gridOf wp)).ofWarp wp.core wp.part
    if lanes.isEmpty then .none
    else if wp.spilled then endedState s r a .ok
    else if !canonical pc.toNat then endedState s (trap r 0x12 pc.toNat) a (.trap lead)
    else match r.xlate sp .fetch false (pc.toNat / 32 * 32) with
      | .fail c y =>
        if c = 6 then endedState s (r.pageFault w lanes lead pc.toNat 3 y) a .fault
        else if c = 0x10 then check rowMemory y
        else endedState s (trap r 7 pc.toNat) a (.trap lead)
      | .ok pa _ =>
        let node := r.nodeOf (r.gridOf wp)
        if !pcValid pc.toNat then endedState s (trap r 3 pc.toNat) a (.trap lead)
        else match r.poisonRow node (run pa 32) with
        | some row => check row (pa / 128 * 128)
        | none =>
          let (bs, r) := r.leafBytes wp.core node pa
          fromLeaf s r a none wp.mode pc.toNat lead bs (trap r)

/-- Fetch by a control core: physical, in no partition; CC3's ROM and firmware memory lie in a range that is reserved to every
other fetch: that fault comes before those of the slot (R80, R315, R365, R377, R387). -/
def fetchCc (s : State) (k : Nat) : Fetched :=
  let r := Run.of s
  let a := Agent.cc k
  if 4 ≤ k || !s.dev.sys.ccrun.getLsbD k then .none
  else
    let pc := (r.cc k).pc
    let pa := pc.toNat / 32 * 32
    let trap := fun (r : Run) (c t : Nat) => r.ccTrap k c t pc
    if !inRom k pa && isReserved pa && !isFirmware pa then endedState s (trap r 7 pc.toNat) a (.trap 0)
    else if !pcValid pc.toNat then endedState s (trap r 3 pc.toNat) a (.trap 0)
    else if inRom k pa then fromLeaf s r a (some k) (r.cc k).mode pc.toNat 0 (romLeaf pa) (trap r)
    else if r.poisoned none (run pa 32) then endedState s (r.haltCc k true) a .check
    else
      let (bs, r) := r.homeRead none pa 32
      fromLeaf s r a (some k) (r.cc k).mode pc.toNat 0 bs (trap r)

end Sys2Proof.Machine
end

