-- ==== Sys2Proof/Machine/Stream.lean ====
section
/-! DEFINITION. Quires and stream engines (chapter 12): the quire instructions, the command language, and the steps of transfers. -/

namespace Sys2Proof.Machine

/-! ### Quires (R183 to R192) -/

/-- The member of a team's gang that a core is. -/
def Run.memberOf (r : Run) (t core : Nat) : Nat :=
  match r.team t with
  | some tm => tm.cores.findIdx (fun c => c == core)
  | none => 0

/-- Idle: every slot empty, no transfer in progress (R188). -/
def Quire.idle (q : Quire) : Bool := q.slots.all (fun x => x.2 == 0)

/-- The geometry of R183. -/
def bindOk (member teamsz base size n w : Nat) : Bool :=
  base % 128 == 0 && decide (base < 2 ^ 23) && size % 128 == 0 && decide (128 ≤ size) && decide (size ≤ 65536) &&
    [2, 4, 8, 16, 32, 64].contains n && decide (1 ≤ w) && decide (w ≤ n) &&
    decide (base % 2 ^ 19 + n * size ≤ teamsz) && base / 2 ^ 19 == member

def Quire.start (base size n w : Nat) (out : Bool) : Quire :=
  { base := base, size := size, count := n, win := w, out := out, broken := false, f := 0, c := 0, slots := [] }

/-- QBIND's status and effect (R188). -/
def Run.qbind (r : Run) (core team g n : Nat) (out : Bool) (base size cnt w : Nat) : Nat × Run :=
  let old := r.quire core team n
  let put := fun (f : Map Quire → Map Quire) => r.modCore core (fun c => { c with quires := f c.quires })
  if (match old with
    | some q => !q.idle
    | none => false) then (4, r)
  else if cnt = 0 then (1, put (fun m => delM m (quireKey team n)))
  else if !bindOk (r.memberOf team core) (r.teamGeom g).2 base size cnt w then (3, r)
  else
    let others := (r.core core).quires.filter (fun e => e.1 != quireKey team n)
    if 256 ≤ others.length ∨ 4096 < others.foldl (fun a e => a + e.2.count) 0 + cnt then (2, r)
    else (0, put (fun m => putM m (quireKey team n) (Quire.start base size cnt w out)))

def execQbind (g d a : Nat) (out : Bool) (n : Nat) (s : State) : Host.Outcome State Fault Refusal :=
  uniOp (.qbind g d a out n) g (fun r e =>
    let x := fun (i : Nat) => (e.us (a + i)).toNat
    let (st, r) := r.qbind e.wp.core e.wp.team e.grid n out (x 0) (x 1) (x 2) (x 3)
    .done (r.putS e d (word st))) s

/-- QWAIT: a readiness condition (R190). -/
def execQwait (g d a n : Nat) (s : State) : Host.Outcome State Fault Refusal :=
  uniOp (.qwait g d a n) g (fun r e =>
    match r.quire e.wp.core e.wp.team n with
    | none => .trap 0x0D n e.lead
    | some q =>
      if e.met || q.usable (e.us a).toNat then .done (r.putS e d 0)
      else if q.broken then .done (r.putS e d 1)
      else .wait .quire) s

/-- The effect of QREL on its quire. -/
def Quire.release (q : Quire) (k : Nat) : Quire :=
  let i := k % q.count
  if q.out then { q with slots := putD q.slots i 2 0, f := q.f + 1 } else { q with slots := delM q.slots i, c := q.c + 1 }

/-- The state in which QREL finds a slot to release. -/
def Quire.releasable (q : Quire) (k : Nat) : Bool := q.slot k == (if q.out then 0 else 2)

/-- QREL: accesses placed before it are performed when they issue, so nothing is left to wait for on an in quire; on an
out quire it is a team-scope release (R152, R191). -/
def execQrel (g d a n : Nat) (s : State) : Host.Outcome State Fault Refusal :=
  uniOp (.qrel g d a n) g (fun r e =>
    let k := (e.us a).toNat
    match r.quire e.wp.core e.wp.team n with
    | none => .trap 0x0D n e.lead
    | some q =>
      let go := fun (r : Run) => Ret.done ((r.modQuire e.wp.core e.wp.team n (fun q => q.release k)).putS e d 0)
      if !q.releasable k then .done (r.putS e d 1)
      else if q.out then r.released e e.lanes 1 false go
      else go r) s

/-- QSTAT's word (R192, Table 12.4). -/
def Quire.stat (q : Quire) (sel : Nat) : Nat :=
  if sel < 4 then (List.range 16).foldl (fun a j => a + lookD q.slots (16 * sel + j) 0 * 2 ^ (2 * j)) 0
  else if sel = 4 then q.c % 65536 * 65536 + q.f % 65536
  else 2 ^ 31 + boolN q.broken * 2 ^ 30 + boolN q.out * 2 ^ 29 + q.count * 2 ^ 22 + q.win * 2 ^ 15 + (q.size / 128 - 1) * 2 ^ 5

def execQstat (g d sel n : Nat) (s : State) : Host.Outcome State Fault Refusal :=
  uniOp (.qstat g d sel n) g (fun r e =>
    .done (r.putS e d (word (match r.quire e.wp.core e.wp.team n with
      | some q => q.stat sel
      | none => 0)))) s

/-! ### Starting and cancelling lists (R189, R193) -/

/-- Whether a list position of an engine is taken. -/
def Run.posBusy (r : Run) (l : Nat) : Bool :=
  match lookM r.dev.lists l with
  | some x => x.running
  | none => false

/-- Whether an engine is in the core's stack and its partition's own (R16, R189, R328). -/
def Run.engineOk (r : Run) (core e : Nat) : Bool :=
  decide (e < 32) && e / 16 == stackOf core && (match (r.partOfCore core).bind r.part with
    | some p => p.eng.getLsbD e
    | none => false)

/-- Free positions of the engines that a request may use. -/
def Run.freePos (r : Run) (core : Nat) (eng : Option Nat) : List Nat :=
  (List.range 512).filter (fun l => r.engineOk core (l / 16) && !r.posBusy l && (match eng with
    | some e => l / 16 == e
    | none => true))

/-- A list at its start (R195). -/
def CmdList.start (gen team grid warp first : Nat) : CmdList :=
  { running := true, gen := gen, team := team, grid := grid, warp := warp, first := first, pos := first, database := 0, indexbase := 0,
    count := [1, 1, 1, 1], stride := [0, 0, 0, 0], idx := [0, 0, 0, 0], tile := none, conv := 0, loops := [], named := [],
    transfers := [], done := 0, gwct := 0, cancel := false, handle := false, aborting := none }

/-- A list's identifier; its key is position plus 16 times engine. -/
def listId (l gen : Nat) : Nat := gen * 2 ^ 16 + l

/-- SEGO's failures, in the order engine, address, status doubleword, position (R189): one that fails starts nothing, and is no
release (R386). -/
def Run.segoFail (r : Run) (e : Env) (eng : Option Nat) (va : Nat) : Option Nat :=
  let bad := match eng with
    | some x => !r.engineOk e.wp.core x
    | none => false
  if bad then some 0x80000002
  else if va % 8 ≠ 0 ∨ !canonical va then some 0x80000003
  else match r.xlate1 (r.spaceAt e) .store ((va + 2 ^ 64 - 8) % 2 ^ 64) 8 with
    | none => some 0x80000004
    | some _ => if (r.freePos e.wp.core eng).isEmpty then some 0x80000001 else none

/-- Assigns one of the free positions, by free choice: its generation counts the assignments (R189). -/
def Run.assign (r : Run) (free : List Nat) (team grid warp first : Nat) (handle : Bool) : Nat × Nat × Run :=
  let l := nthD free (r.pick 1 free.length) 0
  let gen := ((match lookM r.dev.lists l with
    | some x => x.gen
    | none => 0) + 1) % 256
  let x := { CmdList.start gen team grid warp first with handle := handle }
  (l, gen, { r with dev := { r.dev with lists := putM r.dev.lists l x } })

/-- Puts a list in one of the free positions and writes its status as running. -/
def Run.sego (r : Run) (e : Env) (eng : Option Nat) (va : Nat) : Nat × Run :=
  let (l, gen, r) := r.assign (r.freePos e.wp.core eng) e.wp.team e.grid e.w va false
  (listId l gen, r.listStatus l 1 0)

def execSego (o : UXOp) (any : Bool) (s : State) : Host.Outcome State Fault Refusal :=
  uniOp (.sego o any) o.g (fun r e =>
    let va := e.us2 o.a
    let eng := if any then none else some (e.us o.b).toNat
    match r.segoFail e eng va with
    | some c => .done (r.putS e o.d (word c))
    | none => r.released e everyLane 2 false (fun r =>
        let (v, r) := r.sego e eng va
        .done (r.putS e o.d (word v)))) s

/-- SECAN: the list issues nothing more and ends at its own step (R193, R201). -/
def execSecan (g d a : Nat) (s : State) : Host.Outcome State Fault Refusal :=
  uniOp (.secan g d a) g (fun r e =>
    let id := (e.us a).toNat
    match lookM r.dev.lists (id % 512) with
    | some x =>
      if x.running && !x.handle && x.aborting.isNone && id == listId (id % 512) x.gen then
        .done ((r.modList (id % 512) (fun y => { y with cancel := true })).putS e d 0)
      else .done (r.putS e d 1)
    | none => .done (r.putS e d 1)) s

/-- A cancelled list ends (R201); one that has ended writes its status when it may. -/
def execListCancelled (e p : Nat) (s : State) : Host.Outcome State Fault Refusal :=
  act (fun r =>
    let l := e * 16 + p
    match lookM r.dev.lists l with
    | some x =>
      if !x.running then r
      else if x.aborting.isSome then r.listFinish l
      else if x.cancel then r.listAbort l 0x14 x.firstOpen
      else r
    | none => r) s

/-! ### The bytes of a transfer (R195, R197, R199) -/

/-- Physical addresses of bytes within one page; an engine's code where it aborts. -/
def Run.engSpan (r : Run) (sp : ASpace) (a : Acc) (va n : Nat) : Except Nat (List Nat × Bool) :=
  if !canonical va then .error 0x11
  else match r.xlate sp a false va with
    | .ok pa rem => .ok (run pa n, rem)
    | .fail c _ => .error (if c = 0x10 then 0x15 else 0x11)

/-- Physical addresses of the `n` bytes of a row, at most two pages. -/
def Run.rowPas (r : Run) (sp : ASpace) (a : Acc) (va n : Nat) : Except Nat (List Nat × Bool) :=
  let k := 65536 - va % 65536
  if n ≤ k then r.engSpan sp a va n
  else match r.engSpan sp a va k with
    | .error c => .error c
    | .ok (xs, y) => match r.engSpan sp a ((va + k) % 2 ^ 64) (n - k) with
      | .error c => .error c
      | .ok (zs, y') => .ok (xs ++ zs, y || y')

/-- Reads scattered bytes at their homes. -/
def Run.homeReadL (r : Run) (node : Option Nat) (pas : List Nat) : List Byte × Run :=
  let r := ((pas.map (fun pa => nkey node pa / 128)).foldl addNew []).foldl (fun r k => r.recallLine k) r
  (pas.map (r.hread node), r)

/-- A row as an engine reads it: an abort code, or its bytes. -/
def Run.rowRead (r : Run) (sp : ASpace) (node : Option Nat) (va n : Nat) : Except Nat (List Byte × Run) :=
  match r.rowPas sp .load va n with
  | .error c => .error c
  | .ok (pas, _) => if r.poisoned node pas then .error 0x15 else .ok (r.homeReadL node pas)

/-- The rows at a list of addresses. -/
def Run.rowsRead (r : Run) (sp : ASpace) (node : Option Nat) (n : Nat) : List Nat → Except Nat (List (List Byte) × Run)
  | [] => .ok ([], r)
  | va :: vas =>
    match r.rowRead sp node va n with
    | .error c => .error c
    | .ok (bs, r) => match r.rowsRead sp node n vas with
      | .error c => .error c
      | .ok (bss, r) => .ok (bs :: bss, r)

/-- Source unit and output bytes per row of a conversion mode (Table 12.7). -/
def convUnit (mode : Nat) : Nat := if mode = 5 then 32 else if 3 ≤ mode then 2 else 4

def convOut (mode rb : Nat) : Nat := if mode = 0 ∨ mode = 5 then rb else rb / 2

/-- One element of a floating conversion: RNE, saturating (R199). -/
def convElem (mode x : Nat) : Nat :=
  let cv := fun (t u : Fmt) => (roundV t .rne true (decodeF u x)).bits
  match mode with
  | 1 => cv Fmt.bf16 Fmt.f32
  | 2 => cv Fmt.f16 Fmt.f32
  | 3 => cv Fmt.e4 Fmt.f16
  | _ => cv Fmt.e5 Fmt.f16

/-- A string cut in pieces of `k` bytes. -/
def pieces (k : Nat) : Nat → List Byte → List (List Byte)
  | 0, _ => []
  | n + 1, bs => if bs.isEmpty then [] else bs.take k :: pieces k n (bs.drop k)

/-- The bit-plane tensor of INT8 elements (R48), 8 elements to a byte. -/
def planesOf (bs : List Byte) : List Byte :=
  (List.range 8).flatMap (fun j => (pieces 8 bs.length bs).map (fun p =>
    BitVec.ofNat 8 ((List.zip (List.range 8) p).foldl (fun a e => a + boolN (e.2.getLsbD (7 - j)) * 2 ^ e.1) 0)))

def convRow (mode : Nat) (bs : List Byte) : List Byte :=
  match mode with
  | 0 => bs
  | 5 => planesOf bs
  | m => (pieces (convUnit m) bs.length bs).flatMap (fun p => bytesOf (convUnit m / 2) (convElem m (ofBytes p)))

/-! ### List positions -/

/-- What a command answers: the next command, a command elsewhere, no effect yet, the end, or an abort code. -/
inductive LRet where
  | next (r : Run)
  | jump (r : Run) (pos : Nat)
  | wait
  | ended (r : Run)
  | abort (code : Nat)
  deriving DecidableEq, Repr

def Run.listSettle (r0 : Run) (l : Nat) (x : CmdList) : LRet → Run
  | .next r => r.modList l (fun y => { y with pos := y.pos + 8 })
  | .jump r p => r.modList l (fun y => { y with pos := p })
  | .wait => r0
  | .ended r => r
  | .abort c => r0.listAbort l c ((x.pos - x.first) / 8)

/-- A list position that has a command to run: a cancelled list issues none (R201). -/
def CmdList.ready (x : CmdList) : Bool := x.running && x.aborting.isNone && !x.cancel && !x.handle

/-- A command of the list whose turn it is; fields out of range abort it (R196). -/
def listOp (i : Instr) (f : Run → Nat → CmdList → LRet) (s : State) : Host.Outcome State Fault Refusal :=
  match s.cur.agent with
  | .list e p =>
    let l := e * 16 + p
    match lookM s.dev.lists l with
    | some x =>
      if x.ready then .next (finish s ((Run.of s).listSettle l x (if i.wf then f (Run.of s) l x else .abort 0x13)))
      else .fault .noIssuer
    | none => .fault .noIssuer
  | _ => .fault .noIssuer

def execStreamNop (s : State) : Host.Outcome State Fault Refusal := listOp .streamNop (fun r _ _ => .next r) s

def execBase (index : Bool) (addr : Nat) (s : State) : Host.Outcome State Fault Refusal :=
  listOp (.base index addr) (fun r l _ => .next (r.modList l (fun y =>
    if index then { y with indexbase := addr } else { y with database := addr }))) s

/-- Whether a loop is open on a dimension. -/
def CmdList.isOpen (x : CmdList) (d : Nat) : Bool := x.loops.any (fun p => p.1 == d)

def execDim (d count : Nat) (stride : Int) (s : State) : Host.Outcome State Fault Refusal :=
  listOp (.dim d count stride) (fun r l x =>
    if x.isOpen d then .abort 0x13
    else .next (r.modList l (fun y => { y with
      count := setNth y.count d count, stride := setNth y.stride d stride, idx := setNth y.idx d 0 }))) s

def execTile (rows rowBytes : Nat) (pitch : Int) (s : State) : Host.Outcome State Fault Refusal :=
  listOp (.tile rows rowBytes pitch) (fun r l _ => .next (r.modList l (fun y => { y with tile := some (rows, rowBytes, pitch) }))) s

def execConv (mode : Nat) (s : State) : Host.Outcome State Fault Refusal :=
  listOp (.conv mode) (fun r l _ => .next (r.modList l (fun y => { y with conv := mode }))) s

def execLoop (d : Nat) (s : State) : Host.Outcome State Fault Refusal :=
  listOp (.loop d) (fun r l x =>
    if x.isOpen d then .abort 0x13
    else .next (r.modList l (fun y => { y with idx := setNth y.idx d 0, loops := (d, y.pos + 8) :: y.loops }))) s

/-- NEXT (R200). -/
def execNext (d : Nat) (s : State) : Host.Outcome State Fault Refusal :=
  listOp (.next d) (fun r l x =>
    match x.loops with
    | [] => .abort 0x13
    | (e, body) :: ls =>
      if e ≠ d then .abort 0x13
      else
        let i := nthD x.idx d 0 + 1
        if i < nthD x.count d 0 then .jump (r.modList l (fun y => { y with idx := setNth y.idx d i })) body
        else .next (r.modList l (fun y => { y with idx := setNth y.idx d 0, loops := ls }))) s

/-- The current address (R195). -/
def CmdList.addr (x : CmdList) : Nat :=
  ux ((x.database : Int) + (List.range 4).foldl (fun a d => a + ((nthD x.idx d (0 : Nat) : Nat) : Int) * nthD x.stride d 0) 0) 64

/-- The address `k` pitches from `a`. -/
def pitched (a k : Nat) (pitch : Int) : Nat := ux ((a : Int) + k * pitch) 64

/-- Names of a transfer's quires enter the list's record of them (R201). -/
def addNames (l : List (Nat × Nat)) (q : Nat) (ms : List Nat) : List (Nat × Nat) :=
  ms.foldl (fun a m => if a.contains (m, q) then a else a ++ [(m, q)]) l

/-- A transfer that has started. -/
def Run.startTransfer (r : Run) (l q : Nat) (ms : List Nat) (t : Transfer) : Run :=
  let (id, r) := r.freshId
  r.modList l (fun y => { y with transfers := putM y.transfers id t, named := addNames y.named q ms })

/-- The named members' quires with their cores. -/
def Run.quiresOf (r : Run) (x : CmdList) (q : Nat) (ms : List Nat) : List (Nat × Nat × Option Quire) :=
  ms.map (fun m => (m, r.memberCore x.team m, r.quire (r.memberCore x.team m) x.team q))

/-- The checks of R197 that abort a fill, in the order of its list: where an unbound quire and a cause of 0x13 named after it both hold, the
code is 0x12. [DESIGN CHOICE, unsafe] (entry 131) -/
def fillBad (x : CmdList) (gang mask : Nat) (qs : List (Nat × Nat × Option Quire)) : Option Nat :=
  match x.tile with
  | none => some 0x13
  | some (rows, rb, _) =>
    if mask = 0 ∨ 2 ^ gang ≤ mask then some 0x13
    else if qs.any (fun y => y.2.2.isNone) then some 0x12
    else if qs.any (fun y => match y.2.2 with
        | some q => q.out || decide (q.size < rows * convOut x.conv rb)
        | none => false) then some 0x13
    else if rb % convUnit x.conv ≠ 0 then some 0x13
    else none

/-- A fill may start on every named member, none of whose cores is saved (R183, R185). -/
def Run.fillFree (r : Run) (team : Nat) (qs : List (Nat × Nat × Option Quire)) : Bool :=
  !r.teamSaved team && qs.all (fun y => (match y.2.2 with
    | some q => decide (q.f < q.c + q.win) && q.slot q.f == 0
    | none => false))

/-- A fill begins with the rows it has read: each named member's slot is in transfer (R184, R197). -/
def Run.fillBegin (r : Run) (l q : Nat) (x : CmdList) (ms : List Nat) (qs : List (Nat × Nat × Option Quire))
    (rows : List (List Byte)) : Run :=
  let bytes := (rows.map (convRow x.conv)).flatten
  let parts := qs.map (fun y => (y.1, (match y.2.2 with
    | some q => q.f
    | none => 0), false))
  let r := qs.foldl (fun r y => r.modQuire y.2.1 x.team q (fun z =>
    { z with slots := putD z.slots (z.f % z.count) 1 0, f := z.f + 1 })) r
  r.startTransfer l q ms { pull := false, quire := q, parts := parts, index := (x.pos - x.first) / 8,
                           data := List.zip (List.range bytes.length) bytes }

/-- Starts a fill with rows read from the given addresses. -/
def Run.fillStart (r : Run) (l q : Nat) (x : CmdList) (ms : List Nat) (qs : List (Nat × Nat × Option Quire)) (rb ib : Nat)
    (vas : List Nat) : LRet :=
  let g := x.grid
  match r.rowsRead ((r.spaceOfGrid g).ofStack (l / 256)) (r.nodeOf g) rb vas with
  | .error c => .abort c
  | .ok (rows, r) => .next ((r.fillBegin l q x ms qs rows).modList l (fun y => { y with indexbase := ib }))

/-- The members that a mask names. -/
def membersOf (mask : Nat) : List Nat := bitsOf mask 16

/-- Size of the gang of a list's team. -/
def Run.gangOf (r : Run) (x : CmdList) : Nat :=
  match r.team x.team with
  | some t => t.cores.length
  | none => 0

/-- The quires that a command names on members of the gang are among those of the list (R201). -/
def Run.nameQuires (r : Run) (l q : Nat) (x : CmdList) (mask : Nat) : Run :=
  r.modList l (fun y => { y with named := addNames y.named q ((membersOf mask).filter (fun m => decide (m < r.gangOf x))) })

/-- PUSH, PULL or GATH: one that waits or aborts the list has named its quires as one that starts its transfer has (R201).
[DEDUCED] (entry 84) -/
def transferOp (i : Instr) (q mask : Nat) (f : Run → Nat → CmdList → LRet) (s : State) : Host.Outcome State Fault Refusal :=
  match s.cur.agent with
  | .list e p =>
    let l := e * 16 + p
    match lookM s.dev.lists l with
    | some x =>
      if x.ready then
        let r := Run.of s
        .next (finish s (match if i.wf then f r l x else .abort 0x13 with
          | .wait => r.nameQuires l q x mask
          | .abort c => (r.nameQuires l q x mask).listAbort l c ((x.pos - x.first) / 8)
          | y => r.listSettle l x y))
      else .fault .noIssuer
    | none => .fault .noIssuer
  | _ => .fault .noIssuer

/-- PUSH: rows at a + j × pitch (R197). -/
def execPush (q mask : Nat) (s : State) : Host.Outcome State Fault Refusal :=
  transferOp (.push q mask) q mask (fun r l x =>
    let ms := membersOf mask
    let qs := r.quiresOf x q ms
    match fillBad x (r.gangOf x) mask qs with
    | some c => .abort c
    | none =>
      if !r.fillFree x.team qs then .wait
      else
        let (rows, rb, pitch) := x.tile.getD (0, 0, 0)
        r.fillStart l q x ms qs rb x.indexbase ((List.range rows).map (fun j => pitched x.addr j pitch))) s

/-- GATH: rows chosen by index words (R197). -/
def execGath (q mask : Nat) (s : State) : Host.Outcome State Fault Refusal :=
  transferOp (.gath q mask) q mask (fun r l x =>
    let ms := membersOf mask
    let qs := r.quiresOf x q ms
    match fillBad x (r.gangOf x) mask qs with
    | some c => .abort c
    | none =>
      if !r.fillFree x.team qs then .wait
      else
        let (rows, rb, pitch) := x.tile.getD (0, 0, 0)
        let g := x.grid
        match r.rowsRead ((r.spaceOfGrid g).ofStack (l / 256)) (r.nodeOf g) 4 ((List.range rows).map (fun j => (x.indexbase + 4 * j) % 2 ^ 64)) with
        | .error c => .abort c
        | .ok (ix, r) =>
          r.fillStart l q x ms qs rb ((x.indexbase + 4 * rows) % 2 ^ 64) (ix.map (fun w => pitched x.addr (ofBytes w) pitch))) s

/-- Physical addresses of a drain's rows. -/
def Run.rowsPas (r : Run) (sp : ASpace) (n : Nat) : List Nat → Except Nat (List Nat × Bool)
  | [] => .ok ([], false)
  | va :: vas =>
    match r.rowPas sp .store va n with
    | .error c => .error c
    | .ok (ps, y) => match r.rowsPas sp n vas with
      | .error c => .error c
      | .ok (qs, y') => .ok (ps ++ qs, y || y')

/-- Slots of a quire that are draining. -/
def Quire.draining (q : Quire) : Nat := (q.slots.filter (fun x => x.2 == 3)).length

/-- Starts the drain of sequence C (R198); the slot's bytes and their places are taken as it starts. -/
def Run.drainStart (r : Run) (l q : Nat) (x : CmdList) (m core : Nat) (z : Quire) (rows rb : Nat) (pitch : Int) : LRet :=
  let g := x.grid
  match r.rowsPas ((r.spaceOfGrid g).ofStack (l / 256)) rb ((List.range rows).map (fun j => pitched x.addr j pitch)) with
  | .error c => .abort c
  | .ok (pas, rem) =>
    let base := z.base + z.c % z.count * z.size
    if r.tpoisoned x.team base (rows * rb) then .abort 0x15
    else
      let bs := r.treadN x.team base (rows * rb)
      let r := if rem then (r.demoteNow g).getD r else r
      let r := r.modQuire core x.team q (fun z => { z with slots := putD z.slots (z.c % z.count) 3 0, c := z.c + 1 })
      let t : Transfer := { pull := true, quire := q, parts := [(m, z.c, false)], index := (x.pos - x.first) / 8,
                            data := List.zip pas bs }
      .next (r.startTransfer l q [m] t)

/-- PULL (R198): an unbound quire comes before a conversion mode other than 0. [DESIGN CHOICE, unsafe] (entry 131) -/
def execPull (q mask : Nat) (s : State) : Host.Outcome State Fault Refusal :=
  transferOp (.pull q mask) q mask (fun r l x =>
    match membersOf mask, x.tile with
    | [m], some (rows, rb, pitch) =>
      let core := r.memberCore x.team m
      if r.gangOf x ≤ m then .abort 0x13
      else match r.quire core x.team q with
        | none => .abort 0x12
        | some z =>
          if !z.out || x.conv != 0 || decide (z.size < rows * rb) then .abort 0x13
          else if r.teamSaved x.team || z.slot z.c != 2 || decide (z.win ≤ z.draining) then .wait
          else r.drainStart l q x m core z rows rb pitch
    | _, _ => .abort 0x13) s

/-- SIG (R202): one to a remote page that demotes its node first waits until what has been committed is visible (R156, R358). -/
def execSig (addr : Nat) (s : State) : Host.Outcome State Fault Refusal :=
  listOp (.sig addr) (fun r l x =>
    if !r.settled x then .wait
    else
      let g := x.grid
      match r.rowPas ((r.spaceOfGrid g).ofStack (l / 256)) .store addr 8 with
      | .error c => .abort c
      | .ok (pas, rem) =>
        let pa := pas.headD 0
        match (if rem then r.demoteNow g else none) with
        | some r => .jump r x.pos
        | none =>
        let r := (r.by' g).homeWrite (r.nodeOf g) pa (bytesOf 8 x.done)
        .next (r.modList l (fun y => { y with gwct := max y.gwct (r.gwctOf pa) }))) s

/-- STOP (R202): the list is done and gives up its position. -/
def execStop (s : State) : Host.Outcome State Fault Refusal :=
  listOp .stop (fun r l x =>
    if !r.settled x then .wait
    else .ended ((r.listStatus l 2 ((x.pos - x.first) / 8)).modList l (fun y => { y with running := false }))) s

/-! ### Steps of transfers (R184) -/

/-- The list that a transfer belongs to. -/
def Run.findTransfer (r : Run) (t : Nat) : Option (Nat × CmdList × Transfer) :=
  r.dev.lists.findSome? (fun e => if e.2.running then (lookM e.2.transfers t).map (fun x => (e.1, e.2, x)) else none)

/-- A lower sequence of the same quire is still in transfer. One whose fill an abort has stopped (R201) no longer holds a higher one back,
which would otherwise never become ready. [DESIGN CHOICE, unsafe] (entry 130) -/
def Run.lowerOpen (r : Run) (team m q seq : Nat) (pull : Bool) : Bool :=
  r.dev.lists.any (fun e => e.2.running && e.2.team == team && e.2.transfers.any (fun y => y.2.pull == pull && y.2.quire == q &&
    y.2.parts.any (fun p => p.1 == m && decide (p.2.1 < seq) && !p.2.2)))

/-- A part of a transfer is done; the last one completes it. -/
def Run.partDone (r : Run) (l t m : Nat) : Run :=
  r.modList l (fun y =>
    match lookM y.transfers t with
    | some x =>
      let parts := x.parts.map (fun p => if p.1 = m then (p.1, p.2.1, true) else p)
      if parts.all (fun p => p.2.2) then { y with transfers := delM y.transfers t, done := y.done + 1 }
      else { y with transfers := putM y.transfers t { x with parts := parts } }
    | none => y)

/-- An in-quire slot becomes ready: the engine has written every byte of the tile there. Until then an ordinary access to a byte
of the slot reads the old value, and what it writes there is overwritten now; R186 leaves both open for each byte.
[DESIGN CHOICE, unsafe] (entry 27) -/
def execSlotReady (t core : Nat) (s : State) : Host.Outcome State Fault Refusal :=
  act (fun r =>
    match r.findTransfer t with
    | some (l, x, tr) =>
      match tr.parts.find? (fun p => !p.2.2 && r.memberCore x.team p.1 == core) with
      | some (m, seq, _) =>
        if tr.pull || r.teamSaved x.team || r.lowerOpen x.team m tr.quire seq false then r
        else match r.quire core x.team tr.quire with
          | some z =>
            let r := r.twrite x.team (z.base + seq % z.count * z.size) (tr.data.map (·.2))
            let r := r.modQuire core x.team tr.quire (fun z => { z with slots := putD z.slots (seq % z.count) 2 0 })
            r.partDone l t m
          | none => r
      | none => r
    | none => r) s

/-- A drain completes: every byte of the slot is applied at its home and the slot is empty. -/
def execDrainComplete (t : Nat) (s : State) : Host.Outcome State Fault Refusal :=
  act (fun r =>
    match r.findTransfer t with
    | some (l, x, tr) =>
      match tr.parts with
      | (m, seq, _) :: _ =>
        let core := r.memberCore x.team m
        if !tr.pull || r.teamSaved x.team || r.lowerOpen x.team m tr.quire seq true then r
        else
          let r := r.drainApply l x tr
          let r := r.modQuire core x.team tr.quire (fun z => { z with slots := delM z.slots (seq % z.count) })
          (r.partDone l t m).listFinish l
      | [] => r
    | none => r) s

/-! ### Fetch -/

/-- Fetch by a list position (R194 to R196): a command that cannot be read or is not one aborts the list. -/
def fetchList (s : State) (e p : Nat) : Fetched :=
  let r := Run.of s
  let l := e * 16 + p
  let a := Agent.list e p
  match lookM s.dev.lists l with
  | none => .none
  | some x =>
    if x.running && x.aborting.isNone && x.cancel then endedState s (r.listAbort l 0x14 x.firstOpen) a .ok
    else if !x.ready then .none
    else
      let g := x.grid
      let stop := fun (c : Nat) => endedState s (r.listAbort l c ((x.pos - x.first) / 8)) a .ok
      match r.rowRead ((r.spaceOfGrid g).ofStack (l / 256)) (r.nodeOf g) x.pos 8 with
      | .error c => stop c
      | .ok (bs, r) =>
        match decodeCommand (ofBytes bs) with
        | .ok i => .instr (issueState s r a 0) i
        | .error .badCommand => stop 0x10
        | .error _ => stop 0x13

/-- Fetch by the agent that a step names. -/
def State.fetch (s : State) (a : Agent) : Fetched :=
  match a with
  | .warp w l => fetchWarp s w l
  | .cc k => fetchCc s k
  | .list e p => fetchList s e p
  | .idle => .ended { s with cur := Issue.idle }

end Sys2Proof.Machine
end

