-- ==== Sys2Proof/Machine/Matrix.lean ====
section
/-! DEFINITION. The matrix array, its queue, operand memory and banks (chapter 13), and R58's sums. -/

namespace Sys2Proof.Machine

/-! ### Stores of bytes -/

/-- `n` bytes of a sorted map from `a` up; `d` gives the unlisted ones. -/
def sliceD (d : Nat → Byte) : Nat → Map Byte → Nat → List Byte
  | 0, _, _ => []
  | n + 1, m, a =>
    let m := m.dropWhile (fun e => decide (e.1 < a))
    (match m with
      | (k, v) :: _ => if k = a then v else d a
      | [] => d a) :: sliceD d n m (a + 1)

/-- The same where an unlisted byte is 0. -/
def sliceM (n : Nat) (m : Map Byte) (a : Nat) : List Byte := sliceD (fun _ => 0) n m a

/-- Puts a string into a sorted map whose unlisted bytes are 0. -/
def spliceM (m : Map Byte) (a : Nat) (bs : List Byte) : Map Byte :=
  m.filter (fun e => decide (e.1 < a)) ++
    (List.zip ((List.range bs.length).map (fun i => a + i)) bs).filter (fun e => e.2 != 0) ++
    m.filter (fun e => decide (a + bs.length ≤ e.1))

/-- Puts a string into a sorted map of which every listed byte counts. -/
def overlayM (m : Map Byte) (a : Nat) (bs : List Byte) : Map Byte :=
  m.filter (fun e => decide (e.1 < a)) ++ List.zip ((List.range bs.length).map (fun i => a + i)) bs ++
    m.filter (fun e => decide (a + bs.length ≤ e.1))

/-- Byte of a slot of operand memory. -/
def slotByte (slot off : Nat) : Nat := slot * 8192 + off

/-- Key of a bank of a team. -/
def bankKey (team bank : Nat) : Nat := team * 32 + bank

/-- Poison keys of operand memory, weight sets and banks (R352). -/
def slotWord (slot off : Nat) : Nat := slotByte slot off / 4
def setWord (set w : Nat) : Nat := 2 ^ 20 + set * 4096 + w
def bankWord (key w : Nat) : Nat := 2 ^ 30 + key * 8192 + w

/-- Poison of the `n` words from `k` up becomes that of the offsets given, with their rows. -/
def Core.setPoison (c : Core) (k n : Nat) (bad : Map Nat) : Core :=
  if c.xpoison.isEmpty && bad.isEmpty then c
  else { c with
    xpoison := bad.foldl (fun m e => putM m (k + e.1) e.2) (filterM c.xpoison (fun x _ => !(decide (k ≤ x) && decide (x < k + n)))) }

/-- Offsets and rows of the poisoned words among `n` from `k` up. -/
def Core.poisonIn (c : Core) (k n : Nat) : Map Nat :=
  (c.xpoison.filter (fun x => decide (k ≤ x.1) && decide (x.1 < k + n))).map (fun x => (x.1 - k, x.2))

/-- The row of the first poisoned word among `n` from `k` up. -/
def Core.poisonRow (c : Core) (k n : Nat) : Option Nat := (c.poisonIn k n).head?.map (·.2)

/-- A bank of a team: one that nothing has written holds what it held before (R205). -/
def Core.bank (c : Core) (key : Nat) : Bank := lookD c.banks key { clear := false, data := [] }

/-- `n` bytes of a bank from `a` up. -/
def Core.bankBytes (c : Core) (key n a : Nat) : List Byte :=
  let b := c.bank key
  sliceD (fun i => if b.clear then 0 else Config.freeBank (key * 32768 + i)) n b.data a

/-- A string written into a bank. -/
def Bank.put (b : Bank) (a : Nat) (bs : List Byte) : Bank :=
  { b with data := if b.clear then spliceM b.data a bs else overlayM b.data a bs }

/-! ### Formats (R207 to R209) -/

/-- Element bytes of a format. -/
def fmtBytes (f : Nat) : Nat := if f = 2 ∨ f = 3 then 2 else 1

/-- Activation row bytes. -/
def actRow (f : Nat) : Nat := 128 * fmtBytes f

/-- Whether a format is of planes. -/
def isPlanes (f : Nat) : Bool := decide (4 ≤ f)

def mFmt (f : Nat) : Fmt := if f = 0 then Fmt.e4 else if f = 1 then Fmt.e5 else if f = 2 then Fmt.f16 else Fmt.bf16

/-- Planes that are read. -/
def planesRead (f p : Nat) : Nat := if f = 4 then 8 else p

/-- Element `e` of a bit-plane row of `n` elements read at `p` planes, as the value it stands for (R49, R209). -/
def planeVal (row : List Byte) (n p e : Nat) : Int :=
  let q := (List.range p).foldl (fun a j => 2 * a + boolN ((nthD row (n / 8 * j + e / 8) 0).getLsbD (e % 8))) 0
  sx q p * 2 ^ (8 - p)

/-- A row's elements as exact values of a floating format. -/
def rowVals (f : Nat) (row : List Byte) : List Val :=
  (pieces (fmtBytes f) row.length row).map (fun p => decodeF (mFmt f) (ofBytes p))

/-- A row's elements as integers. -/
def rowInts (n p : Nat) (row : List Byte) : List Int := (List.range n).map (fun e => planeVal row n p e)

/-! ### Sums (R58, R219) -/

/-- The exact sum of products of one group. -/
def groupSum (a w : List Val) : Val :=
  match (List.zipWith (fun x y => (mulV x y).1) a w) with
  | [] => .fin false 0 0
  | v :: vs => vs.foldl (fun s x => (addV .rne s x).1) v

/-- t of R58 for floating formats. -/
def dotF (a w : List Val) : Nat :=
  let gs := (List.range 8).map (fun g =>
    (roundV Fmt.f32 .rne false (groupSum ((a.drop (16 * g)).take 16) ((w.drop (16 * g)).take 16))).bits)
  match gs with
  | [] => 0
  | t :: ts => ts.foldl add32 t

/-- t of R58 for integers: INT32, wrapping. -/
def dotI (a w : List Int) : Nat := ux ((List.zipWith (fun x y => x * y) a w).foldl (fun s x => s + x) 0) 32

/-- One output of the transform of a group of values: the exact sum times 2^scale (R219). -/
def hadVal (scale : Int) (xs : List Val) (i : Nat) : Val :=
  let sgn := fun (j : Nat) (v : Val) => if (bitsOf (i &&& j) 8).length % 2 = 1 then v.neg else v
  let bad := xs.any Val.isNan || (xs.any (fun v => v == .inf true) && xs.any (fun v => v == .inf false))
  if bad then .nan false
  else match (List.zip (List.range xs.length) xs).map (fun e => sgn e.1 e.2) with
    | [] => .fin false 0 0
    | v :: vs => match vs.foldl (fun s x => (addV .rne s x).1) v with
      | .fin n k e => .fin n k (e + scale)
      | y => y

/-- The transform of a row in groups of `h`, rounded into a format. -/
def hadRow (t : Fmt) (sat : Bool) (h : Nat) (scale : Int) : Nat → List Val → List Nat
  | 0, _ => []
  | n + 1, xs =>
    if xs.isEmpty then []
    else (List.range h).map (fun i => (roundV t .rne sat (hadVal scale (xs.take h) i)).bits) ++ hadRow t sat h scale n (xs.drop h)

/-! ### Resources (R205, R212) -/

/-- Slots that an activation operand takes. -/
def slotsFor (rows f : Nat) : Nat := (rows * actRow f + 8191) / 8192

/-- The resources an operation names: slots, 64 plus set, 128 plus bank. -/
def MOp.names : MOp → List Nat
  | .mlds _ slot _ _ => [slot]
  | .mldsQ _ _ slot _ _ => [slot]
  | .mwld slot set f _ => (if fmtBytes f = 2 then [slot, slot + 1] else [slot]) ++ [64 + set]
  | .mma slot rows _ f _ _ _ bank set h =>
    (if h.isSome then [] else run slot (slotsFor rows f)) ++ [64 + set, 128 + bank] ++ (if 128 < rows then [129 + bank] else [])
  | .mhad slot _ _ _ => [slot]
  | .maccSt bank _ _ _ => [128 + bank]
  | .maccLd bank _ _ _ => [128 + bank]
  | .mzero bank => [128 + bank]
  | .mrel set first count _ => if set then [64 + first] else run first count

/-- Two entries of a queue name a common resource: a bank is the team's own. -/
def QOp.shares (a b : QOp) : Bool :=
  a.op.names.any (fun n => b.op.names.contains n && (decide (n < 128) || a.team == b.team))

/-- Whether a bank is busy (R212). -/
def Core.busyBank (c : Core) (team bank : Nat) : Bool :=
  c.queue.any (fun e => e.2.team == team && e.2.op.names.contains (128 + bank))

/-- TADDR of a run-time value out of its limits (R211). -/
def limAddr (i : Nat) : Nat := 2 ^ 64 - 16 + i

/-- The declared banks of a grid. -/
def Run.banksOf (r : Run) (g : Nat) : Nat :=
  match r.grid g with
  | some x => x.pkt.banks
  | none => 0

/-- A bank that a matrix instruction may name (R206, R211). -/
def Run.bankOk (r : Run) (e : Env) (b : Nat) : Bool :=
  decide (b < r.banksOf e.grid) && (lookM (r.core e.wp.core).cbinds (bankKey e.wp.team b)).isNone

/-- The first slot of a run that the team has not claimed. -/
def Run.unclaimed (r : Run) (e : Env) (first n : Nat) : Option Nat :=
  (run first n).find? (fun s => lookM (r.core e.wp.core).slotOwner s != some e.wp.team)

def Run.setMine (r : Run) (e : Env) (set : Nat) : Bool := lookM (r.core e.wp.core).setOwner set == some e.wp.team

/-- The place of an operation in its core's queue: by the cycle of its issue, then by the partition of its warp (R212); `n` orders the
operations of one partition. -/
def queueKey (cycle part n : Nat) : Nat := (cycle * 4 + part) * 2 ^ 64 + n

/-- The cycle in which an operation was issued. -/
def queueCycle (k : Nat) : Nat := k / 2 ^ 64 / 4

/-- Adds an operation to the issuing core's queue. -/
def Run.enqueue (r : Run) (e : Env) (op : MOp) (stream : Map Byte) (bad : Map Nat) (streamed : Bool) : Run :=
  let (n, r) := r.freshId
  let id := queueKey r.clk.cycles e.wp.part n
  let q : QOp := { team := e.wp.team, warp := e.w, op := op, stream := stream, bad := bad, streamed := streamed, failed := false, place := none }
  r.modCore e.wp.core (fun c => { c with queue := putM c.queue id q })

/-- An instruction that enters the queue: not ready while it holds 16 operations (R212). -/
def Run.room16 (r : Run) (e : Env) (k : Run → Ret) : Ret :=
  if 16 ≤ (r.core e.wp.core).queue.length then .wait .queueFull else k r

/-! ### Claims (R216) -/

/-- The lowest run of `n` free resources among `total`. -/
def freeRun (m : Map Nat) (total n : Nat) : Option Nat :=
  (List.range total).find? (fun i => decide (i + n ≤ total) && (run i n).all (fun s => (lookM m s).isNone))

def claimAll (m : Map Nat) (team : Nat) (ls : List Nat) : Map Nat := ls.foldl (fun m s => putM m s team) m

def execMclaim (g d : Nat) (wset : Bool) (count : Nat) (s : State) : Host.Outcome State Fault Refusal :=
  uniOp (.mclaim g d wset count) g (fun r e =>
    let c := r.core e.wp.core
    match (if wset then freeRun c.setOwner 2 1 else freeRun c.slotOwner 32 count) with
    | none => .done (r.putS e d 0xFFFFFFFF)
    | some i =>
      let r := r.modCore e.wp.core (fun c =>
        if wset then { c with setOwner := claimAll c.setOwner e.wp.team [i] }
        else { c with slotOwner := claimAll c.slotOwner e.wp.team (run i count) })
      .done (r.putS e d (word i))) s

def execMrel (g d a : Nat) (wset : Bool) (count : Nat) (s : State) : Host.Outcome State Fault Refusal :=
  uniOp (.mrel g d a wset count) g (fun r e => r.room16 e (fun r =>
    let i := (e.us a).toNat
    if decide ((if wset then 2 else 32) ≤ i) then .trap 7 (limAddr 8) e.lead
    else .done ((r.enqueue e (.mrel wset i count d) [] [] true).modWarp e.w (fun w => w.await d 1)))) s

/-! ### Loads and transforms (R217 to R219) -/

/-- The checks on a slot operand: its limit, then its claim. -/
def Run.slotBad (r : Run) (e : Env) (slot n : Nat) : Option Ret :=
  if 32 ≤ slot then some (.trap 7 (limAddr 8) e.lead)
  else (r.unclaimed e slot n).map (fun s => .trap 0x0E s e.lead)

def execMlds (g a b len doff : Nat) (s : State) : Host.Outcome State Fault Refusal :=
  uniOp (.mlds g a b len doff) g (fun r e => r.room16 e (fun r =>
    let slot := (e.us a).toNat
    let ta := (e.us b).toNat
    match r.slotBad e slot 1 with
    | some z => z
    | none =>
      if ta % 128 ≠ 0 then .trap 4 ta e.lead
      else
        let (gang, size) := r.teamGeom e.grid
        if !teamOk gang size ta len then .trap 7 ta e.lead
        else .done (r.enqueue e (.mlds ta slot len doff) [] [] true))) s

/-- Poisoned words of team memory from an address up, with their rows; `z` bytes make a word of the reader. -/
def Run.teamBad (r : Run) (team a n z : Nat) : Map Nat :=
  if r.dev.ms.teamPoison.isEmpty then []
  else (List.range (n / z)).filterMap (fun i => (r.tpoisonRow team (a + z * i) z).map (fun row => (i, row)))

/-- MLDS from a quire slot: a quire access, so the slot's bytes are taken as it issues (R214). -/
def execMldsQ (g a b n len doff : Nat) (s : State) : Host.Outcome State Fault Refusal :=
  uniOp (.mldsQ g a b n len doff) g (fun r e => r.room16 e (fun r =>
    let slot := (e.us a).toNat
    let k := (e.us b).toNat
    match r.slotBad e slot 1 with
    | some z => z
    | none =>
      match r.quireLoc e.wp e.met n k 0 len false with
      | .error (.trap 7 _) => .trap 7 (limAddr 9) e.lead
      | .error x => x.ret 0 e.lead
      | .ok (.team ta) =>
        let bs := r.treadN e.wp.team ta len
        .done (r.enqueue e (.mldsQ n k slot len doff) (List.zip (List.range len) bs) (r.teamBad e.wp.team ta len 4) true)
      | .ok _ => .wait .quire)) s

def execMwld (g a b planes fmt : Nat) (s : State) : Host.Outcome State Fault Refusal :=
  uniOp (.mwld g a b planes fmt) g (fun r e => r.room16 e (fun r =>
    let slot := (e.us a).toNat
    let set := (e.us b).toNat
    if 2 ≤ set ∧ slot < 32 then .trap 7 (limAddr 9) e.lead
    else match r.slotBad e slot (fmtBytes fmt) with
    | some z => z
    | none =>
      if !r.setMine e set then .trap 0x0E (0x20 + set) e.lead
      else
        let r := r.modCore e.wp.core (fun c => { c with setFmt := putM c.setFmt set (fmt, planes) })
        .done (r.enqueue e (.mwld slot set fmt planes) [] [] true))) s

def execMhad (g a : Nat) (scale : Int) (size fmt : Nat) (s : State) : Host.Outcome State Fault Refusal :=
  uniOp (.mhad g a scale size fmt) g (fun r e => r.room16 e (fun r =>
    let slot := (e.us a).toNat
    match r.slotBad e slot 1 with
    | some z => z
    | none => .done (r.enqueue e (.mhad slot scale size fmt) [] [] true))) s

/-! ### Banks (R215, R224) -/

/-- Bytes of an element of MACC. -/
def maccBytes (cvt : Nat) : Nat := if cvt = 0 then 4 else if cvt ≤ 2 then 2 else 1

/-- MACC's checks and entry into the queue; it waits until its bank is not busy (R213). -/
def Run.macc (r : Run) (e : Env) (bank ta rows cvt : Nat) (op : MOp) : Ret :=
  let (gang, size) := r.teamGeom e.grid
  if !r.bankOk e bank then .trap 7 (limAddr 8) e.lead
  else if ta % 64 ≠ 0 then .trap 4 ta e.lead
  else if !teamOk gang size ta (rows * 64 * maccBytes cvt) then .trap 7 ta e.lead
  else if !e.met && (r.core e.wp.core).busyBank e.wp.team bank then .wait .bank
  else .done (r.enqueue e op [] [] true)

def execMaccSt (g a b rows cvt : Nat) (s : State) : Host.Outcome State Fault Refusal :=
  uniOp (.maccSt g a b rows cvt) g (fun r e => r.room16 e (fun r =>
    r.macc e (e.us a).toNat (e.us b).toNat rows cvt (.maccSt (e.us a).toNat (e.us b).toNat rows cvt))) s

def execMaccLd (g a b rows cvt : Nat) (s : State) : Host.Outcome State Fault Refusal :=
  uniOp (.maccLd g a b rows cvt) g (fun r e => r.room16 e (fun r =>
    r.macc e (e.us a).toNat (e.us b).toNat rows cvt (.maccLd (e.us a).toNat (e.us b).toNat rows cvt))) s

def execMzero (g a : Nat) (s : State) : Host.Outcome State Fault Refusal :=
  uniOp (.mzero g a) g (fun r e => r.room16 e (fun r =>
    let bank := (e.us a).toNat
    if !r.bankOk e bank then .trap 7 (limAddr 8) e.lead
    else if !e.met && (r.core e.wp.core).busyBank e.wp.team bank then .wait .bank
    else .done (r.enqueue e (.mzero bank) [] [] true))) s

/-- Operations whose keys lie below this one were issued before the MWAIT of a lane. -/
def Run.mwaitUpto (r : Run) (e : Env) : Nat :=
  match (e.lane e.lead).wait with
  | .ready (.matrix u) => u
  | _ => queueKey r.clk.cycles e.wp.part r.dev.ms.nextId

/-- MWAIT (R215). -/
def execMwait (g d a : Nat) (s : State) : Host.Outcome State Fault Refusal :=
  uniOp (.mwait g d a) g (fun r e =>
    let bank := (e.us a).toNat
    let u := r.mwaitUpto e
    let c := r.core e.wp.core
    let key := bankKey e.wp.team bank
    if !r.bankOk e bank then .trap 7 (limAddr 8) e.lead
    else if c.queue.any (fun x => decide (x.1 < u) && x.2.team == e.wp.team && x.2.op.names.contains (128 + bank)) then
      .wait (.matrix u)
    else if c.failed.contains key then
      .done ((r.modCore e.wp.core (fun c => { c with failed := c.failed.filter (fun k => k != key) })).putS e d 1)
    else .done (r.putS e d 0)) s

/-! ### MMA (R220 to R222, R342) -/

/-- The fields of a parameter block (Table 13.4). -/
structure MmaBlock where
  h : Bool
  slot : Nat
  rows : Nat
  planes : Nat
  fmt : Nat
  scale : Int
  hsize : Nat
  acc : Bool
  bank : Nat
  set : Nat
  haddr : Nat
  deriving DecidableEq, Repr

def mmaBlock (w : Nat → Nat) : MmaBlock :=
  { h := bitOf (w 0) 31, slot := fld (w 0) 0 5, rows := fld (w 1) 0 9, planes := fld (w 2) 8 4, fmt := fld (w 2) 0 4,
    scale := sx (fld (w 3) 8 5) 5, hsize := fld (w 3) 0 2, acc := bitOf (w 4) 8, bank := fld (w 4) 0 5, set := fld (w 5) 0 1,
    haddr := w 6 + w 7 * 2 ^ 32 }

/-- The first word of a block with a reserved bit or a value out of its range. -/
def mmaBad (w : Nat → Nat) : Option Nat :=
  let b := mmaBlock w
  if fld (w 0) 5 26 ≠ 0 ∨ (b.h ∧ b.slot ≠ 0) then some 0
  else if fld (w 1) 9 23 ≠ 0 ∨ b.rows = 0 ∨ 256 < b.rows then some 1
  else if fld (w 2) 12 20 ≠ 0 ∨ fld (w 2) 4 4 ≠ 0 ∨ 5 < b.fmt ∨ (if b.fmt = 5 then b.planes < 2 ∨ 8 < b.planes else b.planes ≠ 0) then some 2
  else if fld (w 3) 13 19 ≠ 0 ∨ fld (w 3) 2 6 ≠ 0 then some 3
  else if fld (w 4) 9 23 ≠ 0 ∨ fld (w 4) 5 3 ≠ 0 then some 4
  else if fld (w 5) 1 31 ≠ 0 then some 5
  else if (if b.h then w 6 % 32 ≠ 0 else w 6 ≠ 0) then some 6
  else if !b.h ∧ w 7 ≠ 0 then some 7
  else none

/-- The pairs of Table 13.2. -/
def pairOk (a w : Nat) : Bool :=
  (decide (a < 2) && decide (w < 2)) || (decide (a < 4) && a == w) || (decide (4 ≤ a) && decide (4 ≤ w))

/-- Bytes as a load of the issuing core reads them: its L1 where it hits, else the home under its own stores. -/
def Run.loadSync (r : Run) (core g : Nat) (node : Option Nat) (pa n : Nat) : List Byte × Run :=
  if r.hits core g node (run pa n) then ((run pa n).map (r.l1byte core node), r)
  else
    let r := r.recallLine (nkey node pa / 128)
    let own := r.ownStores core node
    ((run pa n).map (fun a => fillByte own (r.hread node a) a), r)

/-- The row of an error in bytes that such a load reads. -/
def Run.syncRow (r : Run) (core g : Nat) (node : Option Nat) (pas : List Nat) : Option Nat :=
  if r.hits core g node pas then r.l1Row core node pas else r.poisonRow node pas

/-- A tile-handle descriptor's fields (Table 12.8). -/
def hBase (d : Nat) : Nat := fld d 0 64
def hPitch (d : Nat) : Int := sx (fld d 64 32) 32
def hRows (d : Nat) : Nat := fld d 96 16
def hRowBytes (d : Nat) : Nat := fld d 112 16
def hConv (d : Nat) : Nat := fld d 132 4

/-- The engine a descriptor names, none for any. -/
def hEngine (d core : Nat) : Option Nat := if bitOf d 140 then none else some (stackOf core * 16 + fld d 136 4)

/-- A descriptor that an MMA accepts (R221). -/
def Run.handleOk (r : Run) (core d rows f : Nat) : Bool :=
  fld d 141 115 == 0 && fld d 128 4 == 0 && hRows d == rows && decide (hConv d ≤ 5) && canonical (hBase d) &&
    decide (0 < hRowBytes d) && hRowBytes d % convUnit (hConv d) == 0 && convOut (hConv d) (hRowBytes d) == actRow f &&
    (match hEngine d core with
      | some x => r.engineOk core x
      | none => true)

/-- The refill of a stack's pool per microsecond (R341). -/
def Run.refill (r : Run) (stack : Nat) : Nat := r.dev.sys.tokrate * fld r.dev.sys.talw (16 * stack) 9 / 256

/-- Tokens of an MMA. -/
def mmaTokens (rows : Nat) : Nat := (rows + 63) / 64

/-- Class of a grid. -/
def Run.clsOf (r : Run) (g : Nat) : Nat :=
  match r.grid g with
  | some x => x.cls
  | none => 0

/-- Tokens that a pool must hold for an MMA of a class: its own and the class's reserve (R342). -/
def Run.wants (r : Run) (stack cls need : Nat) : Nat := need + cls * r.refill stack / 8

/-- The checks of an MMA that stand between its block and its slots (R211, R220). -/
def Run.mmaCheck (r : Run) (e : Env) (b : MmaBlock) : Option Ret :=
  let lim := fun (i : Nat) => some (Ret.trap 7 (limAddr i) e.lead)
  if !r.bankOk e b.bank || (decide (128 < b.rows) && !r.bankOk e (b.bank + 1)) then lim 4
  else if !r.setMine e b.set then some (.trap 0x0E (0x20 + b.set) e.lead)
  else match lookM (r.core e.wp.core).setFmt b.set with
    | none => lim 5
    | some (wf, _) =>
      if !pairOk b.fmt wf then lim 2
      else if isPlanes b.fmt && b.hsize != 0 then lim 3
      else if b.h then none
      else (r.unclaimed e b.slot (slotsFor b.rows b.fmt)).map (fun s => .trap 0x0E s e.lead)

def MmaBlock.op (b : MmaBlock) (h : Option Nat) : MOp :=
  .mma b.slot b.rows b.planes b.fmt b.scale b.hsize b.acc b.bank b.set h

/-- The checks and waits of an MMA but for its tokens (R211, R220, R221): where they pass, `pay` gets its block and the descriptor of its
tile handle. That is read as a load of the split: after its acquires, and after what its core has under way to that line (R132). -/
def Run.mmaWork (r : Run) (e : Env) (a : Nat) (pay : Run → MmaBlock → Option Nat → Ret) : Ret :=
  r.room16 e (fun r =>
    let w := fun (i : Nat) => (e.us (a + i)).toNat
    let b := mmaBlock w
    match mmaBad w with
    | some i => .trap 7 (limAddr i) e.lead
    | none =>
      match r.mmaCheck e b with
      | some z => z
      | none =>
        if !b.h then pay r b none
        else match r.globLoc (r.spaceAt e) .load b.haddr 32 with
          | .error x => x.ret 0 e.lead
          | .ok (.glob pas rem) =>
            let node := r.nodeOf e.grid
            let pa := pas.headD 0
            if e.lanes.any (fun l => r.laneAcq e.w l) || r.overlaps e node (e.lanes.map (fun l => (l, Loc.glob pas rem))) ||
                r.lineBusy e.wp.core (nkey node pa / 128) then .wait .fence
            else match r.syncRow e.wp.core e.grid node pas with
            | some row => .mcheck row (pa / 128 * 128)
            | none =>
              let (bs, r) := (r.seeAt e.wp.core e.w node pas).loadSync e.wp.core e.grid node pa 32
              let d := ofBytes bs
              if !r.handleOk e.wp.core d b.rows b.fmt then .trap 7 (limAddr 6) e.lead
              else pay r b (some d)
          | .ok _ => .done r)

/-- The state that a run has reached. -/
def Run.state (r : Run) : State := { clk := r.clk, mem := r.mem.writes r.w.reverse, agenda := [], cur := r.cur, dev := r.dev }

/-- Tokens of the MMA that a split can issue now, if its next instruction is one and all but the pool allows it (R342). -/
def Run.mmaNeed (r : Run) (w l : Nat) (wp : Warp) : Option Nat :=
  let idle := match (nthD wp.lanes l Lane.absent).wait with
    | .none => true
    | .ready _ => true
    | _ => false
  if !idle || decide (r.clk.cycles < wp.stallEnd l) then none
  else match fetchWarp r.state w l with
    | .instr s (.mma g a) =>
      let r := Run.of s
      let e := r.envOf (.mma g a) w wp (wp.split l)
      if !e.ug g then none
      else match r.judge (.mma g a) wp e (fun r e => r.mmaWork e a (fun _ b _ => .wait (.tokens (mmaTokens b.rows)))) with
        | .wait (.tokens n) => some n
        | _ => none
    | _ => none

/-- MMAs of a stack that come before one of a class on the issuing core, the first of them first, as class and need: the more urgent
class, then the lower core (R342). -/
def Run.mmasBefore (r : Run) (e : Env) (cls : Nat) : List (Nat × Nat) :=
  let found := r.dev.warps.flatMap (fun x =>
    let c := r.clsOf (r.gridOf x.2)
    if x.1 != e.w && !x.2.spilled && stackOf x.2.core == stackOf e.wp.core && (decide (c < cls) || (c == cls && decide (x.2.core < e.wp.core)))
    then (x.2.heads.filterMap (fun l => r.mmaNeed x.1 l x.2)).map (fun n => (c * 128 + x.2.core, c, n)) else [])
  (found.foldl (fun l x => insertBy (fun y => y.1) x l) []).map (·.2)

/-- Tokens of a pool that are left for an MMA: those that are ready and come before it, and for which the pool holds enough, take
theirs first (R342). -/
def Run.tokensFor (r : Run) (e : Env) (stack cls : Nat) : Nat :=
  (r.mmasBefore e cls).foldl (fun t x => if t < r.wants stack x.1 x.2 then t else t - x.2) (nthD r.dev.power.tokens stack 0)

/-- Takes an MMA's tokens when the pool holds them and its class's reserve, beside those of the MMAs that come first (R222, R342). -/
def Run.takeTokens (r : Run) (e : Env) (rows : Nat) (k : Run → Ret) : Ret :=
  let st := stackOf e.wp.core
  let cls := r.clsOf e.grid
  let need := mmaTokens rows
  if r.tokensFor e st cls < r.wants st cls need then .wait (.tokens need)
  else k (r.modPower (fun p => { p with tokens := modNth p.tokens st (fun t => t - need) }))

/-- MMA. -/
def execMma (g a : Nat) (s : State) : Host.Outcome State Fault Refusal :=
  uniOp (.mma g a) g (fun r e => r.mmaWork e a (fun r b h =>
    r.takeTokens e b.rows (fun r => .done (r.enqueue e (b.op h) [] [] h.isNone)))) s

/-! ### Tile handles (R204, R221) -/

/-- The oldest MMA of a queue whose rows are still to be fetched. -/
def Core.handleOp (c : Core) : Option (Nat × QOp × Nat) :=
  c.queue.findSome? (fun e => match e.2.op with
    | .mma _ _ _ _ _ _ _ _ _ (some d) => if e.2.streamed || e.2.failed then none else some (e.1, e.2, d)
    | _ => none)

/-- Whether the issuing warp's device-scope release has ended; a warp that has ended left nothing behind. -/
def Run.warpReleased (r : Run) (w : Nat) : Bool × Run :=
  match r.warp w with
  | some wp => r.release w wp everyLane 2
  | none => (true, r)

/-- The position of a request is free again. -/
def Run.giveUp (r : Run) (l : Nat) : Run := r.modList l (fun x => { x with running := false })

/-- The request of a tile handle: first it takes a free position (R204); then, after the release of its warp, it reads and
converts its rows, gives them to the array, and gives the position up; a fault or an error on the data ends it (R221). -/
def execTileHandleRequest (core : Nat) (s : State) : Host.Outcome State Fault Refusal :=
  act (fun r =>
    match (r.core core).handleOp with
    | none => r
    | some (id, q, d) =>
      let put := fun (r : Run) (f : QOp → QOp) => r.modCore core (fun c => { c with queue := modM c.queue id f })
      let free := r.freePos core (hEngine d core)
      let g := match r.team q.team with
        | some t => t.grid
        | none => 0
      if r.teamSaved q.team then r
      else match q.place with
      | none =>
        if free.isEmpty then r
        else
          let (l, _, r) := r.assign free q.team g q.warp 0 true
          put r (fun q => { q with place := some l })
      | some l =>
        let (over', r) := r.warpReleased q.warp
        if !over' then r
        else
          let put := fun (r : Run) (f : QOp → QOp) => (put r (fun q => { f q with place := none })).giveUp l
          let rows := (List.range (hRows d)).map (fun j => pitched (hBase d) j (hPitch d))
          match r.rowsRead ((r.spaceOfGrid g).ofStack (stackOf core)) (r.nodeOf g) (hRowBytes d) rows with
          | .error _ => put r (fun q => { q with failed := true })
          | .ok (bss, r) =>
            let bytes := (bss.map (convRow (hConv d))).flatten
            put r (fun q => { q with streamed := true, stream := List.zip (List.range bytes.length) bytes })) s

/-! ### The array -/

/-- Column `c` of a weight tile as exact values, and as integers. -/
def wColV (w : Weights) (bs : List Byte) : List (List Val) :=
  let k := fmtBytes w.fmt
  (pieces (64 * k) 128 bs).map (fun row => rowVals w.fmt row)

def wColI (w : Weights) (bs : List Byte) : List (List Int) :=
  (pieces 64 128 bs).map (fun row => rowInts 64 (planesRead w.fmt w.planes) row)

/-- The 64 sums t[c] of one activation row. -/
def rowSums (f planes : Nat) (row : List Byte) (wv : List (List Val)) (wi : List (List Int)) : List Nat :=
  if isPlanes f then
    let a := rowInts 128 (planesRead f planes) row
    (List.range 64).map (fun c => dotI a (wi.map (fun ws => nthD ws c 0)))
  else
    let a := rowVals f row
    (List.range 64).map (fun c => dotF a (wv.map (fun ws => nthD ws c (.fin false 0 0))))

/-- Points of a transform code. -/
def hPoints (size : Nat) : Nat := 8 * 2 ^ size

/-- The output transform (R220). -/
def outTransform (hsize : Nat) (scale : Int) (ts : List Nat) : List Nat :=
  if hsize = 0 then ts else hadRow Fmt.f32 false (hPoints hsize) scale 64 (ts.map (decodeF Fmt.f32))

/-- One output row written over the old elements. -/
def outRow (f : Nat) (acc : Bool) (old : List Byte) (ts : List Nat) : List Byte :=
  let olds := (pieces 4 64 old).map ofBytes
  (List.zipWith (fun o t => bytesOf 4 (if !acc then t else if isPlanes f then (o + t) % 2 ^ 32 else add32 o t)) olds ts).flatten

/-- The rows of an MMA into its banks. -/
def mmaRows (f planes : Nat) (scale : Int) (hsize : Nat) (acc : Bool) (wv : List (List Val)) (wi : List (List Int)) :
    List (List Byte) → List Byte → List Byte
  | [], _ => []
  | x :: xs, old =>
    outRow f acc (old.take 256) (outTransform hsize scale (rowSums f planes x wv wi)) ++
      mmaRows f planes scale hsize acc wv wi xs (old.drop 256)

/-- Rows of a bank tile that a run of `n` rows from 0 gives each of two banks. -/
def Run.bankPut (r : Run) (core key row : Nat) (bs : List Byte) : Run :=
  if bs.isEmpty then r
  else r.modCore core (fun c => { c with banks := putM c.banks key ((c.bank key).put (row * 256) bs) }.setPoison
    (bankWord key (row * 64)) (bs.length / 4) [])

/-- Every byte of a bank written: the given ones, and 0 elsewhere. Its failed mark and its poison are gone. -/
def Run.bankClear (r : Run) (core key : Nat) (data : Map Byte) : Run :=
  r.modCore core (fun c => { c with
    banks := putM c.banks key { clear := true, data := data }
    failed := c.failed.filter (fun k => k != key) }.setPoison (bankWord key 0) 8192 [])

/-- Writes `rows` rows of an MMA. -/
def Run.mmaPut (r : Run) (core team bank : Nat) (bs : List Byte) : Run :=
  (r.bankPut core (bankKey team bank) 0 (bs.take 32768)).bankPut core (bankKey team (bank + 1)) 0 (bs.drop 32768)

/-- A machine check of the node whose operation reads, in the matrix unit, poison of an error found at a row (R352). -/
def Run.matrixCheck (r : Run) (core team row : Nat) : Run :=
  match r.team team with
  | some t => r.machineCheck t.grid core 0x10 0 row noAddr
  | none => r

/-- Whether a queued operation rounds: the group sums and accumulate steps of a floating pair, transforms and conversions
(R355). -/
def MOp.rounds : MOp → Bool
  | .mma _ _ _ f _ _ _ _ _ _ => !isPlanes f
  | .mhad _ _ _ _ => true
  | .maccSt _ _ _ cvt => cvt != 0
  | .maccLd _ _ _ cvt => cvt != 0
  | _ => false

/-- The effect of an MMA (R220, R221). -/
def Run.mmaRun (r : Run) (core : Nat) (q : QOp) (b : MmaBlock) : Run :=
  let c := r.core core
  let n := actRow b.fmt
  let k0 := bankKey q.team b.bank
  let k1 := bankKey q.team (b.bank + 1)
  if q.failed then
    let bs := (List.range (b.rows * 64)).flatMap (fun i => bytesOf 4 (Config.freeWord (r.dev.nonce * 2 ^ 32 + i)).toNat)
    (r.mmaPut core q.team b.bank bs).modCore core (fun c => { c with
      failed := (if 128 < b.rows then [k0, k1] else [k0]).foldl addNew c.failed })
  else
    let w := lookD c.weights b.set { bytes := [], fmt := b.fmt, planes := b.planes }
    let bad := c.poisonIn (setWord b.set 0) 4096 ++ (if b.h then [] else c.poisonIn (slotWord b.slot 0) (b.rows * n / 4)) ++
      (if b.acc then c.poisonIn (bankWord k0 0) (min 128 b.rows * 64) ++ c.poisonIn (bankWord k1 0) ((b.rows - 128) * 64) else [])
    match bad with
    | (_, row) :: _ => r.matrixCheck core q.team row
    | [] =>
      let wb := sliceM (8192 * fmtBytes w.fmt) w.bytes 0
      let rows := pieces n b.rows (if b.h then sliceM (b.rows * n) q.stream 0 else sliceM (b.rows * n) c.operand (slotByte b.slot 0))
      let old := c.bankBytes k0 (256 * min 128 b.rows) 0 ++ c.bankBytes k1 (256 * (b.rows - 128)) 0
      r.mmaPut core q.team b.bank (mmaRows b.fmt b.planes b.scale b.hsize b.acc (wColV w wb) (wColI w wb) rows old)

/-- A converted element of MACC.st (R224). -/
def maccOut (cvt x : Nat) : Nat :=
  let cv := fun (t : Fmt) (sat : Bool) => (roundV t .rne sat (decodeF Fmt.f32 x)).bits
  match cvt with
  | 0 => x
  | 1 => cv Fmt.bf16 false
  | 2 => cv Fmt.f16 false
  | 3 => cv Fmt.e4 true
  | _ => cv Fmt.e5 true

/-- A widened element of MACC.ld. -/
def maccIn (cvt x : Nat) : Nat :=
  match cvt with
  | 0 => x
  | 1 => (roundV Fmt.f32 .rne false (decodeF Fmt.bf16 x)).bits
  | _ => (roundV Fmt.f32 .rne false (decodeF Fmt.f16 x)).bits

/-- MACC.st: the bank's rows into team memory; a poisoned element poisons the words its bytes reach. -/
def Run.maccStRun (r : Run) (core team bank ta rows cvt : Nat) : Run :=
  let c := r.core core
  let key := bankKey team bank
  let z := maccBytes cvt
  let bs := ((pieces 4 (rows * 64) (c.bankBytes key (rows * 256) 0)).map (fun p => bytesOf z (maccOut cvt (ofBytes p)))).flatten
  let bad := (c.poisonIn (bankWord key 0) (rows * 64)).map (fun e => (tkey team (ta + e.1 * z) / 4, e.2))
  (r.twrite team ta bs).modMs (fun m => { m with teamPoison := bad.foldl (fun m e => putM m e.1 e.2) m.teamPoison })

def Run.maccLdRun (r : Run) (core team bank ta rows cvt : Nat) : Run :=
  let z := maccBytes cvt
  let key := bankKey team bank
  let bs := ((pieces z (rows * 64) (r.treadN team ta (rows * 64 * z))).map (fun p => bytesOf 4 (maccIn cvt (ofBytes p)))).flatten
  let bad := r.teamBad team ta (rows * 64 * z) z
  (r.bankPut core key 0 bs).modCore core (fun c => c.setPoison (bankWord key 0) (rows * 64) bad)

/-- Bytes into operand memory. -/
def Run.slotPut (r : Run) (core slot off : Nat) (bs : List Byte) (bad : Map Nat) : Run :=
  r.modCore core (fun c => { c with operand := spliceM c.operand (slotByte slot off) bs }.setPoison (slotWord slot off) (bs.length / 4) bad)

/-- MHAD (R219). -/
def Run.mhadRun (r : Run) (core team slot : Nat) (scale : Int) (size f : Nat) : Run :=
  let c := r.core core
  match c.poisonRow (slotWord slot 0) 2048 with
  | some row => r.matrixCheck core team row
  | none =>
    let rows := pieces (actRow f) 64 (sliceM 8192 c.operand (slotByte slot 0))
    let sat := decide (f < 2)
    let out := rows.flatMap (fun row => (hadRow (mFmt f) sat (hPoints size) scale 128 (rowVals f row)).flatMap (bytesOf (fmtBytes f)))
    r.slotPut core slot 0 out []

/-- MWLD: the tile is latched (R218). -/
def Run.mwldRun (r : Run) (core slot set f planes : Nat) : Run :=
  let n := 8192 * fmtBytes f
  r.modCore core (fun c =>
    { c with weights := putM c.weights set { bytes := spliceM [] 0 (sliceM n c.operand (slotByte slot 0)), fmt := f, planes := planes } }.setPoison
      (setWord set 0) 4096 (c.poisonIn (slotWord slot 0) (n / 4)))

/-- MREL: all or none (R216). -/
def Run.mrelRun (r : Run) (core team warp : Nat) (set : Bool) (first count d : Nat) : Run :=
  let c := r.core core
  let ids := if set then [first] else run first count
  let own := if set then c.setOwner else c.slotOwner
  let ok := ids.all (fun s => lookM own s == some team)
  let r := if !ok then r
    else r.modCore core (fun c =>
      if set then { c with setOwner := delM c.setOwner first, weights := delM c.weights first, setFmt := delM c.setFmt first }
      else { c with slotOwner := filterM c.slotOwner (fun s _ => !ids.contains s) })
  r.modWarpAny warp (fun w => w.putSs d [if ok then 0 else 1])

/-- The effect of an operation whose turn has come. -/
def Run.mopRun (r : Run) (core : Nat) (q : QOp) : Run :=
  match q.op with
  | .mlds ta slot len doff => r.slotPut core slot doff (r.treadN q.team ta len) (r.teamBad q.team ta len 4)
  | .mldsQ _ _ slot len doff => r.slotPut core slot doff (sliceM len q.stream 0) q.bad
  | .mwld slot set f planes => r.mwldRun core slot set f planes
  | .mma slot rows planes f scale hsize acc bank set h =>
    r.mmaRun core q { h := h.isSome, slot := slot, rows := rows, planes := planes, fmt := f, scale := scale, hsize := hsize,
                      acc := acc, bank := bank, set := set, haddr := 0 }
  | .mhad slot scale size f => r.mhadRun core q.team slot scale size f
  | .maccSt bank ta rows cvt => r.maccStRun core q.team bank ta rows cvt
  | .maccLd bank ta rows cvt => r.maccLdRun core q.team bank ta rows cvt
  | .mzero bank => r.bankClear core (bankKey q.team bank) []
  | .mrel set first count d => r.mrelRun core q.team q.warp set first count d

/-- Q of a delivered pattern: exponent and the top six fraction bits; a narrower fraction is filled with zeros (R355). -/
def shadowQ (t : Fmt) (x : Nat) : Nat :=
  let y := x % 2 ^ (t.w - 1)
  if 6 ≤ t.f then y / 2 ^ (t.f - 6) else y * 2 ^ (6 - t.f)

/-- A delivered pattern and its shadow disagree (R355). -/
def shadowFails (t : Fmt) (x : Nat) (sign : Bool) (q : Nat) : Bool :=
  bitOf x (t.w - 1) != sign || decide (shadowQ t x + 1 < q) || decide (q + 1 < shadowQ t x)

/-- Result number `k` that an operation of the queue delivers, with its format, in the state in which it has completed (R355): an
element of a bank, of team memory or of an operand slot. -/
def Run.opResult (r : Run) (core : Nat) (q : QOp) (k : Nat) : Option (Fmt × Nat) :=
  let word := fun (bank n : Nat) => some (Fmt.f32, ofBytes ((r.core core).bankBytes (bankKey q.team bank) 4 (4 * n)))
  match q.op with
  | .mma _ rows _ _ _ _ _ bank _ _ => if k < 64 * rows then word (bank + k / 8192) (k % 8192) else none
  | .maccLd bank _ rows _ => if k < 64 * rows then word bank k else none
  | .maccSt _ ta rows cvt =>
    let t := match cvt with
      | 1 => Fmt.bf16
      | 2 => Fmt.f16
      | 3 => Fmt.e4
      | _ => Fmt.e5
    if k < 64 * rows then some (t, ofBytes (r.treadN q.team (ta + maccBytes cvt * k) (maccBytes cvt))) else none
  | .mhad slot _ _ f =>
    let z := fmtBytes f
    if k < 8192 / z then some (mFmt f, ofBytes (sliceM z (r.core core).operand (slotByte slot (z * k)))) else none
  | _ => none

/-- The turn of an operation of the queue has come: no earlier one names a resource of it, none of its cycle can still come before it,
and its rows have come (R212). -/
def Run.opDue (r : Run) (core op : Nat) (q : QOp) : Bool :=
  !(r.core core).queue.any (fun e => decide (e.1 < op) && e.2.shares q) && decide (queueCycle op < r.clk.cycles) &&
    (q.streamed || q.failed)

/-- The shadow of the array finds this sign and prefix for result number `k` of a queued operation whose turn has come: where they
differ from what it would deliver, a machine check of the node that owns it (R355). -/
def Run.shadowOp (r : Run) (core id k : Nat) (sign : Bool) (q : Nat) : Run :=
  match lookM (r.core core).queue id with
  | none => r
  | some o =>
    let fails := match (r.mopRun core o).opResult core o k with
      | some (t, x) => shadowFails t x sign q
      | none => false
    if r.opDue core id o && o.op.rounds && !o.failed && fails then
      (match r.team o.team with
        | some t => r.machineCheck t.grid core 0x0F 1 0xFF noAddr
        | none => r)
    else r

/-- A queued operation completes when its turn has come (R212). -/
def execMatrixOpComplete (core op : Nat) (s : State) : Host.Outcome State Fault Refusal :=
  act (fun r =>
    match lookM (r.core core).queue op with
    | none => r
    | some q =>
      if r.opDue core op q then (r.modCore core (fun c => { c with queue := delM c.queue op })).mopRun core q else r) s

end Sys2Proof.Machine
end

