-- ==== Sys2Proof/Machine/Texture.lean ====
section
/-! DEFINITION. Textures: descriptors, footprints, filtering, SAMPLE and TXF (R59, R236 to R238). -/

namespace Sys2Proof.Machine

/-! ### Descriptors (R236) -/

/-- A texture descriptor's fields (Table 14.4). -/
structure Tex where
  base : Nat
  feed : Nat
  width : Nat
  height : Nat
  depth : Nat
  levels : Nat
  fmt : Nat
  wrap : Nat
  lin : Bool
  mip : Nat
  deriving DecidableEq, Repr

def Tex.parse (d : Nat) : Tex :=
  { base := fld d 0 64, feed := fld d 64 64, width := fld d 128 16 + 1, height := fld d 144 16 + 1, depth := fld d 160 12 + 1,
    levels := fld d 172 4 + 1, fmt := fld d 176 4, wrap := fld d 180 2, lin := bitOf d 182, mip := fld d 183 2 }

/-- The values that Table 14.4 admits; its reserved bits are ignored (R5). -/
def Tex.ok (t : Tex) : Bool :=
  t.mip != 3 && t.wrap != 3 && decide (t.fmt ≤ 4) && t.base % 65536 == 0 && t.feed % 8 == 0

def Tex.texel (t : Tex) : Nat :=
  match t.fmt with
  | 0 => 4
  | 1 => 8
  | 2 => 16
  | 3 => 4
  | _ => 2

/-- Size of an axis at a level. -/
def mipSize (n l : Nat) : Nat := max 1 (n / 2 ^ l)

/-- Bytes of a level, from one level base to the next. -/
def Tex.levelSpan (t : Tex) (l : Nat) : Nat :=
  alignUp (mipSize t.width l * mipSize t.height l * mipSize t.depth l * t.texel) 65536

def Tex.levelBase (t : Tex) (l : Nat) : Nat := (List.range l).foldl (fun a k => a + t.levelSpan k) t.base

/-- Address of a texel. -/
def Tex.addr (t : Tex) (l i j k : Nat) : Nat :=
  (t.levelBase l + ((k * mipSize t.height l + j) * mipSize t.width l + i) * t.texel) % 2 ^ 64

/-- The four channels of a texel as FP32 patterns (Table 14.5). -/
def Tex.chans (t : Tex) (bs : List Byte) : List Nat :=
  let part := fun (k i : Nat) => ofBytes ((bs.drop (k * i)).take k)
  let h := fun (x : Nat) => (roundV Fmt.f32 .rne false (decodeF Fmt.f16 x)).bits
  match t.fmt with
  | 0 => (List.range 4).map (fun i => (ofUnorm Fmt.f32 8 (part 1 i)).bits)
  | 1 => (List.range 4).map (fun i => h (part 2 i))
  | 2 => (List.range 4).map (part 4)
  | 3 => [part 4 0, 0, 0, one32]
  | _ => [h (part 2 0), 0, 0, one32]

def zeros4 : List Nat := [0, 0, 0, 0]

/-! ### Filtering (R59) -/

/-- The integer nearest to 65,536 times the fraction of a finite value above its floor, ties to even; 0 for an infinity, as for every
|c| ≥ 2^23 (R59). -/
def quantise (v : Val) : Nat :=
  match v with
  | .fin n k e =>
    let x := (floorV v)
    let den := pow2d e
    let num : Int := (if n then -((k * pow2n e : Nat) : Int) else ((k * pow2n e : Nat) : Int)) - x * (den : Int)
    (roundInt .rne false (num.toNat * 65536) den).1
  | _ => 0

def isFin (v : Val) : Bool :=
  match v with
  | .fin _ _ _ => true
  | _ => false

/-- The index that stands for the floor of a coordinate that has none, and the weight of a NaN: the manual gives neither, both are free.
[DESIGN CHOICE, safe] (entry 99) -/
def freeIndex (free : Nat) : Int := ((free % 2 ^ 20 : Nat) : Int)
def freeWeight (free : Nat) : Nat := free / 2 ^ 60 % 65536

/-- Indices and weight along one axis by R59. -/
def linAxis (free u size : Nat) : Int × Nat :=
  let c := decodeF Fmt.f32 (fma32 u (roundQ Fmt.f32 .rne false false size 1 0).bits 0xBF000000)
  let i := if isFin c then floorV c else freeIndex free
  let n := if c.isNan then freeWeight free else quantise c
  if n = 65536 then (i + 1, 0) else (i, n)

/-- The nearest index. -/
def nearAxis (free u size : Nat) : Int :=
  let c := decodeF Fmt.f32 (mul32 u (roundQ Fmt.f32 .rne false false size 1 0).bits)
  if isFin c then floorV c else freeIndex free

/-- An index after the addressing mode: none for a border texel. -/
def wrapIndex (mode size : Nat) (i : Int) : Option Nat :=
  match mode with
  | 0 => some (max 0 (min ((size : Int) - 1) i)).toNat
  | 1 => some (i % (size : Int)).toNat
  | _ => if 0 ≤ i ∧ i < size then some i.toNat else none

/-- Texel indices along an axis, and the weight where there are two. -/
structure Axis where
  idx : List (Option Nat)
  w : Nat
  deriving DecidableEq, Repr

def axisOf (lin : Bool) (mode free u size : Nat) : Axis :=
  if lin && decide (1 < size) then
    let (i, n) := linAxis free u size
    { idx := [wrapIndex mode size i, wrapIndex mode size (i + 1)], w := n }
  else { idx := [wrapIndex mode size (nearAxis free u size)], w := 0 }

/-- Interpolates neighbours of a list of values of several channels. -/
def lerpPairs (n : Nat) : List (List Nat) → List (List Nat)
  | a :: b :: l => List.zipWith (fun x y => (flerp x y n).bits) a b :: lerpPairs n l
  | l => l

def Axis.reduce (x : Axis) (vs : List (List Nat)) : List (List Nat) := if x.idx.length = 2 then lerpPairs x.w vs else vs

/-- The value of the corners of one level, x fastest: along x, then y, then z. -/
def filter3 (x y z : Axis) (vs : List (List Nat)) : List Nat := (z.reduce (y.reduce (x.reduce vs))).headD zeros4

/-- The corners that three axes select, x fastest; none outside the border. -/
def corners (x y z : Axis) : List (Option (Nat × Nat × Nat)) :=
  z.idx.flatMap (fun k => y.idx.flatMap (fun j => x.idx.map (fun i =>
    match i, j, k with
    | some i, some j, some k => some (i, j, k)
    | _, _, _ => none)))

/-! ### What a lane reads -/

/-- A level of a result: its texel addresses, none for a border texel, and the axes that combine them. -/
structure TexLevel where
  texels : List (Option Nat)
  x : Axis
  y : Axis
  z : Axis
  deriving DecidableEq, Repr

/-- What a sample reads: one level or two, and the weight of the second. -/
structure Footprint where
  levels : List TexLevel
  w : Nat
  deriving DecidableEq, Repr

def Tex.level (t : Tex) (free : Nat) (u v w l : Nat) : TexLevel :=
  let x := axisOf t.lin t.wrap free u (mipSize t.width l)
  let y := axisOf t.lin t.wrap (free / 2 ^ 20) v (mipSize t.height l)
  let z := axisOf t.lin t.wrap (free / 2 ^ 40) w (mipSize t.depth l)
  { texels := (corners x y z).map (fun c => c.map (fun (i, j, k) => t.addr l i j k)), x := x, y := y, z := z }

/-- The level of detail clamped to the texture's levels; a NaN counts as 0 (R237). -/
def Tex.lambda (t : Tex) (p : Nat) : Nat :=
  let top := (roundRat Fmt.f32 .rne ((t.levels : Int) - 1) 1 0).bits
  let v := decodeF Fmt.f32 p
  if v.isNan || ltV v (.fin false 0 0) then 0
  else if ltV (decodeF Fmt.f32 top) v then top
  else p

/-- The footprint of SAMPLE. -/
def Tex.footprint (t : Tex) (free : Nat) (u v w lam : Nat) : Footprint :=
  let p := t.lambda lam
  match t.mip with
  | 0 => { levels := [t.level free u v w 0], w := 0 }
  | 1 => { levels := [t.level free u v w (floorV (decodeF Fmt.f32 (add32 p 0x3F000000))).toNat], w := 0 }
  | _ =>
    let l := (floorV (decodeF Fmt.f32 p)).toNat
    let n := quantise (decodeF Fmt.f32 p)
    let (l, n) := if n = 65536 then (l + 1, 0) else (l, n)
    if t.levels ≤ l + 1 then { levels := [t.level free u v w l], w := 0 }
    else { levels := [t.level free u v w l, t.level free u v w (l + 1)], w := n }

/-- The single texel of TXF, or none out of range. -/
def Tex.fetch1 (t : Tex) (i j k l : Nat) : Footprint :=
  let one : Axis := { idx := [some 0], w := 0 }
  let inside := decide (l < t.levels) && decide (i < mipSize t.width l) && decide (j < mipSize t.height l) && decide (k < mipSize t.depth l)
  { levels := [{ texels := [if inside then some (t.addr l i j k) else none], x := one, y := one, z := one }], w := 0 }

/-- Addresses of a footprint. -/
def Footprint.addrs (f : Footprint) : List Nat := (f.levels.flatMap (fun l => l.texels.filterMap id)).foldl addNew []

/-- The result of a footprint from the channels at its addresses. -/
def Footprint.value (f : Footprint) (rd : Nat → List Nat) : List Nat :=
  let vs := f.levels.map (fun l => filter3 l.x l.y l.z (l.texels.map (fun a => match a with
    | some va => rd va
    | none => zeros4)))
  if vs.length = 2 then (lerpPairs f.w vs).headD zeros4 else vs.headD zeros4

/-! ### Reading (R130, R237, R238) -/

/-- A texel's place: physical address, or none where its page is not resident. -/
def Run.texelAt (r : Run) (sp : ASpace) (va : Nat) : Except Bad (Option Nat) :=
  if !canonical va then .error (.trap 0x12 va)
  else match r.xlate sp .load false va with
    | .ok pa _ => .ok (some pa)
    | .fail c y => if c = 6 ∧ y = 1 then .ok none else .error (badTr va c y)

/-- Places of all texels of a footprint: 0x12, then 0x07, then 0x06, the lowest address of each. -/
def Run.texels (r : Run) (sp : ASpace) (vas : List Nat) : Except Bad (List (Nat × Option Nat)) :=
  let xs := vas.map (fun va => (va, r.texelAt sp va))
  let badOf := fun (f : Bad → Bool) => xs.filterMap (fun x => match x.2 with
    | .error b => if f b then some (x.1, b) else none
    | .ok _ => none)
  let pick := fun (f : Bad → Bool) => (minBy (fun (x : Nat × Bad) => x.1) (badOf f)).map (·.2)
  let cause := fun (c : Nat) (b : Bad) => match b with
    | .trap c' _ => c' == c
    | _ => false
  let other := fun (b : Bad) => match b with
    | .trap _ _ => false
    | _ => true
  match (pick (cause 0x12)).or ((pick (cause 7)).or (pick other)) with
  | some b => .error b
  | none => .ok (xs.map (fun x => (x.1, match x.2 with
    | .ok p => p
    | .error _ => none)))

/-- A descriptor of 32 bytes as a plain load reads it. -/
def Run.texDesc (r : Run) (core g : Nat) (node : Option Nat) (sp : ASpace) (va : Nat) : Except Bad Nat :=
  match r.globLoc sp .load va 32 with
  | .error b => .error b
  | .ok (.glob pas _) =>
    if r.poisoned node pas then .error (.poison (pas.headD 0 / 128 * 128))
    else .ok (ofBytes (r.loadSync core g node (pas.headD 0) 32).1)
  | .ok _ => .error (.trap 7 va)

/-- What one lane gives: its texture, the four channels, the non-resident pages, and the texels read. -/
structure TexRes where
  tex : Tex
  chans : List Nat
  missing : List Nat
  read : List Nat
  deriving DecidableEq, Repr

/-- The result of one lane. -/
def Run.texLane (r : Run) (core g : Nat) (node : Option Nat) (sp : ASpace) (desc : Nat) (fp : Tex → Footprint) : Except Bad TexRes :=
  match r.texDesc core g node sp desc with
  | .error b => .error b
  | .ok d =>
    let t := Tex.parse d
    if !t.ok then .error (.trap 7 desc)
    else
      let f := fp t
      match r.texels sp f.addrs with
      | .error b => .error b
      | .ok xs =>
        let missing := ((xs.filter (fun x => x.2.isNone)).map (fun x => x.1 / 65536 * 65536)).foldl addNew []
        if !missing.isEmpty then .ok { tex := t, chans := zeros4, missing := missing, read := [] }
        else
          let pas := xs.map (fun x => (x.1, x.2.getD 0))
          match pas.find? (fun x => r.poisoned node (run x.2 t.texel)) with
          | some x => .error (.poison (x.2 / 128 * 128))
          | none =>
            .ok { tex := t, missing := [], read := pas.map (·.2), chans := f.value (fun va =>
              t.chans (r.loadSync core g node (lookD pas va 0) t.texel).1) }

/-- The residency feedback of a lane: an atomic OR at the home per page; one that fails translation is lost (R238). -/
def Run.feedback (r : Run) (w g : Nat) (node : Option Nat) (sp : ASpace) (x : TexRes) : Run :=
  if x.tex.feed = 0 then r
  else x.missing.foldl (fun r p =>
    let b := (p - x.tex.base) / 65536
    let va := x.tex.feed + b / 64 * 8
    match r.xlate1 sp .atomic va 8 with
    | none => r
    | some pa =>
      let (_, r) := r.homeAtomic node pa 8 (fun o => o ||| 2 ^ (b % 64))
      r.wch w g (r.gwctOf pa)) r

/-- Every lane's result, or what the lowest faulting lane faults with; KIND of a page fault is `kind` (Table 21.6). -/
def texAll (kind : Nat) : List (Nat × Except Bad TexRes) → Except Ret (List (Nat × TexRes))
  | [] => .ok []
  | (l, .error b) :: _ => .error (b.ret kind l)
  | (l, .ok x) :: xs =>
    match texAll kind xs with
    | .error z => .error z
    | .ok ys => .ok ((l, x) :: ys)

/-- The footprint of a lane of SAMPLE and SAMPLEC; what a coordinate without a floor selects is free. -/
def Run.sampleFp (r : Run) (e : Env) (a l : Nat) (t : Tex) : Footprint :=
  let v := fun (i : Nat) => (e.v l (a + i)).toNat
  t.footprint (r.pick (8 * 2 ^ 20 + l) (2 ^ 120)) (v 0) (v 1) (v 2) (v 3)

/-- The results of the participating lanes. -/
def Run.texResults (r : Run) (e : Env) (kind g b : Nat) (fp : Nat → Tex → Footprint) : Except Ret (List (Nat × TexRes)) :=
  texAll kind ((e.on g).map (fun l => (l, r.texLane e.wp.core e.grid (r.nodeOf e.grid) (r.spaceAt e) (e.v2 l b) (fp l))))

/-- The feedback of all lanes. -/
def Run.feedbackAll (r : Run) (e : Env) (xs : List (Nat × TexRes)) : Run :=
  xs.foldl (fun r x => r.feedback e.w e.grid (r.nodeOf e.grid) (r.spaceAt e) x.2) r

/-- A texture fetch into registers. -/
def Run.texture (r : Run) (e : Env) (g d b : Nat) (fp : Nat → Tex → Footprint) : Ret :=
  if (e.on g).any (fun l => r.laneAcq e.w l) then .wait .fence
  else match r.texResults e 0 g b fp with
    | .error z => z
    | .ok xs =>
      let r := (r.feedbackAll e xs).seeAt e.wp.core e.w (r.nodeOf e.grid) (xs.flatMap (fun x => x.2.read))
      .done (xs.foldl (fun r x => r.onLanes e.w [x.1] (fun _ y => y.putVs d (x.2.chans.map word))) r)

def execSample (g d a b : Nat) (s : State) : Host.Outcome State Fault Refusal :=
  issue (.sample g d a b) (fun r e => r.texture e g d b (r.sampleFp e a)) s

def execTxf (g d a b : Nat) (s : State) : Host.Outcome State Fault Refusal :=
  issue (.txf g d a b) (fun r e => r.texture e g d b (fun l t =>
    let v := fun (i : Nat) => (e.v l (a + i)).toNat
    t.fetch1 (v 0) (v 1) (v 2) (v 3))) s

end Sys2Proof.Machine
end

