-- ==== Sys2Proof/Machine/Walk.lean ====
section
/-! DEFINITION. The ray and march unit: the BVH walk of TRACE and the march of MARCH, as functions of what a reader of memory answers (R232 to R235, R245 to R253). -/

namespace Sys2Proof.Machine

/-! ### Reading by a unit -/

/-- Why a unit stops reading: a replayable fault, poison, or any other fault. -/
inductive UStop where
  | page (va why : Nat)
  | poison (line : Nat)
  | bad
  deriving DecidableEq, Repr

/-- A reader: `n` bytes at a virtual address as a number. -/
abbrev Reader := Nat → Nat → Except UStop Nat

/-- Physical addresses of bytes within one page. -/
def Run.unitSpan (r : Run) (sp : ASpace) (va n : Nat) : Except UStop (List Nat) :=
  if !canonical va then .error .bad
  else match r.xlate sp .load false va with
    | .ok pa _ => .ok (run pa n)
    | .fail c y => .error (if c = 6 then .page va y else if c = 0x10 then .poison y else .bad)

/-- A unit's read at the home; what update-only copies hold is there already (R137). -/
def Run.unitRead (r : Run) (sp : ASpace) (node : Option Nat) : Reader := fun va n =>
  let va := va % 2 ^ 64
  let k := min n (65536 - va % 65536)
  match r.unitSpan sp va k with
  | .error x => .error x
  | .ok xs =>
    match (if k < n then r.unitSpan sp (va + k) (n - k) else .ok []) with
    | .error x => .error x
    | .ok ys =>
      match (xs ++ ys).find? (fun pa => r.poisoned node [pa]) with
      | some pa => .error (.poison (pa / 128 * 128))
      | none => .ok (ofBytes ((xs ++ ys).map (r.hread node)))

/-! ### Values -/

def v32 (p : Nat) : Val := decodeF Fmt.f32 p

/-- A value rounded to FP32 in a mode, and read back. -/
def r32 (m : Rm) (v : Val) : Nat := (roundV Fmt.f32 m false v).bits

def sumV (a b : Val) : Val := (addV .rne a b).1

/-- An exact product; ±0 times ±∞ is a signed zero (R233). -/
def prodZ (a b : Val) : Val :=
  match a, b with
  | .inf x, .fin y 0 _ => .fin (x != y) 0 0
  | .fin x 0 _, .inf y => .fin (x != y) 0 0
  | a, b => (mulV a b).1

/-- The lesser value, -0 below +0; a NaN counts as missing (R53). -/
def minV (a b : Val) : Val :=
  if a.isNan then b else if b.isNan then a
  else if ltV a b || (eqV a b && a.isNeg) then a else b

def maxV (a b : Val) : Val :=
  if a.isNan then b else if b.isNan then a
  else if ltV a b || (eqV a b && a.isNeg) then b else a

/-- The FP32 pattern with the lesser or greater value. -/
def min32 (a b : Nat) : Nat := (fMinMax Fmt.f32 false a b).bits
def max32 (a b : Nat) : Nat := (fMinMax Fmt.f32 true a b).bits

def lt32 (a b : Nat) : Bool := ltV (v32 a) (v32 b)
def eq32 (a b : Nat) : Bool := eqV (v32 a) (v32 b)

/-- round(a / b) of exact values in one rounding. -/
def divRound (t : Fmt) (a b : Val) : Nat :=
  match a, b with
  | .nan _, _ => t.cnan
  | _, .nan _ => t.cnan
  | .inf _, .inf _ => t.cnan
  | .inf x, .fin y _ _ => (roundV t .rne false (.inf (x != y))).bits
  | .fin x _ _, .inf y => t.signP (x != y)
  | .fin x k e, .fin y m f =>
    if m = 0 then (if k = 0 then t.cnan else (roundV t .rne false (.inf (x != y))).bits)
    else if k = 0 then t.signP (x != y)
    else (roundQ t .rne false (x != y) k m (e - f)).bits

/-! ### Rays and boxes (R233) -/

/-- A ray: origin, tmin, direction, tmax as FP32 patterns. -/
structure Ray where
  o : List Nat
  tmin : Nat
  d : List Nat
  tmax : Nat
  deriving DecidableEq, Repr

def Ray.of (ws : List Word) : Ray :=
  let w := fun (i : Nat) => (nthD ws i 0).toNat
  { o := [w 0, w 1, w 2], tmin := w 3, d := [w 4, w 5, w 6], tmax := w 7 }

/-- A ray that misses at once. -/
def Ray.dead (y : Ray) : Bool :=
  (y.o ++ y.d ++ [y.tmin, y.tmax]).any (fun p => (v32 p).isNan) || y.d.all (fun p => (v32 p).isZero) || lt32 y.tmax y.tmin

def neg32 (p : Nat) : Nat := signOp 32 1 p

/-- Entry and exit of one axis, rounded outward; none where the box is missed. -/
def boxAxis (lo hi o d : Nat) : Option (Nat × Nat) :=
  if (v32 lo).isNan || (v32 hi).isNan || lt32 hi lo then none
  else if (v32 d).isZero then
    if lt32 o lo || lt32 hi o then none else some (Fmt.f32.signP true + Fmt.f32.infP, Fmt.f32.infP)
  else
    let i := v32 (rcp32 d)
    let a := sumV (v32 lo) (v32 (neg32 o))
    let b := sumV (v32 hi) (v32 (neg32 o))
    if a.isNan || b.isNan then none
    else
      let e1 := prodZ a i
      let e2 := prodZ b i
      some (r32 .rd (minV e1 e2), r32 .ru (maxV e1 e2))

/-- The box test: entry and exit distances of a hit. -/
def boxTest (y : Ray) (lo hi : List Nat) (best : Nat) : Option (Nat × Nat) :=
  let ax := fun (k : Nat) => boxAxis (nthD lo k 0) (nthD hi k 0) (nthD y.o k 0) (nthD y.d k 0)
  match ax 0, ax 1, ax 2 with
  | some a, some b, some c =>
    let enter := max32 (max32 (max32 a.1 b.1) c.1) y.tmin
    let leave := min32 (min32 (min32 a.2 b.2) c.2) best
    if lt32 leave enter || (v32 enter).isNan || (v32 leave).isNan then none else some (enter, leave)
  | _, _, _ => none

/-! ### TRACE (R234, R235) -/

/-- The best hit so far. -/
structure Hit where
  t : Nat
  id : Nat
  u : Nat
  v : Nat
  deriving DecidableEq, Repr

/-- The index of the largest |d|, lowest on ties. -/
def bigAxis (d : List Nat) : Nat :=
  let a := fun (k : Nat) => signOp 32 2 (nthD d k 0)
  let k := if lt32 (a 0) (a 1) then 1 else 0
  if lt32 (a k) (a 2) then 2 else k

/-- The sheared vertices x, y, z of a triangle (R234). -/
def shear (y : Ray) (p : List Nat) : Nat × Nat × Nat :=
  let kz := bigAxis y.d
  let dz := nthD y.d kz 0
  let (kx, ky) := if lt32 dz 0 then ((kz + 2) % 3, (kz + 1) % 3) else ((kz + 1) % 3, (kz + 2) % 3)
  let sz := rcp32 dz
  let sx := mul32 (nthD y.d kx 0) sz
  let sy := mul32 (nthD y.d ky 0) sz
  let q := fun (k : Nat) => sub32 (nthD p k 0) (nthD y.o k 0)
  (fma32 (neg32 sx) (q kz) (q kx), fma32 (neg32 sy) (q kz) (q ky), mul32 sz (q kz))

/-- rne64(a*b - c*d), exact products and one rounding. -/
def cross64 (a b c d : Nat) : Nat :=
  (roundV Fmt.f64 .rne false (sumV (mulV (v32 a) (v32 b)).1 (mulV (v32 c) (v32 d)).1.neg)).bits

def v64 (p : Nat) : Val := decodeF Fmt.f64 p

/-- The triangle test against the best hit so far. -/
def triTest (y : Ray) (h : Hit) (p0 p1 p2 : List Nat) (id : Nat) : Hit :=
  let (x0, y0, z0) := shear y p0
  let (x1, y1, z1) := shear y p1
  let (x2, y2, z2) := shear y p2
  let e0 := v64 (cross64 x1 y2 y1 x2)
  let e1 := v64 (cross64 x2 y0 y2 x0)
  let e2 := v64 (cross64 x0 y1 y0 x1)
  let z : Val := .fin false 0 0
  let es := [e0, e1, e2]
  if es.any (fun e => ltV e z) && es.any (fun e => ltV z e) then h
  else
    let det := v64 (roundV Fmt.f64 .rne false (sumV (sumV e0 e1) e2)).bits
    if det.isZero then h
    else
      let num := sumV (sumV (mulV e0 (v32 z0)).1 (mulV e1 (v32 z1)).1) (mulV e2 (v32 z2)).1
      let t := divRound Fmt.f32 num det
      if lt32 t y.tmin || lt32 h.t t || (eq32 t h.t && decide (h.id ≤ id)) then h
      else { t := t, id := id, u := divRound Fmt.f32 e1 det, v := divRound Fmt.f32 e2 det }

/-- The consecutive triangles of a leaf. -/
def leafTest (rd : Reader) (y : Ray) : Nat → Nat → Hit → Except UStop Hit
  | 0, _, h => .ok h
  | n + 1, va, h =>
    match rd va 48 with
    | .error x => .error x
    | .ok t =>
      let p := fun (j : Nat) => (List.range 3).map (fun k => fld t (96 * j + 32 * k) 32)
      let id := fld t 288 32
      leafTest rd y n (va + 48) (if 0xFFFFFFFE ≤ id then h else triTest y h (p 0) (p 1) (p 2) id)

/-- Hit children of a node: entry distance and reference, nearest first, lower index first on ties. -/
def hitChildren (y : Ray) (best node : Nat) : List (Nat × Nat) :=
  let hits := (List.range 4).filterMap (fun i =>
    let ref := fld node (768 + 64 * i) 64
    let c := fun (k : Nat) => fld node (192 * i + 32 * k) 32
    if ref / 2 ^ 62 = 0 then none
    else (boxTest y [c 0, c 1, c 2] [c 3, c 4, c 5] best).map (fun b => (b.1, ref)))
  hits.foldl (fun l x => (l.takeWhile (fun z => !lt32 x.1 z.1)) ++ [x] ++ (l.dropWhile (fun z => !lt32 x.1 z.1))) []

/-- The walk: references to visit, nearest first; `visits` counts nodes. One step of fuel visits or drops one of them. -/
def traceWalk (rd : Reader) (y : Ray) : Nat → Nat → List (Nat × Nat) → Hit → Except UStop Hit
  | 0, _, _, _ => .error .bad
  | _ + 1, _, [], h => .ok h
  | n + 1, visits, (enter, ref) :: st, h =>
    let a := ref % 2 ^ 52
    if lt32 h.t enter then traceWalk rd y n visits st h
    else if ref / 2 ^ 62 = 2 then
      if a % 16 ≠ 0 then .error .bad
      else match leafTest rd y (fld ref 56 6) a h with
        | .error x => .error x
        | .ok h => traceWalk rd y n visits st h
    else if ref / 2 ^ 62 ≠ 1 ∨ a % 128 ≠ 0 then .error .bad
    else match rd a 128 with
      | .error x => .error x
      | .ok node =>
        let st := hitChildren y h.t node ++ st
        if 64 < st.length ∨ visits + 1 = 65536 then .error .bad else traceWalk rd y n (visits + 1) st h

/-- Steps of a walk, which ends with its 65,536th node: each visits a node, a leaf or drops an entry, four entries to a node. -/
def traceFuel : Nat := 65536 * 5 + 2

/-- What an ended TRACE appends. -/
def traceEnd : List Word := [0x7F800000, 0xFFFFFFFE, 0, 0]

/-- TRACE's result (R235). -/
def traceResult (rd : Reader) (y : Ray) (root : Nat) : Except UStop (List Word) :=
  let miss : List Word := [0x7F800000, 0xFFFFFFFF, 0, 0]
  if y.dead then .ok miss
  else match traceWalk rd y traceFuel 0 [(y.tmin, 2 ^ 62 + root)] { t := y.tmax, id := 0xFFFFFFFF, u := 0, v := 0 } with
    | .error .bad => .ok traceEnd
    | .error x => .error x
    | .ok h => .ok (if h.id = 0xFFFFFFFF then miss else [word h.t, word h.id, word h.u, word h.v])

/-! ### MARCH (R245 to R253) -/

/-- A medium descriptor's fields (Table 15.1). -/
structure Medium where
  maj : Nat
  cells : Nat
  bricks : Nat
  org : List Nat
  h : Nat
  n : List Nat
  deriving DecidableEq, Repr

def Medium.parse (d : Nat) : Medium :=
  { maj := fld d 0 64, cells := fld d 64 64, bricks := fld d 128 64, org := [fld d 192 32, fld d 224 32, fld d 256 32],
    h := fld d 288 32, n := [fld d 320 8 + 1, fld d 328 8 + 1, fld d 336 8 + 1] }

/-- A valid descriptor (R245). -/
def Medium.ok (m : Medium) (d : Nat) : Bool :=
  fld d 344 168 == 0 && !bitOf m.h 31 && decide (1 ≤ fld m.h 23 8) && decide (fld m.h 23 8 ≤ 254) &&
    m.org.all (fun p => isFin (v32 p)) && m.maj % 2 == 0 && m.cells % 4 == 0 && m.bricks % 1024 == 0

/-- How a march takes its draws (R247). -/
structure Draws where
  buf : Bool
  key : Nat
  ctr : Nat
  deriving DecidableEq, Repr

def Draws.of (buf : Bool) (q : List Word) : Draws :=
  let w := fun (i : Nat) => nthD q i 0
  { buf := buf, key := cat (w 1) (w 0), ctr := if buf then (w 2).toNat else cat (w 3) (w 2) }

/-- Draw `j` of a call as an FP32 pattern. -/
def Draws.take (s : Draws) (rd : Reader) (j : Nat) : Except UStop Nat :=
  if s.buf then
    match rd (s.key + 4 * ((s.ctr + j) % 2 ^ 32)) 4 with
    | .error x => .error x
    | .ok u => .ok (if !(v32 u).isNan && !lt32 u 0 && lt32 u one32 then u else 0)
  else .ok (drawF (draw24 s.key ((s.ctr + j) % 2 ^ 64)))

/-- The progress of a march: distance, draws and null collisions so far, cell, exits and steps per axis. -/
structure March where
  t : Nat
  draws : Nat
  nulls : Nat
  cells : Nat
  c : List Nat
  tn : List Nat
  dt : List Nat
  deriving DecidableEq, Repr

/-- How a march or a cell ends: an event, or on to the next cell; `stopped` keeps the counts of a march that stops. -/
inductive MRes where
  | event (kind : Nat) (m : March)
  | crossed (m : March)
  | stopped (x : UStop) (m : March)
  deriving DecidableEq, Repr

/-- What stays the same through a march. -/
structure MCtx where
  rd : Reader
  y : Ray
  md : Medium
  src : Draws
  all : Bool
  lim : Nat
  /-- Texel indices for filter coordinates that are not finite: the model's choice, a free one (entry 99). -/
  free : Nat → Nat

def inf32 : Nat := Fmt.f32.infP

/-- p on an axis at a distance. -/
def Ray.at (y : Ray) (t ax : Nat) : Nat := fma32 t (nthD y.d ax 0) (nthD y.o ax 0)

/-- rne32(org + k * h), one rounding. -/
def Medium.edge (m : Medium) (ax k : Nat) : Nat :=
  r32 .rne (sumV (v32 (nthD m.org ax 0)) (mulV (valOfInt (k : Int)) (v32 m.h)).1)

/-- A brick's coordinate on an axis (R246). -/
def Medium.coord (m : Medium) (ax c p : Nat) : Nat := mul32 (sub32 p (m.edge ax c)) (rcp32 m.h)

/-- The texels of a brick, read one after another. -/
def brickTexels (rd : Reader) (base : Nat) : List (Nat × Nat × Nat) → Except UStop (List (List Nat))
  | [] => .ok []
  | (i, j, k) :: l =>
    match rd (base + 2 * ((8 * k + j) * 8 + i)) 2 with
    | .error x => .error x
    | .ok h => match brickTexels rd base l with
      | .error x => .error x
      | .ok vs => .ok ([(roundV Fmt.f32 .rne false (decodeF Fmt.f16 h)).bits] :: vs)

/-- Density at the point at distance `t` in the march's cell (R246). Where p or (p - edge) * rcp32(h) is not finite, the spec names no
texel: the index on that axis is free, and the weight of a NaN (entry 99). -/
def MCtx.density (x : MCtx) (m : March) (i : Nat) : Except UStop Val :=
  match x.rd (x.md.cells + 4 * i) 4 with
  | .error e => .error e
  | .ok w =>
    if !bitOf w 31 then (if fld w 16 15 ≠ 0 then .error .bad else .ok (decodeF Fmt.f16 (w % 65536)))
    else
      let ax := fun (k : Nat) => axisOf true 0 (x.free (3 * m.draws + k)) (x.md.coord k (nthD m.c k 0) (x.y.at m.t k)) 8
      match brickTexels x.rd (x.md.bricks + 1024 * fld w 0 31) ((corners (ax 0) (ax 1) (ax 2)).filterMap id) with
      | .error e => .error e
      | .ok vs => .ok (v32 ((filter3 (ax 0) (ax 1) (ax 2) vs).headD 0))

/-- s of R252 for a draw `u` and a majorant. -/
def stepLen (u : Nat) (mu : Val) : Nat :=
  let g := (fnLg2 (v32 (sub32 one32 u))).round Fmt.f32
  mul32 (neg32 g.bits) (divRound Fmt.f32 (v32 0x3F317218) mu)

/-- The collisions within a cell of index `i`, majorant `mu` and exit `xx` (R252). -/
def MCtx.cell (x : MCtx) (i : Nat) (mu : Val) (xx : Nat) : Nat → March → MRes
  | 0, m => .event 3 m
  | n + 1, m =>
    match x.src.take x.rd m.draws with
    | .error e => .stopped e m
    | .ok u =>
      let m := { m with draws := m.draws + 1 }
      let tt := add32 m.t (stepLen u mu)
      if !lt32 tt xx then .crossed m
      else
        let m := { m with t := tt }
        if x.all then .event 2 m
        else match x.src.take x.rd m.draws with
          | .error e => .stopped e m
          | .ok u2 =>
            let m := { m with draws := m.draws + 1 }
            match x.density m i with
            | .error e => .stopped e m
            | .ok d =>
              if ltV (mulV (v32 u2) mu).1 d then .event 1 m
              else
                let m := { m with nulls := m.nulls + 1 }
                if m.nulls = 65535 then .event 3 m else MCtx.cell x i mu xx n m

/-- The axis of least tn, ties to x, then y, then z. -/
def leastAxis (tn : List Nat) : Nat :=
  let k := if lt32 (nthD tn 1 0) (nthD tn 0 0) then 1 else 0
  if lt32 (nthD tn 2 0) (nthD tn k 0) then 2 else k

/-- The index of the march's cell. -/
def Medium.index (md : Medium) (c : List Nat) : Nat := nthD c 0 0 + nthD md.n 0 1 * (nthD c 1 0 + nthD md.n 1 1 * nthD c 2 0)

/-- On to the next cell after this one is run (R251). -/
def MCtx.advance (x : MCtx) (leave : Nat) (m : March) : MRes :=
  let ax := leastAxis m.tn
  let out := MRes.event 0 { m with t := leave }
  if !lt32 (nthD m.tn ax 0) leave then out
  else
    let up := lt32 0 (nthD x.y.d ax 0)
    let c := nthD m.c ax 0
    if (if up then decide (nthD x.md.n ax 1 ≤ c + 1) else c == 0) then out
    else if m.cells = x.lim then .event 3 m
    else .crossed { m with c := setNth m.c ax (if up then c + 1 else c - 1), tn := modNth m.tn ax (fun v => add32 v (nthD m.dt ax 0)), cells := m.cells + 1 }

/-- The walk of the grid. -/
def MCtx.walk (x : MCtx) (leave : Nat) : Nat → March → MRes
  | 0, m => .event 3 m
  | n + 1, m =>
    let xx := min32 (min32 (min32 (nthD m.tn 0 0) (nthD m.tn 1 0)) (nthD m.tn 2 0)) leave
    let i := x.md.index m.c
    match x.rd (x.md.maj + 2 * i) 2 with
    | .error e => .stopped e m
    | .ok w =>
      let mu := decodeF Fmt.f16 w
      let ran := if isFin mu && ltV (.fin false 0 0) mu then x.cell i mu xx 65536 m else .crossed m
      match ran with
      | .crossed m =>
        match x.advance leave { m with t := xx } with
        | .crossed m => MCtx.walk x leave n m
        | z => z
      | z => z

/-- The first cell on an axis: exact (p - org) / h, a boundary going to the lower cell of a falling ray; `free` stands
for the cell of a point that is not a number. -/
def firstCell (md : Medium) (y : Ray) (free t ax : Nat) : Nat :=
  let top := nthD md.n ax 1 - 1
  match sumV (v32 (y.at t ax)) (v32 (nthD md.org ax 0)).neg, v32 md.h with
  | .fin s k e, .fin _ j f =>
    let num : Int := (if s then -((k * pow2n (e - f) : Nat) : Int) else ((k * pow2n (e - f) : Nat) : Int))
    let den : Int := ((j * pow2d (e - f) : Nat) : Int)
    let c := num / den
    let c := if num % den = 0 ∧ lt32 (nthD y.d ax 0) 0 then c - 1 else c
    (max 0 (min (top : Int) c)).toNat
  | .inf s, _ => if s then 0 else top
  | _, _ => free % (top + 1)

/-- The march at its entry (R251). -/
def firstMarch (md : Medium) (y : Ray) (free : Nat → Nat) (t : Nat) : March :=
  let c := (List.range 3).map (fun ax => firstCell md y (free ax) t ax)
  let d := fun (ax : Nat) => nthD y.d ax 0
  { t := t, draws := 0, nulls := 0, cells := 1, c := c
    tn := (List.range 3).map (fun ax =>
      if (v32 (d ax)).isZero then inf32
      else
        let b := md.edge ax (nthD c ax 0 + (if lt32 0 (d ax) then 1 else 0))
        r32 .rne (prodZ (sumV (v32 b) (v32 (nthD y.o ax 0)).neg) (v32 (rcp32 (d ax)))))
    dt := (List.range 3).map (fun ax => mul32 md.h (signOp 32 2 (rcp32 (d ax)))) }

/-- An event's registers (Table 15.3). -/
def eventWords (y : Ray) (kind t cell nulls draws : Nat) : List Word :=
  [word kind, word (y.at t 0), word (y.at t 1), word (y.at t 2), word t, word cell, word nulls, word draws]

def March.cellWord (m : March) : Nat := nthD m.c 0 0 + nthD m.c 1 0 * 2 ^ 8 + nthD m.c 2 0 * 2 ^ 16

/-- A kind-4 event. -/
def errorWords (nulls draws : Nat) : List Word := [4, 0, 0, 0, 0, 0xFFFFFFFF, word nulls, word draws]

/-- MARCH's result (R253); a march that stops for a page or for poison gives the counts reached. -/
def marchResult (rd : Reader) (y : Ray) (src : Draws) (desc : Nat) (all : Bool) (lim : Nat) (free : Nat → Nat) :
    Except (UStop × Nat × Nat) (List Word) :=
  let none4 := fun (t : Nat) => eventWords y 0 t 0xFFFFFFFF 0 0
  let err := fun (x : UStop) (nulls draws : Nat) => match x with
    | .bad => .ok (errorWords nulls draws)
    | .page va why => .error (.page va why, nulls, draws)
    | .poison l => .error (.poison l, nulls, draws)
  if y.dead then .ok (none4 y.tmax)
  else match rd desc 64 with
    | .error x => err x 0 0
    | .ok d =>
      let md := Medium.parse d
      if !md.ok d then .ok (errorWords 0 0)
      else
        let hi := (List.range 3).map (fun ax => md.edge ax (nthD md.n ax 1))
        match boxTest y md.org hi y.tmax with
        | none => .ok (none4 y.tmax)
        | some (enter, leave) =>
          let x : MCtx := { rd := rd, y := y, md := md, src := src, all := all, lim := 8 * 2 ^ lim, free := free }
          match x.walk leave 1025 (firstMarch md y free enter) with
          | .event k m => .ok (eventWords y k m.t m.cellWord m.nulls m.draws)
          | .crossed m => .ok (eventWords y 3 m.t m.cellWord m.nulls m.draws)
          | .stopped e m => err e m.nulls m.draws

end Sys2Proof.Machine
end

