-- ==== Sys2Proof/Machine/Render.lean ====
section
/-! DEFINITION. Continuation records and XCALL, triangles and the fixed rasteriser (chapter 14). -/

namespace Sys2Proof.Machine

/-! ### The record area (R226) -/

/-- Bytes kept for a record: the most that one takes. -/
def recBytes : Nat := 544

/-- Base and number of places of a grid's record area. -/
def Run.recArea (r : Run) (g : Nat) : Nat × Nat :=
  match (r.grid g).bind (fun x => r.queue (qkey x.part x.queue)) with
  | some q => (q.reca, q.recsz * 65536 / recBytes)
  | none => (0, 0)

/-- Key of the queue that a grid came from. -/
def Run.queueOf (r : Run) (g : Nat) : Option Nat := (r.grid g).map (fun x => qkey x.part x.queue)

/-- Places of the area that records hold: the area is the queue's. -/
def Run.recUsed (r : Run) (g : Nat) : List Nat :=
  (r.dev.sched.recs.filter (fun e => r.queueOf e.2.grid == r.queueOf g)).map (fun e => e.2.slot)

/-- Whether the area has `k` free places. -/
def Run.recRoom (r : Run) (g k : Nat) : Bool := decide ((r.recUsed g).length + k ≤ (r.recArea g).2)

/-- A free place, by free choice. -/
def Run.recPlace (r : Run) (g tag : Nat) : Nat :=
  let used := r.recUsed g
  let n := (r.recArea g).2
  let start := r.pick tag n
  (((List.range (used.length + 1)).map (fun i => (start + i) % n)).find? (fun k => !used.contains k)).getD 0

/-- The catchword (Table 14.1). -/
def Rec.catchword (x : Rec) : Nat :=
  x.pred.toNat + x.kind * 2 ^ 32 + x.a * 2 ^ 36 + x.n * 2 ^ 40 + x.grid % 65536 * 2 ^ 48 + x.resume.toNat * 2 ^ 64

/-- The bytes of a record: catchword, registers saved and appended, zero up to a multiple of 32. -/
def Rec.bytes (x : Rec) : List Byte :=
  let n := 16 + 4 * (x.n + x.a)
  let regs := x.regs ++ List.replicate (x.n + x.a - x.regs.length) 0
  bytesOf 16 x.catchword ++ regs.flatMap (fun w => bytesOf 4 w.toNat) ++ List.replicate (alignUp n 32 - n) 0

/-- Writes a record to its place, which lies in the partition's memory or is not written (R328). -/
def Run.recWrite (r : Run) (x : Rec) : Run :=
  let pa := (r.recArea x.grid).1 + recBytes * x.slot
  let part := match r.grid x.grid with
    | some g => g.part
    | none => 8
  if r.partHolds part pa recBytes then r.homeWrite none pa x.bytes else r

/-! ### XCALL (R230, R231, R250) -/

/-- What an XCALL asks for: its kind, registers saved and appended, resume offset. -/
structure XCall where
  kind : Nat
  n : Nat
  a : Nat
  off : Int
  deriving DecidableEq, Repr

/-- The record of a suspending lane. -/
def Run.recOf (r : Run) (e : Env) (x : XCall) (l : Nat) (work : Work) : Rec :=
  { resume := BitVec.ofNat 64 (relTarget e.pc x.off), grid := e.grid, kind := x.kind, n := x.n, a := x.a, pred := (e.lane l).p,
    regs := e.vs l 0 x.n, work := work, slot := r.recPlace e.grid (9 * 2 ^ 20 + l), core := e.wp.core,
    completed := if work = .susp then some r.clk.dtime else none, inUse := false }

/-- One lane suspends: its record is written and it issues no more. -/
def Run.suspend (r : Run) (e : Env) (x : XCall) (l : Nat) (work : Work) : Run :=
  let y := r.recOf e x l work
  let (id, r) := r.freshUid
  let r := (r.modSched (fun s => { s with recs := putM s.recs id y })).recWrite y
  r.threadDone e.w l .suspended

/-- The lanes of an XCALL suspend, the others of the split go on. -/
def Run.suspendAll (r : Run) (e : Env) (g : Nat) (x : XCall) (works : List (Nat × Work)) : Run :=
  let on := e.on g
  let r := r.onLanes e.w (e.lanes.filter (fun l => !on.contains l)) (fun _ l => { l with pc := nextPc e.pc e.words, wait := .none })
  works.foldl (fun r y => r.suspend e x y.1 y.2) r

/-- The first lane that a check finds at fault. -/
def firstBad (chk : Nat → Option (Nat × Nat)) : List Nat → Option (Nat × Nat × Nat)
  | [] => none
  | l :: ls =>
    match chk l with
    | some (c, a) => some (c, a, l)
    | none => firstBad chk ls

/-- An XCALL: its checks, then room for its records, then the release of every thread (R231). `works` gives what the unit has
to do, with what the meaning has read for it. -/
def Run.xcall (r : Run) (e : Env) (g : Nat) (x : XCall) (chk : Nat → Option (Nat × Nat))
    (works : Run → Except Ret (Run × List (Nat × Work))) : Ret :=
  let t := relTarget e.pc x.off
  let on := e.on g
  match r.targetFault e e.lead t with
  | some z => z
  | none => match firstBad chk on with
    | some (c, a, l) => .trap c a l
    | none =>
      if on.isEmpty then .done r
      else match works r with
        | .error z => z
        | .ok _ =>
          if !r.recRoom e.grid on.length then .wait .records
          else r.released e on 2 false (fun r =>
            match works r with
            | .error z => z
            | .ok (r, ws) => .moved (r.suspendAll e g x ws))

/-- The same work for every participating lane. -/
def laneWorks (e : Env) (g : Nat) (f : Nat → Work) (r : Run) : Except Ret (Run × List (Nat × Work)) :=
  .ok (r, (e.on g).map (fun l => (l, f l)))

/-- A misaligned or non-canonical address. -/
def badAddr (va align : Nat) : Option (Nat × Nat) :=
  if va % align ≠ 0 then some (4, va) else if !canonical va then some (0x12, va) else none

def execTrace (g n a b : Nat) (off : Int) (s : State) : Host.Outcome State Fault Refusal :=
  issue (.trace g n a b off) (fun r e =>
    r.xcall e g { kind := 0, n := n, a := 4, off := off } (fun l => badAddr (e.v2 l b) 128)
      (laneWorks e g (fun l => .trace (e.vs l a 8) (e.v2 l b)))) s

/-- MARCH's checks at issue: alignment of descriptor and buffer before their canonical form (R130, R250). -/
def marchBad (buf : Bool) (desc adr : Nat) : Option (Nat × Nat) :=
  if desc % 64 ≠ 0 then some (4, desc)
  else if buf ∧ adr % 4 ≠ 0 then some (4, adr)
  else if !canonical desc then some (0x12, desc)
  else if buf ∧ !canonical adr then some (0x12, adr)
  else none

def execMarch (g n a b c : Nat) (buf all : Bool) (lim : Nat) (off : Int) (s : State) : Host.Outcome State Fault Refusal :=
  issue (.march g n a b c buf all lim off) (fun r e =>
    r.xcall e g { kind := 1, n := n, a := 8, off := off } (fun l => marchBad buf (e.v2 l b) (e.v2 l c))
      (laneWorks e g (fun l => .march (e.vs l a 8) (e.v2 l b) (e.vs l c 4) buf all lim))) s

def execSusp (g n : Nat) (off : Int) (s : State) : Host.Outcome State Fault Refusal :=
  issue (.susp g n off) (fun r e =>
    r.xcall e g { kind := 2, n := n, a := 0, off := off } (fun _ => none) (laneWorks e g (fun _ => .susp))) s

/-- SAMPLEC: any fault of SAMPLE is raised at issue; the texels are read as the thread suspends. -/
def execSamplec (g n a b : Nat) (off : Int) (s : State) : Host.Outcome State Fault Refusal :=
  issue (.samplec g n a b off) (fun r e =>
    r.xcall e g { kind := 3, n := n, a := 4, off := off } (fun _ => none) (fun r =>
      match r.texResults e 4 g b (r.sampleFp e a) with
      | .error z => .error z
      | .ok xs => .ok (r.feedbackAll e xs, xs.map (fun x => (x.1, .sample (x.2.chans.map word)))))) s

/-! ### The unit's results (R227, R235, R253) -/

/-- Every update-only copy is flushed, as any of them may be at any time (R137). -/
def Run.flushAll (r : Run) : Run :=
  (r.dev.ms.partials.map (·.1)).foldl (fun r c => r.flushCore c (fun _ => true)) r

/-- What a unit appends to a record, or why it stops and the counts that a march has reached. -/
def Run.unitResult (r : Run) (x : Rec) : Except (UStop × Nat × Nat) (List Word) :=
  let rd := r.unitRead ((r.spaceOfGrid x.grid).ofCore x.core) (r.nodeOf x.grid)
  match x.work with
  | .susp => .ok []
  | .sample ws => .ok ws
  | .trace ray root => match traceResult rd (Ray.of ray) root with
    | .ok ws => .ok ws
    | .error y => .error (y, 0, 0)
  | .march ray desc quad buf all lim =>
    marchResult rd (Ray.of ray) (Draws.of buf quad) desc all lim (fun k => r.pick (2 ^ 40 + k) (2 ^ 80))

/-- Result number `k` that a unit rounds and appends for an XCALL: t, u and v of a hit; the point and the distance of an event; the
channels of a sample. What it rounds on the way is not among them. [DEDUCED, unsafe] (entry 129) -/
def Work.rounded (x : Work) (ws : List Word) (k : Nat) : Option (Fmt × Nat) :=
  let word := fun (n : Nat) => some (Fmt.f32, (nthD ws n 0).toNat)
  match x with
  | .susp => none
  | .trace _ _ => if k < 4 ∧ k ≠ 1 ∧ (nthD ws 1 0).toNat < 0xFFFFFFFE then word k else none
  | .march _ _ _ _ _ _ => if 1 ≤ k ∧ k ≤ 4 ∧ (nthD ws 0 0).toNat ≠ 4 then word k else none
  | .sample _ => if k < 4 then word k else none

/-- The shadow of the ray and march unit, or of the texture filter, finds this sign and prefix for result number `k` of the work of a
suspended thread: where they differ from what it would append, a machine check of the node (R355). -/
def Run.shadowRec (r : Run) (id k : Nat) (sign : Bool) (q : Nat) : Run :=
  match lookM r.dev.sched.recs id with
  | none => r
  | some x =>
    let fails := match r.flushAll.unitResult x with
      | .ok ws => (match x.work.rounded ws k with
        | some (t, y) => shadowFails t y sign q
        | none => false)
      | .error _ => false
    if x.completed.isNone && fails then r.machineCheck x.grid x.core 0x0F 1 0xFF noAddr else r

/-- What a unit appends when a fault of its walk has been answered as fatal: the walk ends there, with the counts that a march has
reached (R235, R253, R323). -/
def Work.fatal (x : Work) (counts : Nat × Nat) : List Word :=
  match x with
  | .trace _ _ => traceEnd
  | .march _ _ _ _ _ _ => errorWords counts.1 counts.2
  | .susp => []
  | .sample ws => ws

/-- A unit's walk meets a page that is not resident: it waits for the answer; a record of the page that waits for its answer is
shared (R322). -/
def Run.unitFault (r : Run) (k : Nat) (x : Rec) (va why : Nat) (counts : Nat × Nat) : Run :=
  let (id, r) := r.freshId
  let (part, q) := match r.grid x.grid with
    | some g => (g.part, g.queue)
    | none => (0, 0)
  let asid := (r.spaceOfGrid x.grid).asid
  let seq := (r.dev.sched.faults.find? (fun e => e.2.part == part && e.2.asid == asid && e.2.va / 65536 == va / 65536 &&
    e.2.outstanding)).bind (fun e => e.2.seq)
  let f : PFault := { warp := 0, lanes := [], lane := 0, part := part, asid := asid, va := va, queue := q, core := x.core, kind := 4,
                      why := why, seq := seq, time := r.clk.dtime, unit := some k, fatal := false, log := none, counts := counts }
  r.modSched (fun s => { s with faults := putM s.faults id f })

/-- Appends results and completes the record. -/
def Run.recComplete (r : Run) (k : Nat) (x : Rec) (ws : List Word) : Run :=
  let y := { x with regs := x.regs ++ ws, completed := some r.clk.dtime }
  (r.modSched (fun s => { s with recs := putM s.recs k y })).recWrite y

/-- A unit appends its results to record `k`, meets a fault, or reads poison (R352). -/
def execRecordCompleted (k : Nat) (s : State) : Host.Outcome State Fault Refusal :=
  act (fun r =>
    match lookM r.dev.sched.recs k with
    | none => r
    | some x =>
      if x.completed.isSome then r
      else
        match r.dev.sched.faults.find? (fun e => e.2.unit == some k) with
        | some f =>
          if f.2.fatal then (r.modSched (fun s => { s with faults := delM s.faults f.1 })).recComplete k x (x.work.fatal f.2.counts)
          else r
        | none =>
          let r := r.flushAll
          match r.unitResult x with
          | .ok ws => r.recComplete k x ws
          | .error (.page va why, n) => r.unitFault k x va why n
          | .error (.poison l, _) => r.machineCheck x.grid x.core 0x10 0 rowMemory l
          | .error (.bad, n) => r.recComplete k x (x.work.fatal n)) s

/-! ### Triangles (R239 to R241) -/

/-- A draw descriptor's fields (Table 14.6). -/
structure DrawDesc where
  vis : Nat
  width : Nat
  height : Nat
  thr : Nat
  cullb : Bool
  qbase : Nat
  qlog : Nat
  widx : Nat
  ridx : Nat
  stats : Nat
  deriving DecidableEq, Repr

def DrawDesc.parse (d : Nat) : DrawDesc :=
  { vis := fld d 0 64, width := fld d 64 16, height := fld d 80 16, thr := fld d 96 16, cullb := bitOf d 112, qbase := fld d 128 64,
    qlog := fld d 192 8, widx := fld d 256 64, ridx := fld d 320 64, stats := fld d 384 64 }

/-- A descriptor that TRISUB accepts (R240). -/
def DrawDesc.ok (x : DrawDesc) (d : Nat) : Bool :=
  fld d 113 15 == 0 && fld d 200 56 == 0 && fld d 448 64 == 0 && decide (4 ≤ x.qlog) && decide (x.qlog ≤ 20) && x.qbase % 64 == 0 &&
    x.stats % 8 == 0 && x.vis % 8 == 0 && x.width != 0 && x.height != 0

/-- A triangle record: coordinates, depths, identifier (R239). -/
def triOf (bs : List Byte) : List Int × List Word × Nat :=
  let w := fun (i : Nat) => ofBytes ((bs.drop (4 * i)).take 4)
  ((List.range 6).map (fun i => sx (w i) 32), (List.range 3).map (fun i => word (w (6 + i))), w 9)

/-- Twice the signed area (R241). -/
def area2 (c : List Int) : Int :=
  let k := fun (i : Nat) => nthD c i 0
  (k 2 - k 0) * (k 5 - k 1) - (k 4 - k 0) * (k 3 - k 1)

/-- Class of a record: 0 culled, 1 large, 2 small. -/
def triClass (x : DrawDesc) (c : List Int) : Nat :=
  let a := area2 c
  if a = 0 ∨ (a < 0 ∧ x.cullb) then 0 else if 512 * x.thr ≤ a.natAbs then 1 else 2

/-- The draw of a grid and a descriptor, made when its first record is read. -/
def Run.drawOf (r : Run) (g desc : Nat) (x : DrawDesc) : Nat × Run :=
  match r.dev.sched.draws.find? (fun e => e.2.grid == g && e.2.desc == desc) with
  | some e => (e.1, r)
  | none =>
    let (id, r) := r.freshUid
    let d : Draw := { grid := g, desc := desc, width := x.width, height := x.height, vis := x.vis, stats := x.stats, tris := [],
                      bins := [], counters := [0, 0, 0, 0, 0, 0, 0] }
    (id, r.modSched (fun s => { s with draws := putM s.draws id d }))

def Run.modDraw (r : Run) (k : Nat) (f : Draw → Draw) : Run := r.modSched (fun s => { s with draws := modM s.draws k f })

/-- Counts in the statistics of a draw. -/
def Draw.count (d : Draw) (i n : Nat) : Draw := { d with counters := modNth d.counters i (fun x => x + n) }

/-- The physical address of an 8-byte word of the descriptor, and of an entry of the small-triangle queue; whether a write to one of
them goes to a remote page. -/
structure DrawPlace where
  remote : Bool
  widx : Nat
  ridx : Nat
  entries : List Nat
  deriving DecidableEq, Repr

/-- How far TRISUB comes: records handled, those not culled, and whether it must wait. -/
structure TriRun where
  r : Run
  done : Nat
  kept : Nat
  stall : Bool
  deriving DecidableEq, Repr

/-- Appends a small triangle: the entry, then WIDX as a device-scope release that covers it; none while the queue is full or
a copy of the entry's line is still leased. -/
def Run.appendSmall (r : Run) (node : Option Nat) (x : DrawDesc) (p : DrawPlace) (bs : List Byte) : Option Run :=
  let (wb, r) := r.homeRead node p.widx 8
  let (rb, r) := r.homeRead node p.ridx 8
  let w := ofBytes wb
  let n := 2 ^ x.qlog
  let pa := nthD p.entries (w % n) 0
  if (w + 2 ^ 64 - ofBytes rb) % 2 ^ 64 = n ∨ r.gwctOf pa ≠ r.clk.dtime then none
  else some ((r.homeWrite node pa (bs ++ List.replicate 16 0)).homeWrite node p.widx (bytesOf 8 ((w + 1) % 2 ^ 64)))

/-- One record (R241). -/
def TriRun.step (x : DrawDesc) (draw : Nat) (node : Option Nat) (p : DrawPlace) (t : TriRun) (bs : List Byte) : TriRun :=
  if t.stall then t
  else
    let (c, z, id) := triOf bs
    match triClass x c with
    | 0 => { t with r := t.r.modDraw draw (fun d => (d.count 0 1).count 3 1), done := t.done + 1 }
    | 1 => { t with r := t.r.modDraw draw (fun d => { (d.count 0 1).count 1 1 with tris := d.tris ++ [(c, z, id)] }), done := t.done + 1, kept := t.kept + 1 }
    | _ =>
      match t.r.appendSmall node x p bs with
      | some r => { t with r := r.modDraw draw (fun d => (d.count 0 1).count 2 1), done := t.done + 1, kept := t.kept + 1 }
      | none => { t with stall := true }

/-- Places of the descriptor's indices and of the queue entries for the next `n` small triangles. -/
def Run.drawPlaces (r : Run) (sp : ASpace) (desc : Nat) (x : DrawDesc) (n : Nat) : Except Bad DrawPlace :=
  match r.globLoc sp .store (desc + 32) 8, r.globLoc sp .load (desc + 40) 8 with
  | .ok (.glob w rem), .ok (.glob i _) =>
    let es := (List.range n).map (fun k =>
      let j := (x.widx + k) % 2 ^ x.qlog
      (j, r.globLoc sp .store ((x.qbase + 64 * j) % 2 ^ 64) 64))
    match es.findSome? (fun e => match e.2 with
      | .error b => some b
      | .ok _ => none) with
    | some b => .error b
    | none =>
      let at' := fun (j : Nat) => (es.find? (fun e => e.1 == j)).bind (fun e => match e.2 with
        | .ok (.glob pas _) => pas.head?
        | _ => none)
      let far := rem || es.any (fun e => match e.2 with
        | .ok (.glob _ y) => y
        | _ => false)
      .ok { remote := far && n != 0, widx := w.headD 0, ridx := i.headD 0, entries := (List.range (2 ^ x.qlog)).map (fun j => (at' j).getD 0) }
  | .error b, _ => .error b
  | _, .error b => .error b
  | _, _ => .error (.trap 7 desc)

/-- The records of a TRISUB from team memory, or its fault. -/
def Run.triRecords (r : Run) (e : Env) (ta count : Nat) : Except Ret (List (List Byte)) :=
  let (gang, size) := r.teamGeom e.grid
  let at' := fun (i : Nat) => ta + 48 * i
  if ta % 16 ≠ 0 then .error (.trap 4 ta e.lead)
  else match (List.range count).find? (fun i => !teamOk gang size (at' i) 48) with
    | some i => .error (.trap 7 (at' i) e.lead)
    | none =>
      match r.tpoisonRow e.wp.team ta (48 * count) with
      | some row => .error (.mcheck row noAddr)
      | none => .ok ((List.range count).map (fun i => r.treadN e.wp.team (at' i) 48))

/-- TRISUB (R240, R241): a small triangle whose queue or WIDX lies on a remote page demotes a contained node first (R358). -/
def execTrisub (o : UXOp) (count : Nat) (s : State) : Host.Outcome State Fault Refusal :=
  uniOp (.trisub o count) o.g (fun r e =>
    let desc := e.us2 o.a
    let sp := r.spaceAt e
    let node := r.nodeOf e.grid
    match r.globLoc sp .load desc 64 with
    | .error b => b.ret 0 e.lead
    | .ok (.glob pas _) =>
      if r.poisoned node pas then .mcheck rowMemory (pas.headD 0 / 128 * 128)
      else
        let (bs, r) := r.homeRead node (pas.headD 0) 64
        let d := ofBytes bs
        let x := DrawDesc.parse d
        if !x.ok d then .trap 7 desc e.lead
        else match r.triRecords e (e.us o.b).toNat count with
          | .error z => z
          | .ok recs =>
            let (done, kept) := e.progress
            let left := recs.drop done
            let small := (left.filter (fun b => triClass x (triOf b).1 == 2)).length
            match r.drawPlaces sp desc x small with
            | .error b => b.ret 1 e.lead
            | .ok p =>
              match (if p.remote then r.demoteNow e.grid else none) with
              | some r => .waitIn r .fence
              | none =>
              if p.remote && r.commitPending e.grid then .wait .fence
              else
              let (k, r) := r.drawOf e.grid desc x
              let t := left.foldl (TriRun.step x k node p) { r := r, done := done, kept := kept, stall := false }
              if t.stall then .waitIn (t.r.progress e (some (t.done, t.kept))) .space
              else .done ((t.r.progress e none).putS e o.d (word t.kept))
    | .ok _ => .done r) s

/-! ### The fixed rasteriser (R242, R243) -/

/-- A triangle's edge functions, normalised so that the area is positive: start, dx and dy of the edges opposite
vertices 0, 1 and 2. -/
def edgesOf (c : List Int) : List (Int × Int × Int × Int) :=
  let k := fun (i : Nat) => nthD c i 0
  let s : Int := if area2 c < 0 then -1 else 1
  [(1, 2), (2, 0), (0, 1)].map (fun (j, m) =>
    (k (2 * j), k (2 * j + 1), s * (k (2 * m) - k (2 * j)), s * (k (2 * m + 1) - k (2 * j + 1))))

/-- e of a sample. -/
def edgeAt (sx sy : Int) (e : Int × Int × Int × Int) : Int := e.2.2.1 * (sy - e.2.1) - e.2.2.2 * (sx - e.1)

/-- The sample is inside an edge. -/
def edgeIn (v : Int) (e : Int × Int × Int × Int) : Bool :=
  decide (0 < v) || (v == 0 && (decide (e.2.2.2 < 0) || (e.2.2.2 == 0 && decide (0 < e.2.2.1))))

/-- Depth of a covered sample as an FP32 pattern. -/
def depthAt (es : List Int) (z : List Word) (a : Int) : Nat :=
  let t := fun (i : Nat) => (mulV (valOfInt (nthD es i 0)) (v32 (nthD z i 0).toNat)).1
  divRound Fmt.f32 (sumV (sumV (t 0) (t 1)) (t 2)) (valOfInt a)

/-- What a pixel's sample of a triangle gives: whether it is covered, and the entry where its depth lies in [0, 1]. -/
def sampleTri (t : List Int × List Word × Nat) (x y : Nat) : Option (Option Nat) :=
  let edges := edgesOf t.1
  let sx : Int := 256 * x + 128
  let sy : Int := 256 * y + 128
  let vs := edges.map (edgeAt sx sy)
  if (List.zip vs edges).all (fun p => edgeIn p.1 p.2) then
    let z := depthAt vs t.2.1 ((area2 t.1).natAbs : Int)
    if (v32 z).isNan || ltV (v32 z) (.fin false 0 0) || lt32 one32 z then some none
    else some (some ((0xFFFFFFFF - z) * 2 ^ 32 + t.2.2))
  else none

/-- Bins along a row of the target. -/
def Draw.binsX (d : Draw) : Nat := (d.width + 63) / 64

/-- Whether a triangle's bounding box overlaps a bin (R243). -/
def Draw.overlaps (d : Draw) (t : List Int × List Word × Nat) (bin : Nat) : Bool :=
  let k := fun (i : Nat) => nthD t.1 i 0
  let x0 : Int := (bin % d.binsX * 64 * 256 : Nat)
  let y0 : Int := (bin / d.binsX * 64 * 256 : Nat)
  let meets := fun (a b c lo : Int) => decide (min (min a b) c < lo + 64 * 256) && decide (lo ≤ max (max a b) c)
  meets (k 0) (k 2) (k 4) x0 && meets (k 1) (k 3) (k 5) y0

/-- Bins of the target. -/
def Draw.binCount (d : Draw) : Nat := d.binsX * ((d.height + 63) / 64)

/-- Whether a bin has triangles to process. -/
def Draw.binHas (d : Draw) (bin : Nat) : Bool := d.tris.any (fun t => d.overlaps t bin)

/-- Pixels of a bin that lie on the target. -/
def Draw.binPixels (d : Draw) (bin : Nat) : List (Nat × Nat) :=
  ((List.range 64).flatMap (fun j => (List.range 64).map (fun i => (bin % d.binsX * 64 + i, bin / d.binsX * 64 + j)))).filter
    (fun p => decide (p.1 < d.width) && decide (p.2 < d.height))

/-- The space of a grid as the fixed rasteriser reaches it, through the translation cache of the stack of the partition's first
core group (R320). -/
def Run.rasterSpace (r : Run) (g : Nat) : ASpace :=
  let sp := r.spaceOfGrid g
  match r.part sp.part with
  | some p => sp.ofStack (((List.range 16).find? (fun k => p.groups.getLsbD k)).getD 0 / 8)
  | none => sp

/-- One sample of one triangle: the atomic maximum at the home, and the counts (R242, R244). A write that fails
translation is lost. -/
def Run.rasterSample (r : Run) (k : Nat) (d : Draw) (t : List Int × List Word × Nat) (p : Nat × Nat) : Run :=
  match sampleTri t p.1 p.2 with
  | none => r
  | some z =>
    let r := r.modDraw k (fun d => d.count 4 1)
    match z with
    | none => r
    | some v =>
      let node := r.nodeOf d.grid
      match r.xlate1 (r.rasterSpace d.grid) .atomic ((d.vis + 8 * (p.2 * d.width + p.1)) % 2 ^ 64) 8 with
      | none => r
      | some pa =>
        let (o, r) := r.homeAtomic node pa 8 (fun o => max o v)
        let r := if o < v then r.modDraw k (fun d => d.count 5 1) else r
        r.modGrid d.grid (fun g => { g with gwct := max g.gwct (r.gwctOf pa) })

/-- A bin has an atomic on a remote page. -/
def Run.binRemote (r : Run) (d : Draw) (bin : Nat) : Bool :=
  (d.tris.filter (fun t => d.overlaps t bin)).any (fun t => (d.binPixels bin).any (fun p =>
    match sampleTri t p.1 p.2 with
    | some (some _) => r.remotePage (r.rasterSpace d.grid) .atomic ((d.vis + 8 * (p.2 * d.width + p.1)) % 2 ^ 64)
    | _ => false))

/-- Every team of a grid has been dispatched and has completed. -/
def Run.teamsDone (r : Run) (g : Nat) : Bool :=
  match r.grid g with
  | some x => x.st == .running && decide (x.pkt.teams ≤ x.nextTeam) && r.dev.sched.teams.all (fun e => e.2.grid != g || e.2.complete)
  | none => false

/-- A bin processes every triangle sent to it, in submission order, and is committed, once the draw has submitted its
last record (R243); atomics on a remote page demote a contained node first (R358). -/
def execRasterBinProcess (draw bin : Nat) (s : State) : Host.Outcome State Fault Refusal :=
  act (fun r =>
    match lookM r.dev.sched.draws draw with
    | none => r
    | some d =>
      if d.binCount ≤ bin || d.bins.contains bin || !d.binHas bin || !r.teamsDone d.grid || r.commitPending d.grid then r
      else if (r.nodeOf d.grid).isSome && r.binRemote d bin then (r.demoteNow d.grid).getD r
      else
        let ts := d.tris.filter (fun t => d.overlaps t bin)
        let r := ts.foldl (fun r t => (d.binPixels bin).foldl (fun r p => r.rasterSample draw d t p) r) r
        r.modDraw draw (fun d => { d with bins := addNew d.bins bin })) s

end Sys2Proof.Machine
end

