-- ==== Sys2Proof/Machine/Volume.lean ====
section
/-! DEFINITION. The draw RND and the compositing unit: banks bound for compositing, terms, drains, the log and its replay (R249, R254 to R261). -/

namespace Sys2Proof.Machine

/-- RND (R249). -/
def execRnd (g d a b : Nat) (int : Bool) (s : State) : Host.Outcome State Fault Refusal :=
  laneOp (.rnd g d a b int) g (fun e l =>
    let k := draw24 (e.v2 l a) (e.v2 l b)
    LaneRes.reg d (word (if int then k else drawF k))) s

/-! ### Slots (Table 15.5) -/

/-- A buffered term: key, radiance and transmittance as FP16 patterns. -/
structure CTerm where
  key : Nat
  li : List Nat
  ti : Nat
  deriving DecidableEq, Repr

structure CSlot where
  buf : List CTerm
  ret : Bool
  lovf : Bool
  kv : Bool
  logn : Nat
  disc : Nat
  late : Nat
  keyd : Nat
  t : Nat
  rad : List Nat
  deriving DecidableEq, Repr

def CTerm.parse (x : Nat) : CTerm :=
  { key := fld x 0 32, li := [fld x 32 16, fld x 48 16, fld x 64 16], ti := fld x 80 16 }

def CTerm.bits (m : CTerm) : Nat :=
  m.key + nthD m.li 0 0 * 2 ^ 32 + nthD m.li 1 0 * 2 ^ 48 + nthD m.li 2 0 * 2 ^ 64 + m.ti * 2 ^ 80

def CSlot.parse (x : Nat) : CSlot :=
  { buf := (List.range (min 8 (fld x 208 8))).map (fun k => CTerm.parse (fld x (256 + 96 * k) 96))
    ret := bitOf x 216, lovf := bitOf x 217, kv := bitOf x 218, logn := fld x 192 16, disc := fld x 176 16
    late := fld x 160 16, keyd := fld x 128 32, t := fld x 96 32, rad := [fld x 0 32, fld x 32 32, fld x 64 32] }

/-- FLAGS. -/
def CSlot.flags (s : CSlot) : Nat := boolN s.ret + 2 * boolN s.lovf + 4 * boolN s.kv

def CSlot.bits (s : CSlot) : Nat :=
  let low := nthD s.rad 0 0 + nthD s.rad 1 0 * 2 ^ 32 + nthD s.rad 2 0 * 2 ^ 64 + s.t * 2 ^ 96 + s.keyd * 2 ^ 128 +
    s.late * 2 ^ 160 + s.disc * 2 ^ 176 + s.logn * 2 ^ 192 + s.buf.length * 2 ^ 208 + s.flags * 2 ^ 216
  (List.zip (List.range 8) s.buf).foldl (fun a e => a + e.2.bits * 2 ^ (256 + 96 * e.1)) low

/-- A slot as binding leaves it. -/
def CSlot.start : CSlot :=
  { buf := [], ret := false, lovf := false, kv := false, logn := 0, disc := 0, late := 0, keyd := 0, t := one32, rad := [0, 0, 0] }

/-- A saturating count. -/
def satCount (n : Nat) : Nat := min 65535 n

/-! ### Draining (R257, R259) -/

/-- Where a log entry would go: its bytes, a page that is not resident, or nowhere. -/
inductive LogTo where
  | at (pa : Nat) (rem : Bool)
  | page (why : Nat)
  | lost
  deriving DecidableEq, Repr

/-- What a drain of a bank's slots rests on: the binding, and where a log address leads. -/
structure DCtx where
  bind : CBind
  logAt : Nat → LogTo

/-- The threshold in force (R254). -/
def CBind.thr (b : CBind) : Nat := if b.threshold = 0 then 0x3A800000 else b.threshold.toNat

/-- Address of log entry `n` of slot `j`. -/
def CBind.entry (b : CBind) (j n : Nat) : Nat := b.base + 16 * (2 ^ b.logsz * j + n)

/-- A drain in progress: the slot, the log writes so far, the page it is held by, and the addresses of log writes that an
answer of fatal still leaves unwritten, one for each answer. -/
structure Drain where
  s : CSlot
  logs : List (Nat × Bool × List Byte)
  held : Option (Nat × Nat)
  lost : List Nat
  deriving DecidableEq, Repr

/-- An FP16 pattern in FP32, exact. -/
def h2f (p : Nat) : Nat := (roundV Fmt.f32 .rne false (decodeF Fmt.f16 p)).bits

/-- A log entry (Table 15.6). -/
def logBits (m : CTerm) (p : Nat) : Nat := m.bits + p * 2 ^ 96

/-- Logs one term; an answer of fatal is that of one term's drain (R259). -/
def DCtx.log (x : DCtx) (j : Nat) (m : CTerm) (p : Nat) (d : Drain) : Drain :=
  if !x.bind.logs then d
  else if d.s.logn = 2 ^ x.bind.logsz then { d with s := { d.s with lovf := true } }
  else
    let va := x.bind.entry j d.s.logn
    if d.lost.contains va then { d with s := { d.s with lovf := true }, lost := d.lost.erase va }
    else match x.logAt va with
    | .at pa rem => { d with s := { d.s with logn := d.s.logn + 1 }, logs := d.logs ++ [(pa, rem, bytesOf 16 (logBits m p))] }
    | .lost => { d with s := { d.s with lovf := true } }
    | .page y => { d with held := some (va, y) }

/-- Drains one term of slot `j`; the terms that the slot still holds stay in `d.s.buf`. -/
def DCtx.drain (x : DCtx) (j : Nat) (late : Bool) (m : CTerm) (d : Drain) : Drain :=
  let s := d.s
  let p := s.t
  let s := { s with
    rad := List.zipWith (fun a l => fma32 p (h2f l) a) s.rad m.li
    t := mul32 p (h2f m.ti)
    keyd := if late then s.keyd else m.key
    kv := true }
  let d := x.log j m p { d with s := s }
  if lt32 d.s.t x.bind.thr then
    { d with s := { d.s with ret := true, disc := satCount (d.s.disc + d.s.buf.length), buf := [] } }
  else d

/-- Drains a slot until it is empty, retires, or is held. -/
def DCtx.drainAll (x : DCtx) (j : Nat) : Nat → Drain → Drain
  | 0, d => d
  | n + 1, d =>
    match d.s.buf with
    | [] => d
    | m :: ms =>
      let d := x.drain j false m { d with s := { d.s with buf := ms } }
      if d.held.isSome then d else x.drainAll j n d

/-- Puts a term after every one whose key is not above its own. -/
def insertTerm (m : CTerm) : List CTerm → List CTerm
  | [] => [m]
  | y :: ys => if y.key ≤ m.key then y :: insertTerm m ys else m :: y :: ys

/-- CADD of one term (R256): the status. -/
def DCtx.add (x : DCtx) (j : Nat) (m : CTerm) (d : Drain) : Nat × Drain :=
  let s := d.s
  if s.ret then (2, { d with s := { s with disc := satCount (s.disc + 1) } })
  else if s.kv && decide (m.key < s.keyd) then
    let d := x.drain j true m d
    (1, { d with s := { d.s with late := satCount (d.s.late + 1) } })
  else
    let b := insertTerm m s.buf
    if b.length = 9 then
      match b with
      | [] => (0, d)
      | y :: ys => (3, x.drain j false y { d with s := { s with buf := ys } })
    else (0, { d with s := { s with buf := b } })

/-! ### Slots of the issuing core's banks -/

/-- A bound bank and its number. -/
def Run.bound (r : Run) (e : Env) (bank : Nat) : Option CBind := lookM (r.core e.wp.core).cbinds (bankKey e.wp.team bank)

/-- A slot word is good when its reserved bits are zero and it names a bank that the team has bound (R256). -/
def Run.slotWordOk (r : Run) (e : Env) (w : Nat) : Bool := decide (w < 2 ^ 13) && (r.bound e (fld w 8 5)).isSome

/-- The lowest lane whose slot word is bad. -/
def Run.slotWordBad (r : Run) (e : Env) (on : List Nat) (b : Nat) : Option Ret :=
  (on.find? (fun l => !r.slotWordOk e (e.v l b).toNat)).map (fun l => .trap 7 (e.v l b).toNat l)

def Run.cslot (r : Run) (e : Env) (bank j : Nat) : CSlot :=
  CSlot.parse (ofBytes ((r.core e.wp.core).bankBytes (bankKey e.wp.team bank) 128 (128 * j)))

def Run.putCslot (r : Run) (e : Env) (bank j : Nat) (s : CSlot) : Run :=
  r.modCore e.wp.core (fun c =>
    let k := bankKey e.wp.team bank
    { c with banks := putM c.banks k ((c.bank k).put (128 * j) (bytesOf 128 s.bits)) })

/-- An error in a slot's image (R352). -/
def Run.slotPoison (r : Run) (e : Env) (bank j n : Nat) : Option Nat :=
  (r.core e.wp.core).poisonRow (bankWord (bankKey e.wp.team bank) (32 * j)) (32 * n)

/-- The slot that a lane's slot word names: bank and number. -/
def Env.slotAt (e : Env) (b l : Nat) : Nat × Nat := (fld (e.v l b).toNat 8 5, fld (e.v l b).toNat 0 8)

/-- Addresses of log writes that this split has been told are lost, one for each answer. -/
def Env.lostLogs (e : Env) : List Nat :=
  (e.lanes.map (fun l => match (e.lane l).wait with
    | .ready (.drain ls) => ls
    | _ => [])).eraseDups.flatten

/-- Why a compositing instruction waits for what is ordered before it: with the log writes that it has been told are lost, if any. -/
def Env.orderWait (e : Env) : Why := if e.lostLogs.isEmpty then .fence else .drain e.lostLogs

/-- An acquire of a lane is outstanding: it delays the lane's compositing operations, and the checks of what they find (R261). -/
def Run.acqBefore (r : Run) (e : Env) (on : List Nat) : Bool := on.any (fun l => r.laneAcq e.w l)

/-- Where a log write at an address goes (R259, Table 21.4). -/
def Run.logTo (r : Run) (e : Env) (va : Nat) : LogTo :=
  if !canonical va then .lost
  else match r.xlate (r.spaceAt e) .store false va with
    | .ok pa rem => .at pa rem
    | .fail c y => if c = 6 then .page y else .lost

/-- The split waits for the answer of a log write's page (R259). -/
def Run.logFault (r : Run) (e : Env) (va why : Nat) : Run :=
  let id := r.dev.ms.nextId
  (r.pageFault e.w e.lanes e.lead va 1 why).modSched (fun s => { s with
    faults := modM s.faults id (fun f => { f with log := some e.lostLogs }) })

/-! ### Compositing instructions -/

/-- A compositing instruction in progress: its run, its log writes, the page it is held by, the log writes still lost, each lane's results. -/
structure Comp where
  r : Run
  logs : List (Nat × Bool × List Byte)
  held : Option (Nat × Nat)
  lost : List Nat
  res : List (Nat × List Word)
  deriving DecidableEq, Repr

/-- One change of a slot by the unit. -/
def Comp.slot (c : Comp) (e : Env) (bank j : Nat) (f : DCtx → Drain → List Word × Drain) (l : Nat) : Comp :=
  if c.held.isSome then c
  else match c.r.bound e bank with
    | none => c
    | some b =>
      let (ws, d) := f { bind := b, logAt := c.r.logTo e } { s := c.r.cslot e bank j, logs := [], held := none, lost := c.lost }
      { c with
        r := c.r.putCslot e bank j d.s
        logs := c.logs ++ d.logs
        held := d.held
        lost := d.lost
        res := c.res ++ [(l, ws)] }

/-- The end of a compositing instruction: held by a page, demoting a contained node, or its log writes leave as global
stores of the warp and its results are written (R259, R357, R358). -/
def Run.compEnd (r0 : Run) (e : Env) (d : Nat) (c : Comp) : Ret :=
  match c.held with
  | some (va, y) => .moved (r0.logFault e va y)
  | none =>
    match (if c.logs.any (fun x => x.2.1) then r0.demoteNow e.grid else none) with
    | some r => .waitIn r e.orderWait
    | none =>
      if !c.logs.isEmpty && r0.storeWaits e e.lanes then .waitIn r0 e.orderWait
      else
        let r := c.logs.foldl (fun r x => r.storeGlob e.wp.core e.w e.grid e.lanes (r.nodeOf e.grid) 0 x.1 x.2.1 x.2.2) c.r
        .done (c.res.foldl (fun r x => r.onLanes e.w [x.1] (fun _ l => l.putVs d x.2)) r)

/-- An instruction over slot words: after the acquires of its lanes its checks, then its lanes in rising order (R261). -/
def Run.comp (r : Run) (e : Env) (g d b : Nat) (f : Nat → DCtx → Nat → Drain → List Word × Drain) : Ret :=
  let on := e.on g
  if r.acqBefore e on then .wait e.orderWait
  else match r.slotWordBad e on b with
  | some z => z
  | none =>
    match on.findSome? (fun l => r.slotPoison e (e.slotAt b l).1 (e.slotAt b l).2 1) with
    | some row => .mcheck row noAddr
    | none => r.compEnd e d (on.foldl (fun c l =>
      c.slot e (e.slotAt b l).1 (e.slotAt b l).2 (fun x s => f l x (e.slotAt b l).2 s) l) { r := r, logs := [], held := none, lost := e.lostLogs, res := [] })

/-- The conversions of R256. -/
def toTerm (key : Word) (ch : List Word) (t : Word) : CTerm :=
  let h := fun (v : Val) => (roundV Fmt.f16 .rne false v).bits
  let tv := f32 t
  { key := key.toNat
    li := ch.map (fun w => h (f32 w))
    ti := if tv.isNan then 0x3C00
      else if ltV tv (.fin false 0 0) then 0
      else if ltV (f32 (word one32)) tv then 0x3C00
      else h tv }

def execCadd (g d a b c : Nat) (s : State) : Host.Outcome State Fault Refusal :=
  issue (.cadd g d a b c) (fun r e => r.comp e g d b (fun l x j m =>
    let (st, m) := x.add j (toTerm (e.v l a) (e.vs l (a + 1) 3) (e.v l c)) m
    ([word st], m))) s

def execCrd (g d b : Nat) (s : State) : Host.Outcome State Fault Refusal :=
  issue (.crd g d b) (fun r e => r.comp e g d b (fun _ x j m =>
    let m := x.drainAll j 8 m
    (m.s.rad.map word ++ [word m.s.t], m))) s

def execCrdCnt (g d b : Nat) (s : State) : Host.Outcome State Fault Refusal :=
  issue (.crdCnt g d b) (fun r e => r.comp e g d b (fun _ x _ m =>
    let s := m.s
    ([word (s.late + 2 ^ 16 * s.disc), word (s.logn + 2 ^ 16 * s.buf.length + 2 ^ 24 * s.flags), word s.keyd,
      word x.bind.thr], m))) s

/-- CFLUSH: every slot in order, then sd := 0 (R258). -/
def execCflush (g d a : Nat) (s : State) : Host.Outcome State Fault Refusal :=
  uniOp (.cflush g d a) g (fun r e =>
    let bank := (e.us a).toNat
    if r.banksOf e.grid ≤ bank then .trap 7 (limAddr 8) e.lead
    else if r.acqBefore e e.lanes then .wait e.orderWait
    else match r.bound e bank with
    | none => .trap 7 (limAddr 8) e.lead
    | some _ =>
      match r.slotPoison e bank 0 256 with
      | some row => .mcheck row noAddr
      | none =>
        let c := (List.range 256).foldl (fun c j => Comp.slot c e bank j (fun x m => ([], x.drainAll j 8 m)) 0)
          { r := r, logs := [], held := none, lost := e.lostLogs, res := [] }
        match r.compEnd e 0 { c with res := [] } with
        | .done r => .done (r.putS e d 0)
        | z => z) s

/-! ### Binding (R254) -/

/-- The first page of a log area that cannot be written. -/
def Run.logAreaBad (r : Run) (sp : ASpace) (base n : Nat) : Option Bad :=
  let starts := base :: ((List.range (n / 65536 + 1)).map (fun k => (base / 65536 + 1 + k) * 65536)).filter (fun a => decide (a < base + n))
  starts.findSome? (fun va =>
    if !canonical va then some (.trap 0x12 va)
    else match r.xlate sp .store false va with
      | .ok _ _ => none
      | .fail c y => some (badTr va c y))

/-- Every slot at the reset values of Table 15.5. -/
def bankStart : Map Byte := (List.range 256).flatMap (fun j => [(128 * j + 14, 0x80#8), (128 * j + 15, 0x3F#8)])

/-- A bank that CBIND may name: its limit, then that every acquire of its threads has completed (R261), then that no operation
names it. -/
def Run.bindable' (r : Run) (e : Env) (bank : Nat) (k : Unit → Ret) : Ret :=
  if r.banksOf e.grid ≤ bank then .trap 7 (limAddr 8) e.lead
  else if r.acqBefore e e.lanes then .wait .fence
  else if !e.met && (r.core e.wp.core).busyBank e.wp.team bank then .wait .bank
  else k ()

def execCbind (g d a : Nat) (logs : Bool) (logsz : Nat) (s : State) : Host.Outcome State Fault Refusal :=
  uniOp (.cbind g d a logs logsz) g (fun r e =>
    let bank := (e.us a).toNat
    let base := e.us2 (a + 2)
    let key := bankKey e.wp.team bank
    let bad : Option Ret :=
      if !logs then none
      else if base % 16 ≠ 0 then some (.trap 4 base e.lead)
      else if !canonical base then some (.trap 0x12 base e.lead)
      else (r.logAreaBad (r.spaceAt e) base (4096 * 2 ^ logsz)).map (fun x => x.ret 1 e.lead)
    if r.banksOf e.grid ≤ bank then .trap 7 (limAddr 8) e.lead
    else match bad with
      | some z => z
      | none => r.bindable' e bank (fun _ =>
        let b : CBind := { threshold := e.us (a + 1), logs := logs, base := base, logsz := logsz }
        let r := (r.bankClear e.wp.core key bankStart).modCore e.wp.core (fun c => { c with cbinds := putM c.cbinds key b })
        .done (r.putS e d 0))) s

def execCbindUnb (g d a : Nat) (s : State) : Host.Outcome State Fault Refusal :=
  uniOp (.cbindUnb g d a) g (fun r e =>
    let bank := (e.us a).toNat
    r.bindable' e bank (fun _ =>
      .done ((r.modCore e.wp.core (fun c => { c with cbinds := delM c.cbinds (bankKey e.wp.team bank) })).putS e d 0))) s

/-! ### Replay (R260) -/

/-- The bytes of a log entry as the unit reads them, its own writes on their way included. -/
def Run.logRead (r : Run) (e : Env) (pa : Nat) : List Byte × Run :=
  let node := r.nodeOf e.grid
  let r := r.recallLine (nkey node pa / 128)
  let own := r.ownStores e.wp.core node
  ((run pa 16).map (fun a => fillByte own (r.hread node a) a), r)

/-- The gradient step of R260: gL, gt and the new C. -/
def replayStep (g c : List Nat) (li : List Nat) (ti p : Nat) : List Nat × Nat × List Nat :=
  let gl := g.map (fun x => mul32 x p)
  let q := List.zipWith mul32 gl c
  let gt := add32 (add32 (nthD q 0 0) (nthD q 1 0)) (nthD q 2 0)
  (gl, gt, List.zipWith (fun x l => fma32 ti x l) c li)

/-- CRPL of one lane: its result, the slot after it, and an error that it has read: row and address. The slot word and the log
read are checked here, so that the lowest faulting lane's fault is delivered (R130). -/
def Run.crplLane (r : Run) (e : Env) (a bank j l word' : Nat) : Except Ret (List Word × Option (Nat × Nat) × Run) :=
  match (if r.slotWordOk e word' then r.bound e bank else none), r.slotPoison e bank j 1 with
  | none, _ => .error (.trap 7 word' l)
  | some _, some row => .ok ([], some (row, noAddr), r)
  | some b, none =>
    let s := r.cslot e bank j
    let g := (e.vs l a 3).map (fun w => w.toNat)
    let c := (e.vs l (a + 4) 3).map (fun w => w.toNat)
    if s.lovf then .ok (List.replicate 7 0 ++ [0xFFFFFFFE], none, r)
    else if s.logn = 0 then .ok ([0, 0, 0, 0] ++ c.map word ++ [0xFFFFFFFF], none, r)
    else
      let n := s.logn - 1
      match r.globLoc (r.spaceAt e) .load (b.entry j n) 16 with
      | .error x => .error (x.ret 0 l)
      | .ok (.glob pas _) =>
        let pa := pas.headD 0
        let bad := (r.poisonRow (r.nodeOf e.grid) pas).map (fun row => (row, pa / 128 * 128))
        let (bs, r) := r.logRead e pa
        let x := ofBytes bs
        let m := CTerm.parse (fld x 0 96)
        let (gl, gt, c') := replayStep g c (m.li.map h2f) (h2f m.ti) (fld x 96 32)
        .ok (gl.map word ++ [word gt] ++ c'.map word ++ [word m.key], bad, r.putCslot e bank j { s with logn := n })
      | .ok _ => .ok ([], none, r)

/-- The lanes of a CRPL in rising order; a fault in one leaves every lane as it was. -/
def Run.crplLanes (e : Env) (a b : Nat) : List Nat → Run → Except Ret (List (Nat × List Word) × Option (Nat × Nat) × Run)
  | [], r => .ok ([], none, r)
  | l :: ls, r =>
    match r.crplLane e a (e.slotAt b l).1 (e.slotAt b l).2 l (e.v l b).toNat with
    | .error z => .error z
    | .ok (ws, bad, r) =>
      match Run.crplLanes e a b ls r with
      | .error z => .error z
      | .ok (xs, more, r) => .ok ((l, ws) :: xs, bad.orElse (fun _ => more), r)

def execCrpl (g d a b : Nat) (s : State) : Host.Outcome State Fault Refusal :=
  issue (.crpl g d a b) (fun r e =>
    let on := e.on g
    if r.acqBefore e on then .wait .fence
    else match Run.crplLanes e a b on r with
    | .error z => z
    | .ok (xs, bad, r') =>
      match bad, r' with
        | some (row, pa), _ => .mcheck row pa
        | none, r => .done (xs.foldl (fun r x => r.onLanes e.w [x.1] (fun _ l => l.putVs d x.2)) r)) s

end Sys2Proof.Machine
end

