-- ==== Sys2Proof/Machine/Fabric.lean ====
section
/-! DEFINITION. The Tlalet links, collective packets, staging and its sweep, persistent handles, and timed barriers (chapter 19). -/

namespace Sys2Proof

open Sys2Proof.Machine

/-! ### Collective packets (R284) -/

/-- A route entry of Table 19.1. -/
def routeOk (x : Nat) : Bool := decide (x < 8) || x == 15

/-- Entries below `n` are legal, the others zero. -/
def listsOk (route ops : List Nat) (n : Nat) : Bool :=
  (List.range 8).all (fun i =>
    if i < n then routeOk (nthD route i 0) && decide (nthD ops i 0 < 4) else nthD route i 0 == 0 && nthD ops i 0 == 0)

/-- Packets of one instance. -/
def CollPacket.of (p : CollPacket) (part h i : Nat) : Bool := p.part == part && p.handle == h && p.inst == i

/-- Payload bytes. -/
def CollPacket.bytes (p : CollPacket) : Nat := 64 * (p.plen + 1)

/-- What each card checks on arrival. -/
def CollPacket.ok (p : CollPacket) : Bool :=
  p.ver == 1 && p.hops != 0 && decide (p.hops ≤ 8) && listsOk (p.route.take 1) (p.ops.take 1) 1 &&
    (List.range 8).all (fun i => decide (i < p.hops) || (nthD p.route i 0 == 0 && nthD p.ops i 0 == 0))

/-- The packet after its hop has popped the lists. -/
def CollPacket.pop (p : CollPacket) : CollPacket :=
  { p with hops := p.hops - 1, route := p.route.drop 1 ++ [0], ops := p.ops.drop 1 ++ [0] }

def CollPacket.data (p : CollPacket) : List Byte := (List.range p.bytes).map (fun i => BitVec.ofNat 8 (nthD p.payload i 0))

/-- The number of a list of four-bit entries, lowest first. -/
def ofNibbles : List Nat → Nat
  | [] => 0
  | x :: xs => x % 16 + 16 * ofNibbles xs

/-- The 128-bit header of a packet (Table 19.1). -/
def CollPacket.header (p : CollPacket) : Nat :=
  p.ver * 2 ^ 120 + p.hops * 2 ^ 116 + p.plen * 2 ^ 112 + ofNibbles (p.route.take 8) * 2 ^ 80 + ofNibbles (p.ops.take 8) * 2 ^ 48 +
    p.mcast * 2 ^ 40 + p.handle * 2 ^ 30 + p.inst * 2 ^ 28 + p.rank * 2 ^ 22 + p.chunk * 2 ^ 10 + p.offset

/-- The four-bit entries of a list, lowest first. -/
def nibbles (x : Nat) : List Nat := (List.range 8).map (fun i => fld x (4 * i) 4)

/-- A packet of the fields of its header (Table 19.1), for a handle of a partition: which partition a packet is for stands in no field
of the header. [DESIGN CHOICE, unsafe] (entry 106) -/
def CollPacket.parse (part h : Nat) (payload : List Nat) : CollPacket :=
  { ver := fld h 120 8, hops := fld h 116 4, plen := fld h 112 4, route := nibbles (fld h 80 32), ops := nibbles (fld h 48 32)
    mcast := fld h 40 8, handle := fld h 30 10, inst := fld h 28 2, rank := fld h 22 6, chunk := fld h 10 12, offset := fld h 0 10
    part := part, payload := payload }

/-- A flit of up to 60 bytes of data, zeros after them (R282). -/
def Flit.of (bs : List Nat) : Flit :=
  let data := bs ++ List.replicate (60 - bs.length) 0
  { data := data, crc := crc32c data }

def Flit.good (f : Flit) : Bool := f.data.length == 60 && f.crc == crc32c f.data

/-- Flits of a packet: it begins at a flit with the bytes of its header, the lowest first, and zeros follow its last byte; the manual
gives no layout. [DESIGN CHOICE, unsafe] (entry 133) -/
def CollPacket.flits (p : CollPacket) : List Flit :=
  let bs := (bytesOf 16 p.header ++ p.data).map BitVec.toNat
  (List.range ((bs.length + 59) / 60)).map (fun k => Flit.of ((bs.drop (60 * k)).take 60))

/-- The packet that data bytes begin with has all come, for a handle of a partition: header and payload as its PLEN counts them. -/
def CollPacket.ofData (part : Nat) (bs : List Nat) : Option CollPacket :=
  let p := CollPacket.parse part (ofBytes (toBytes (bs.take 16))) ((bs.drop 16).map (fun b => b % 256))
  if bs.length < 16 ∨ bs.length < 16 + p.bytes then none else some { p with payload := p.payload.take p.bytes }

end Sys2Proof

namespace Sys2Proof.Machine

/-! ### Handles (R287) -/

/-- Key of handle `h` of a partition. -/
def hkey (part h : Nat) : Nat := part * 1024 + h

/-- No instance has had the number. -/
def Inst.idle : Inst := { st := 0, status := 0, own := 0, got := 0, gwct := 0 }

/-- The fields of a handle descriptor (Table 19.3), with its instances at rest. -/
def Handle.parse (d : Nat) : Handle :=
  { valid := bitOf d 0, dst := fld d 256 64, src := fld d 192 64, len := fld d 160 32, route := nibbles (fld d 128 32)
    ops := nibbles (fld d 96 32), mcast := fld d 88 8, hops := fld d 84 4, dexp := bitOf d 80, ncont := fld d 72 8
    rank := fld d 64 8, op := fld d 34 2, ty := fld d 32 2
    clean := fld d 320 192 == 0 && fld d 81 3 == 0 && fld d 36 28 == 0 && fld d 1 31 == 0
    nextInst := 0, starts := 0, runs := List.replicate 4 Inst.idle, early := [0, 0, 0, 0] }

/-- A usable entry (R287). -/
def Run.usable (r : Run) (part : Nat) (x : Handle) : Bool :=
  x.valid && x.clean && x.len % 64 == 0 && decide (64 ≤ x.len) && decide (x.len ≤ 2 ^ 28) && x.src % 64 == 0 && x.dst % 64 == 0 &&
    r.partHolds part x.src x.len && r.partHolds part x.dst x.len && decide (1 ≤ x.hops) && decide (x.hops ≤ 8) &&
    decide (1 ≤ x.ncont) && decide (x.ncont ≤ 64) && decide (x.rank ≤ 63) && x.op != 3 && listsOk x.route x.ops x.hops

def Run.handle (r : Run) (part h : Nat) : Option Handle :=
  if 1024 ≤ h then none
  else match lookM r.dev.fabric.handles (hkey part h) with
    | some x => if r.usable part x then some x else none
    | none => none

def Run.modHandle (r : Run) (part h : Nat) (f : Handle → Handle) : Run :=
  r.modFabric (fun y => { y with handles := modM y.handles (hkey part h) f })

/-- HANDLE_WRITE: the entry is written unchecked and its instance numbers restart (R287). -/
def execHandleWrite (part handle : Nat) (words : List Nat) (s : State) : Host.Outcome State Fault Refusal :=
  act (fun r =>
    if 1024 ≤ handle then r
    else r.modFabric (fun y => { y with
      handles := putM y.handles (hkey part handle) (Handle.parse (ofWords (words.map word))) })) s

/-! ### Instances (R288) -/

/-- The instance of a number. -/
def Handle.run (x : Handle) (i : Nat) : Inst := nthD x.runs i Inst.idle

def Handle.setRun (x : Handle) (i : Nat) (y : Inst) : Handle := { x with runs := setNth x.runs i y }

/-- Whether a packet of number `i` belongs to an instance that is still to start here: no instance has had the number, or one of
the next two CSTARTs takes it. -/
def Handle.ahead (x : Handle) (i : Nat) : Bool :=
  (x.run i).st == 0 || (x.run i).st != 1 && decide ((i + 4 - x.nextInst % 4) % 4 < 2)

/-- What this card still holds of an instance in error goes. -/
def Run.instDrop (r : Run) (part h i : Nat) : Run :=
  r.modFabric (fun y => { y with
    here := filterM y.here (fun _ s => !(s.own && s.pkt.of part h i))
    links := y.links.map (fun l => { l with out := l.out.map (fun e => { e with own := e.own && !e.pkt.of part h i }) })
    chunks := filterM y.chunks (fun _ c => !(c.part == part && c.handle == h && c.inst == i)) })

/-- An outstanding instance completes on this card with a status of Table 19.5. -/
def Run.instEnd (r : Run) (part h i status : Nat) : Run :=
  match lookM r.dev.fabric.handles (hkey part h) with
  | none => r
  | some x =>
    if (x.run i).st ≠ 1 then r
    else
      let r := r.modHandle part h (fun x => x.setRun i { x.run i with st := if status = 0 then 2 else 3, status := status, own := 0, got := 0 })
      if status = 0 then r else r.instDrop part h i

/-- An instance fails here: at once when it is outstanding, and from its CSTART on when that is still to come
([DEDUCED], entry 86). -/
def Run.instFail (r : Run) (part h i status : Nat) : Run :=
  match lookM r.dev.fabric.handles (hkey part h) with
  | none => r
  | some x =>
    if (x.run i).st = 1 then r.instEnd part h i status
    else if x.ahead i && nthD x.early i 0 == 0 then
      (r.modHandle part h (fun x => { x with early := setNth x.early i status })).instDrop part h i
    else r

/-- An instance whose packets are consumed and whose deposits have come is complete. -/
def Run.instCheck (r : Run) (part h i : Nat) : Run :=
  match lookM r.dev.fabric.handles (hkey part h) with
  | none => r
  | some x =>
    if (x.run i).own = 0 ∧ (!x.dexp ∨ x.len ≤ (x.run i).got) then r.instEnd part h i 0 else r

/-- A packet that this card originated has been consumed. -/
def Run.consumed (r : Run) (own : Bool) (p : CollPacket) : Run :=
  if own then
    (r.modHandle p.part p.handle (fun x =>
      x.setRun p.inst { x.run p.inst with own := (x.run p.inst).own - 1 })).instCheck p.part p.handle p.inst
  else r

def Run.packetEnd (r : Run) (p : CollPacket) (status : Nat) : Run := r.instFail p.part p.handle p.inst status

/-! ### Packets and links (R282, R284) -/

/-- A packet stands at this card, or is malformed (R284). -/
def Run.stand (r : Run) (s : Standing) : Run :=
  if s.pkt.ok then
    r.modFabric (fun y => { y with here := putM y.here y.nextId s, nextId := y.nextId + 1 })
  else r.packetEnd s.pkt 3

def linkOf (f : Fabric) (l : Nat) : Link := nthD f.links l { up := false, fails := 0, part := [], out := [], sent := 0, asked := none }

def Run.modLink (r : Run) (l : Nat) (f : Link → Link) : Run := r.modFabric (fun y => { y with links := modNth y.links l f })

def Run.emitAll (r : Run) (os : List Out) : Run := os.foldl Run.emit r

/-- Sends a packet on a link: poison is consumed there (R352), and a down link loses the packet. -/
def Run.send (r : Run) (l : Nat) (own : Bool) (bad : Map Nat) (p : CollPacket) : Run :=
  if !bad.isEmpty then r.packetEnd p 3
  else if !(linkOf r.dev.fabric l).up then r.packetEnd p 2
  else (r.modLink l (fun y => { y with out := y.out ++ [{ seq := y.sent, own := own, pkt := p }], sent := y.sent + p.flits.length })).emitAll
    (p.flits.map (Out.flit l))

/-- Instances of a handle that have a place in this card's staging: those that have a chunk there, and the outstanding
ones until they complete (R288). -/
def Fabric.staged (f : Fabric) (part h : Nat) : List Nat :=
  let out := match lookM f.handles (hkey part h) with
    | some x => (List.range 4).filter (fun i => (x.run i).st == 1)
    | none => []
  (f.chunks.filter (fun e => e.2.part == part && e.2.handle == h)).foldl (fun a e => addNew a e.2.inst) out

/-- A chunk of staging that holds a packet's contribution, or is free for it (R14, R286). How much of the 64 MiB a chunk takes when
several ranks contribute to it is not said: here 64 KiB whatever their number, so that 1,024 chunks fit.
[DESIGN CHOICE, unsafe] (entry 134) -/
def Fabric.chunkRoom (f : Fabric) (key : Nat) : Bool := (lookM f.chunks key).isSome || decide (f.chunks.length < 1024)

def chunkKey (p : CollPacket) : Nat := (hkey p.part p.handle * 4 + p.inst) * 4096 + p.chunk

/-- An add that would place a third instance of its handle in staging waits (R288); so does one for which there is no chunk, of
which the manual says nothing. [DESIGN CHOICE, unsafe] (entry 134) -/
def Fabric.addRoom (f : Fabric) (p : CollPacket) : Bool :=
  let held := f.staged p.part p.handle
  let standing := (f.here.filter (fun e => e.2.pkt.ops.headD 0 == 1 && e.2.pkt.part == p.part && e.2.pkt.handle == p.handle)).foldl
    (fun a e => addNew a e.2.pkt.inst) held
  p.ops.headD 0 != 1 || (f.chunkRoom (chunkKey p) && (standing.contains p.inst || decide (standing.length < 2)))

/-- The link has failed sixteen times at a flit, here or at the peer, and has to retrain (R282). -/
def Link.stuck (l : Link) : Bool := decide (16 ≤ l.fails) || (match l.asked with
  | some x => decide (16 ≤ x.2)
  | none => false)

/-- The peer asks for a flit again: it leaves from the replay buffer, at most sixteen times (R282). -/
def Run.resend (r : Run) (link seq : Nat) : Run :=
  match (linkOf r.dev.fabric link).out.findSome? (fun e => if e.seq ≤ seq then e.pkt.flits[seq - e.seq]? else none) with
  | none => r
  | some f =>
    let r := r.modLink link (fun y => { y with asked := some (seq, match y.asked with
      | some x => if x.1 = seq then x.2 + 1 else 1
      | none => 1) })
    if (linkOf r.dev.fabric link).stuck then r else r.emit (.flit link f)

/-- A packet that this card originated has been consumed on another card: it is in flight no more. -/
def Run.consumedAway (r : Run) (p : CollPacket) : Run :=
  let same := fun (e : LinkPkt) => e.own && e.pkt.of p.part p.handle p.inst && e.pkt.chunk == p.chunk && e.pkt.offset == p.offset
  let r := r.modFabric (fun f => { f with links := f.links.map (fun l => { l with out := l.out.filter (fun e => !same e) }) })
  match lookM r.dev.fabric.handles (hkey p.part p.handle) with
  | some x => if (x.run p.inst).st = 1 ∧ 0 < (x.run p.inst).own then r.consumed true p else r
  | none => r

/-- FLIT_RECEIVE (R282): a bad CRC asks for a resend; a good flit brings bytes of a packet, whose last ones complete it, or news of
packets. -/
def execFlitReceive (link : Nat) (flit : Flit) (msg : FlitMsg) (s : State) : Host.Outcome State Fault Refusal :=
  act (fun r =>
    let l := linkOf r.dev.fabric link
    let fine := fun (r : Run) => r.modLink link (fun y => { y with fails := 0 })
    let data := l.part ++ flit.data
    if !l.up || l.stuck then r
    else if !flit.good then (r.modLink link (fun y => { y with fails := y.fails + 1 })).emit (.resend link)
    else match msg with
      | .more => if (CollPacket.ofData 0 data).isSome then r else (fine r).modLink link (fun y => { y with part := data })
      | .packet part =>
        (match CollPacket.ofData part data with
          | none => r
          | some p =>
            if p.ok && !r.dev.fabric.addRoom p then r
            else ((fine r).modLink link (fun y => { y with part := [] })).stand { own := false, bad := [], pkt := p })
      | .delivered seq => (fine r).modLink link (fun y => { y with
          out := y.out.filter (fun e => e.seq != seq)
          asked := if y.out.any (fun e => e.seq == seq && (match y.asked with
            | some a => decide (seq ≤ a.1) && decide (a.1 < seq + e.pkt.flits.length)
            | none => false)) then none else y.asked })
      | .resend seq => (fine r).resend link seq
      | .consumed part h => (fine r).consumedAway (CollPacket.parse part h [])
      | .lost part h i => (fine r).instFail part h (i % 4) 2) s

/-- Instances of which a packet may be in flight towards this card: outstanding ones that still miss something, and the next
ones, which other cards may have begun. -/
def Fabric.waiting (f : Fabric) : List (Nat × Nat) :=
  f.handles.flatMap (fun e => ((List.range 4).filter (fun i =>
    let y := e.2.run i
    e.2.ahead i || y.st == 1 && ((e.2.dexp && decide (y.got < e.2.len)) ||
      f.chunks.any (fun c => hkey c.2.part c.2.handle == e.1 && c.2.inst == i)))).map (fun i => (e.1, i)))

/-- The link is down: every packet in flight on it is lost; of the packets towards this card, a free choice says which
instances lose one. -/
def Run.linkDown (r : Run) (link : Nat) : Run :=
  let lost := (linkOf r.dev.fabric link).out
  let inb := r.dev.fabric.waiting.filter (fun e => r.pick (10 * 2 ^ 20 + e.1 * 4 + e.2) 2 == 1)
  let r := r.modLink link (fun y => { y with up := false, part := [], out := [], asked := none })
  let r := lost.foldl (fun r e => r.packetEnd e.pkt 2) r
  let r := inb.foldl (fun r e => r.instFail (e.1 / 1024) (e.1 % 1024) e.2 2) r
  r.report 0 8 0 0xFF noAddr

/-- LINK_RETRAIN after the sixteenth failure (R282): a link event, which CC1 learns of (Table 20.6). -/
def execLinkRetrain (link : Nat) (up : Bool) (s : State) : Host.Outcome State Fault Refusal :=
  act (fun r =>
    let l := linkOf r.dev.fabric link
    if !l.up || !l.stuck then r
    else if up then (r.modLink link (fun y => { y with fails := 0, asked := none })).intp 1 3
    else (r.linkDown link).intp 1 3) s

/-! ### Hops (R284, R285) -/

/-- A packet's own payload is read at its first hop (R290). -/
def Run.hopLoad (r : Run) (s : Standing) : Standing × Run :=
  let p := s.pkt
  if !s.own || !p.payload.isEmpty then (s, r)
  else match r.handle p.part p.handle with
    | none => (s, r)
    | some x =>
      let pa := x.src + 65536 * p.chunk + 64 * p.offset
      let (bs, r) := r.homeRead none pa p.bytes
      let bad := if r.dev.ms.poison.isEmpty then []
        else (List.range (p.bytes / 8)).filterMap (fun k => (r.poisonRow none [pa + 8 * k]).map (fun row => (8 * k, row)))
      ({ s with bad := bad, pkt := { p with payload := bs.map BitVec.toNat } }, r)

/-- The packet of a hop whose operation is `op`: taken away from where it stood, with its payload. -/
def Run.hop (r : Run) (k op : Nat) (f : Run → Standing → CollPacket → Run) : Run :=
  match lookM r.dev.fabric.here k with
  | none => r
  | some s =>
    if s.pkt.ops.headD 0 ≠ op then r
    else
      let (s, r) := r.hopLoad s
      let r := r.modFabric (fun y => { y with here := delM y.here k })
      f r s s.pkt.pop

def execHopForward (p : Nat) (s : State) : Host.Outcome State Fault Refusal :=
  act (fun r => r.hop p 0 (fun r x q =>
    let nxt := x.pkt.route.headD 0
    if nxt = 15 then r.stand { x with pkt := q } else r.send nxt x.own x.bad q)) s

/-- Bytes of a chunk that an instance covers. -/
def Handle.covered (x : Handle) (chunk : Nat) : Nat := min 65536 (x.len - 65536 * chunk)

/-- Whether a packet's bytes lie within its handle's buffer. -/
def Handle.fits (x : Handle) (p : CollPacket) : Bool := decide (65536 * p.chunk + 64 * p.offset + p.bytes ≤ x.len)

/-- Places a contribution in its staging chunk (R286): false when it makes the instance fail. -/
def Chunk.add (c : Chunk) (p q : CollPacket) : Option Chunk :=
  let rest := (q.hops, q.route, q.ops, q.mcast)
  let mine := lookD c.conts p.rank []
  let at' := 64 * p.offset
  let overlap := mine.any (fun e => decide (at' ≤ e.1) && decide (e.1 < at' + p.bytes))
  if overlap || (match c.rest with
      | some y => y != rest
      | none => false) then none
  else some { c with
    conts := putM c.conts p.rank ((List.zip (run at' p.bytes) p.data).foldl (fun m e => putM m e.1 e.2) mine)
    rest := some rest }

def execHopAdd (p : Nat) (s : State) : Host.Outcome State Fault Refusal :=
  act (fun r =>
    let room := match lookM r.dev.fabric.here p with
      | some x =>
        let held := r.dev.fabric.staged x.pkt.part x.pkt.handle
        r.dev.fabric.chunkRoom (chunkKey x.pkt) && (held.contains x.pkt.inst || decide (held.length < 2))
      | none => false
    if !room then r
    else r.hop p 1 (fun r x q =>
      let y := x.pkt
      match r.handle y.part y.handle with
      | none => r
      | some h =>
        if !x.bad.isEmpty || !h.fits y then r.packetEnd y 3
        else
          let c := lookD r.dev.fabric.chunks (chunkKey y)
            { handle := y.handle, part := y.part, inst := y.inst, chunk := y.chunk, conts := [], rest := none }
          match c.add y q with
          | none => r.packetEnd y 3
          | some c => (r.modFabric (fun f => { f with chunks := putM f.chunks (chunkKey y) c })).consumed x.own y)) s

/-- Writes a payload to the handle's destination; poison moves with it. -/
def Run.deposit (r : Run) (x : Standing) (k : Run → Run) : Run :=
  let p := x.pkt
  match r.handle p.part p.handle with
  | none => r
  | some h =>
    if !h.fits p then r.packetEnd p 3
    else
      let pa := h.dst + 65536 * p.chunk + 64 * p.offset
      let r := (r.homeWrite none pa p.data).movePoison none (x.bad.map (fun o => (pa + o.1, o.2)))
      let lines := (List.range (p.bytes / 64)).map (fun k => pa + 64 * k)
      let gw := lines.foldl (fun a l => max a (r.gwctOf l)) 0
      let r := r.modHandle p.part p.handle (fun y =>
        let z := y.run p.inst
        if z.st = 1 ∨ y.ahead p.inst then y.setRun p.inst { z with got := z.got + p.bytes, gwct := max z.gwct gw } else y)
      (k (r.consumed x.own p)).instCheck p.part p.handle p.inst

def execHopDeposit (p : Nat) (s : State) : Host.Outcome State Fault Refusal :=
  act (fun r => r.hop p 2 (fun r x _ => r.deposit x id)) s

def execHopMulticast (p : Nat) (s : State) : Host.Outcome State Fault Refusal :=
  act (fun r => r.hop p 3 (fun r x q =>
    r.deposit x (fun r => (bitsOf x.pkt.mcast 8).foldl (fun r l => r.send l false x.bad q) r))) s

/-! ### The sweep (R286) -/

def collBytes (ty : Nat) : Nat := if ty = 0 ∨ ty = 3 then 4 else 2

def collFmt (ty : Nat) : Fmt := if ty = 0 then Fmt.f32 else if ty = 1 then Fmt.bf16 else Fmt.f16

/-- OP(r, x) of one element. -/
def collOp (op ty a b : Nat) : Nat :=
  if ty = 3 then
    if op = 0 then (a + b) % 2 ^ 32
    else if (sx b 32 < sx a 32) == (op == 1) then b else a
  else if op = 0 then (fAdd (collFmt ty) .rne a b).bits
  else (fMinMax (collFmt ty) (op == 2) a b).bits

/-- One contribution combined into the result. -/
def combine (op ty : Nat) (a b : List Byte) : List Byte :=
  let k := collBytes ty
  (List.zipWith (fun x y => bytesOf k (collOp op ty (ofBytes x) (ofBytes y))) (pieces k a.length a) (pieces k b.length b)).flatten

/-- Contributions that have filled what the instance covers in the chunk. -/
def Chunk.full (c : Chunk) (x : Handle) : Map (Map Byte) := filterM c.conts (fun _ m => m.length == x.covered c.chunk)

/-- A chunk is complete when its contributions of distinct ranks have filled it. -/
def Chunk.complete (c : Chunk) (x : Handle) : Bool :=
  decide (x.ncont ≤ (c.full x).length)

/-- The contributions in rising rank order. -/
def Chunk.swept (c : Chunk) (x : Handle) : List Byte :=
  match (c.full x).map (fun e => e.2.map (·.2)) with
  | [] => []
  | b :: bs => bs.foldl (combine x.op x.ty) b

/-- The packets of `n` bytes of a chunk: payload offset and bytes of each. -/
def packetsOf (n : Nat) : List (Nat × Nat) := (List.range ((n + 1023) / 1024)).map (fun k => (1024 * k, min 1024 (n - 1024 * k)))

def execChunkSweep (part handle run chunk : Nat) (s : State) : Host.Outcome State Fault Refusal :=
  act (fun r =>
    let key := (hkey part handle * 4 + run) * 4096 + chunk
    match r.handle part handle, lookM r.dev.fabric.chunks key with
    | some x, some c =>
      if !c.complete x then r
      else match c.rest with
        | none => r
        | some (hops, route, ops, mcast) =>
          let bs := c.swept x
          let low := ((c.full x).map (·.1)).headD 0
          let r := r.modFabric (fun f => { f with chunks := delM f.chunks key })
          (packetsOf bs.length).foldl (fun r e =>
            let p : CollPacket := { ver := 1, hops := hops, plen := e.2 / 64 - 1, route := route, ops := ops, mcast := mcast
                                    handle := handle, inst := run, rank := low, chunk := chunk, offset := e.1 / 64, part := part
                                    payload := ((bs.drop e.1).take e.2).map BitVec.toNat }
            r.stand { own := false, bad := [], pkt := p }) r
    | _, _ => r) s

/-- An uncorrectable error in a staging chunk (R352, Table 19.5). -/
def Run.stageError (r : Run) (key : Nat) : Run :=
  match lookM r.dev.fabric.chunks key with
  | none => r
  | some c => (r.instFail c.part c.handle c.inst 3).report 0 0 c.part 0xFF noAddr

/-! ### CSTART, CWAIT, CSTAT (R290 to R292) -/

/-- The links that this card uses for its contributions. -/
def linksUsed (mcast : Nat) : Nat → List Nat → List Nat → List Nat
  | 0, _, _ => []
  | n + 1, route, ops =>
    match ops.headD 0 with
    | 0 => if route.headD 0 = 15 then linksUsed mcast n (route.drop 1) (ops.drop 1) else [route.headD 0]
    | 3 => bitsOf mcast 8
    | _ => []

/-- The packets that an instance originates; each reads its payload at its first hop. -/
def Handle.originals (x : Handle) (part h i : Nat) : List Standing :=
  (packetsOf x.len).map (fun e =>
    { own := true, bad := []
      pkt := { ver := 1, hops := x.hops, plen := e.2 / 64 - 1, route := x.route, ops := x.ops, mcast := x.mcast, handle := h
               inst := i, rank := x.rank, chunk := e.1 / 65536, offset := e.1 % 65536 / 64, part := part, payload := [] } })

/-- The partition whose handles a split names. -/
def Run.partOf (r : Run) (e : Env) : Nat :=
  match r.grid e.grid with
  | some x => x.part
  | none => 0

/-- Starts the next instance of a handle. -/
def Run.instStart (r : Run) (part h : Nat) (x : Handle) : Run :=
  let i := x.nextInst % 4
  let ps := x.originals part h i
  let r := r.modHandle part h (fun y =>
    { y.setRun i { y.run i with st := 1, status := 0, own := ps.length } with
      nextInst := (i + 1) % 4, starts := y.starts + 1, early := setNth y.early i 0 })
  let r := ps.foldl (fun r s => r.stand s) r
  if nthD x.early i 0 = 0 then r else r.instEnd part h i (nthD x.early i 0)

/-- CSTART (R290): it demotes a contained node first, whatever its status (R358). -/
def execCstart (g d a : Nat) (s : State) : Host.Outcome State Fault Refusal :=
  uniOp (.cstart g d a) g (fun r e =>
    let part := r.partOf e
    let h := (e.us a).toNat
    match r.demoteNow e.grid with
    | some r => .waitIn r .fence
    | none =>
    match r.handle part h with
    | none => .done (r.putS e d (word (256 * 2)))
    | some x =>
      if (linksUsed x.mcast x.hops x.route x.ops).any (fun l => !(linkOf r.dev.fabric l).up) then .done (r.putS e d (word (256 * 3)))
      else if 2 ≤ (x.runs.filter (fun y => y.st == 1)).length then .done (r.putS e d (word (256 * 1)))
      else r.released e everyLane 3 false (fun r => .done ((r.instStart part h x).putS e d (word (x.nextInst % 4))))) s

/-- CWAIT (R291): status 0 is an acquire for what has been deposited here, so it waits until DTIME has passed the GWCT of every
deposit (R145, R154). -/
def execCwait (o : UXOp) (s : State) : Host.Outcome State Fault Refusal :=
  uniOp (.cwait o) o.g (fun r e =>
    match r.handle (r.partOf e) (e.us o.a).toNat with
    | none => .done (r.putS e o.d 4)
    | some x =>
      let y := x.run ((e.us o.b).toNat % 4)
      if y.st = 0 then .done (r.putS e o.d 1)
      else if !e.met && (y.st == 1 || (y.st == 2 && decide (r.clk.dtime ≤ y.gwct))) then .wait .collective
      else .done (r.putS e o.d (word y.status))) s

def execCstat (g d a sel : Nat) (s : State) : Host.Outcome State Fault Refusal :=
  uniOp (.cstat g d a sel) g (fun r e =>
    match r.handle (r.partOf e) (e.us a).toNat with
    | none => .done (r.putS e d 0)
    | some x =>
      let v := if sel = 0 then (List.range 4).foldl (fun v j => v + (x.run j).st * 4 ^ j) 0 + x.nextInst % 4 * 2 ^ 8 else x.starts
      .done (r.putS e d (word v))) s

/-! ### Timed barriers (R293 to R296) -/

def TGroup.master (g : TGroup) : Nat := (minBy id g.ranks).getD 0

def Run.modGroup (r : Run) (grp : Nat) (f : TGroup → TGroup) : Run :=
  r.modFabric (fun y => { y with groups := modM y.groups grp f })

/-- The unit keeps time: locked or in holdover (R264). -/
def Run.timeKept (r : Run) : Bool := r.dev.ptp.st == .locked || r.dev.ptp.st == .holdover

/-- The group of timed barrier `id` of a grid, none where the packet names none. -/
def Run.tgroup (r : Run) (g id : Nat) : Option Nat :=
  match r.grid g with
  | some x =>
    let grp := nthD x.pkt.tbg id 0
    if grp = 0 then none else (lookM r.dev.fabric.groups grp).map (fun _ => grp)
  | none => none

/-- TBAR (R294): it demotes a contained node first, also where it returns 2 (R358). -/
def execTbar (g d a id : Nat) (s : State) : Host.Outcome State Fault Refusal :=
  uniOp (.tbar g d a id) g (fun r e =>
    let t := e.us2 a
    match r.team e.wp.team with
    | none => .done r
    | some tm =>
      let b := nthD tm.timed id TBar.idle
      let none' := (r.tgroup e.grid id).isNone || !r.timeKept
      if tm.idx ≠ 0 then .trap 7 id e.lead
      else if !none' && (match b.time with
          | some t' => t' != t
          | none => false) then .trap 7 t e.lead
      else match r.demoteNow e.grid with
      | some r => .waitIn r .fence
      | none =>
      if none' then .done (r.putS e d 2)
      else r.released e e.lanes 3 false (fun r =>
        let r := r.modTeam e.wp.team (fun x => { x with timed := modNth x.timed id (fun b =>
          { b with time := some t, arrived := b.arrived ++ e.lanes.map (fun l => 32 * e.wp.wid + l) }) })
        let r := r.onLanes e.w e.lanes (fun _ l => { l with wait := .tbar id d t })
        .moved ((r.modWarp e.w (fun w => w.await d 1)).barTimed1 e.wp.team id))) s

/-- The phases of a group's barriers that name a time: team, its launch's partition and barrier number. -/
def Run.phasesOf (r : Run) (grp time : Nat) : List (Nat × Nat × Nat) :=
  (r.dev.sched.teams.filter (fun e => e.2.idx == 0 && !e.2.complete)).flatMap (fun e =>
    match r.grid e.2.grid with
    | none => []
    | some x => ((List.range 4).filter (fun id => nthD x.pkt.tbg id 0 == grp &&
        (nthD e.2.timed id TBar.idle).time == some time)).map (fun id => (e.1, x.part, id)))

/-- Partitions of the launches whose teams may use a group. -/
def Run.partsOf (r : Run) (grp : Nat) : List Nat :=
  (r.dev.sched.teams.filter (fun e => e.2.idx == 0 && !e.2.complete)).foldl (fun a e =>
    match r.grid e.2.grid with
    | some x => if x.pkt.tbg.contains grp then addNew a x.part else a
    | none => a) []

def Run.modTimed (r : Run) (team id : Nat) (f : TBar → TBar) : Run :=
  r.modTeam team (fun x => { x with timed := modNth x.timed id f })

/-- A list of the cards that arrived for a time reaches this card: it is listed, or left out, also where the list comes after that time
(R294, R296). -/
def Run.listReceive (r : Run) (grp time : Nat) (ranks : List Nat) : Run :=
  match lookM r.dev.fabric.groups grp with
  | none => r
  | some g =>
    if g.lists.any (fun y => y.1 == time) then r
    else
      let on := ranks.contains g.rank && decide (r.ptime ≤ time)
      let r := r.modGroup grp (fun g => { g with lists := g.lists ++ [(time, if on then ranks else ranks.filter (fun k => k != g.rank))] })
      let r := (r.phasesOf grp time).foldl (fun r y => r.modTimed y.1 y.2.2 (fun b => { b with listed := some on })) r
      if on then r else (r.partsOf grp).foldl (fun r p => r.leftOut p time) r

/-- A card's arrival reaches the master; its own only when the card has arrived, and none after T - 2 µs counts (R293). -/
def execTbarArrival (group rank time : Nat) (s : State) : Host.Outcome State Fault Refusal :=
  act (fun r =>
    match lookM r.dev.fabric.groups group with
    | none => r
    | some g =>
      let own := (r.phasesOf group time).any (fun y => match r.team y.1 with
        | some tm => (nthD tm.timed y.2.2 TBar.idle).sent
        | none => false)
      if g.rank ≠ g.master || !g.ranks.contains rank || g.arrivals.contains (rank, time) || (rank == g.rank && !own) ||
          decide (time < r.ptime + 2000) then r
      else r.modGroup group (fun g => { g with arrivals := g.arrivals ++ [(rank, time)] })) s

/-- A time that an arrival or a phase of this card has named. -/
def Run.tbarNamed (r : Run) (grp time : Nat) (g : TGroup) : Bool :=
  g.arrivals.any (fun y => y.2 == time) || !(r.phasesOf grp time).isEmpty

/-- At T - 2 µs by its own PTIME the master sends the list, to itself too, once (R293). -/
def execTbarListSend (group time : Nat) (s : State) : Host.Outcome State Fault Refusal :=
  act (fun r =>
    match lookM r.dev.fabric.groups group with
    | none => r
    | some g =>
      if g.rank ≠ g.master || g.lists.any (fun y => y.1 == time) || decide (r.ptime + 2000 < time) || !r.tbarNamed group time g then r
      else
        let ranks := (g.arrivals.filter (fun y => y.2 == time)).map (·.1)
        let r := r.modGroup group (fun g => { g with arrivals := g.arrivals.filter (fun y => y.2 != time) })
        (r.emit (.tbarList group time ranks)).listReceive group time ranks) s

def execTbarListReceipt (group time : Nat) (ranks : List Nat) (s : State) : Host.Outcome State Fault Refusal :=
  act (fun r => match lookM r.dev.fabric.groups group with
    | some g => if g.rank = g.master then r else r.listReceive group time ranks
    | none => r) s

/-- Whether a wait is that of timed barrier `id` for a time. -/
def Wait.isTbar (id time : Nat) : Wait → Bool
  | .tbar i _ t => i == id && t == time
  | _ => false

def Wait.tbarSd : Wait → Option Nat
  | .tbar _ d _ => some d
  | _ => Option.none

/-- The members of a phase in a warp go on with `v` in sd. -/
def Warp.tbarWake (wp : Warp) (cycle id time : Nat) (v : Word) : Warp :=
  let hit := wp.lanes.filter (fun l => l.isLive && l.waits (Wait.isTbar id time))
  let ds := hit.flatMap (fun l => ([l.wait, l.rwait].filter (Wait.isTbar id time)).filterMap Wait.tbarSd)
  ds.foldl (fun w d => w.putSs d [v]) (wp.mapLanes (fun _ l => if l.isLive then l.release cycle (Wait.isTbar id time) else l))

/-- PTIME has reached T: a listed card's members go on with 0, a left-out card's with 1 once the card has arrived, its
frame for T discarded (R294 to R296). -/
def Run.phaseRelease (r : Run) (team part id time : Nat) : Run :=
  match r.team team with
  | none => r
  | some tm =>
    let b := nthD tm.timed id TBar.idle
    let on := b.listed == some true
    let r := if on then r else r.leftOut part time
    if !b.sent then r.modTimed team id (fun b => { b with listed := some false })
    else (r.modTeamWarps team (fun w => w.tbarWake r.clk.cycles id time (if on then 0 else 1))).modTimed team id (fun _ => TBar.idle)

def execTbarRelease (group time : Nat) (s : State) : Host.Outcome State Fault Refusal :=
  act (fun r =>
    if (lookM r.dev.fabric.groups group).isNone || decide (r.ptime < time) then r
    else (r.phasesOf group time).foldl (fun r y => r.phaseRelease y.1 y.2.1 y.2.2 time) r) s

end Sys2Proof.Machine
end

