-- ==== Sys2Proof/Machine/LaneInt.lean ====
section
/-! DEFINITION. Lane instructions on integers, logic, predicates, moves and special registers (chapter 05, R63). -/

namespace Sys2Proof

/-- The fields of Table 5.1 of an LR form: all zero (R83). -/
def IExt.zero : IExt := { c := 0, q := 0, k := false, u := false, m := false, ci := false, co := false, imm := 0 }

def LOp.ext (o : LOp IExt) : IExt := o.x.getD IExt.zero

end Sys2Proof

namespace Sys2Proof.Machine

/-! ### Sources (R83, R85) -/

/-- The immediate of Table 5.1: signed for the majors that say so when U = 0. -/
def immOf (x : IExt) (signext : Bool) : Word :=
  if signext && !x.u then wordOfInt (sx x.imm 16) else word x.imm

/-- Second source y; `signext` names the majors whose immediate is signed. -/
def Env.srcY (e : Env) (o : LOp IExt) (signext : Bool) (l : Nat) : Word :=
  if o.ext.k then immOf o.ext signext else e.v l o.b

/-- Third source c: v[D] in the LR form. -/
def Env.srcC (e : Env) (o : LOp IExt) (l : Nat) : Word :=
  match o.x with
  | some x => e.v l x.c
  | none => e.v l o.d

/-- val(z). -/
def valU (u : Bool) (z : Word) : Int := if u then (z.toNat : Int) else sx z.toNat 32

/-- sat(t, lo, hi) for the type that U selects. -/
def satU (u : Bool) (t : Int) : Int :=
  if u then max 0 (min (2 ^ 32 - 1) t) else max (-(2 ^ 31)) (min (2 ^ 31 - 1) t)

/-! ### Results on words (R85) -/

def iaddVal (x : IExt) (a b : Word) (ci : Bool) : Word :=
  if x.m then wordOfInt (satU x.u (valU x.u a + valU x.u b)) else a + b + word (boolN ci)

def isubVal (x : IExt) (a b : Word) (ci : Bool) : Word :=
  if x.m then wordOfInt (satU x.u (valU x.u a - valU x.u b)) else a - b - word (boolN ci)

/-- The low or the high word of a product. -/
def mulVal (hi u : Bool) (a b : Word) : Word :=
  let t := valU u a * valU u b
  if hi then wordOfInt (t / 2 ^ 32) else wordOfInt t

def minVal (u : Bool) (a b : Word) : Word := if valU u a ≤ valU u b then a else b

def maxVal (u : Bool) (a b : Word) : Word := if valU u a ≤ valU u b then b else a

/-- LOGT: bit i of the result is bit x[i] + 2y[i] + 4c[i] of the table. -/
def logtVal (lut : Nat) (x y c : Word) : Word :=
  let pick := fun (k : Nat) => if bitOf lut k then BitVec.allOnes 32 else 0#32
  (pick 0 &&& ~~~x &&& ~~~y &&& ~~~c) ||| (pick 1 &&& x &&& ~~~y &&& ~~~c) ||| (pick 2 &&& ~~~x &&& y &&& ~~~c) |||
  (pick 3 &&& x &&& y &&& ~~~c) ||| (pick 4 &&& ~~~x &&& ~~~y &&& c) ||| (pick 5 &&& x &&& ~~~y &&& c) |||
  (pick 6 &&& ~~~x &&& y &&& c) ||| (pick 7 &&& x &&& y &&& c)

def shlVal (x y : Word) : Word := if 32 ≤ y.toNat then 0 else x <<< y.toNat

def shrVal (x y : Word) : Word := if 32 ≤ y.toNat then 0 else x >>> y.toNat

def sarVal (x y : Word) : Word := if 32 ≤ y.toNat then (if x.getLsbD 31 then BitVec.allOnes 32 else 0) else x.sshiftRight y.toNat

/-- SHF: the funnel shift of c·2^32 + x. -/
def shfVal (left : Bool) (x y c : Word) : Word :=
  let n := min y.toNat 32
  let w := cat c x
  if left then word (w * 2 ^ n / 2 ^ 32) else word (w / 2 ^ n)

/-- BFE: position y[7:0], length y[15:8]. -/
def bfeVal (u : Bool) (x y : Word) : Word :=
  let pos := fld y.toNat 0 8
  let len := min (fld y.toNat 8 8) 32
  if len = 0 then 0
  else
    let f := (valU u x / (2 ^ pos : Nat) % (2 ^ len : Nat)).toNat
    if u then word f else wordOfInt (sx f len)

def bfiVal (x y c : Word) : Word :=
  let pos := fld y.toNat 0 8
  let len := min (fld y.toNat 8 8) 32
  let mk := word ((2 ^ len - 1) * 2 ^ pos)
  (c &&& ~~~mk) ||| (word (x.toNat * 2 ^ pos) &&& mk)

/-! ### Bit operations (R86) -/

def popcVal (x : Word) : Word := word ((bitsOf x.toNat 32).length)

def clzVal (x : Word) : Word := if x = 0 then 32 else word (31 - Nat.log2 x.toNat)

/-- Trailing zeros below bit `n`. -/
def ctzGo (x : Nat) : Nat → Nat → Nat
  | 0, k => k
  | n + 1, k => if bitOf x k then k else ctzGo x n (k + 1)

def ctzVal (x : Word) : Word := word (ctzGo x.toNat 32 0)

def brevVal (x : Word) : Word := x.reverse

/-- IABS and INEG, saturating when SAT. -/
def satIf (sat : Bool) (t : Int) : Word := if sat then wordOfInt (min (2 ^ 31 - 1) t) else wordOfInt t

def iabsVal (sat : Bool) (x : Word) : Word := satIf sat ((sx x.toNat 32).natAbs : Int)

def inegVal (sat : Bool) (x : Word) : Word := satIf sat (-(sx x.toNat 32))

/-! ### Predicates (R87 to R90) -/

/-- Comparison codes of R87. -/
def cmpI (code : Nat) (a b : Int) : Bool :=
  if code = 0 then decide (a = b) else if code = 1 then decide (a ≠ b) else if code = 2 then decide (a < b)
  else if code = 3 then decide (a ≤ b) else if code = 4 then decide (b < a) else decide (b ≤ a)

/-- 0 and, 1 or, 2 xor. -/
def comb (code : Nat) (a b : Bool) : Bool := if code = 0 then a && b else if code = 1 then a || b else a != b

def LaneRes.none : LaneRes := { v := [], p := [], fl := 0 }

def LaneRes.preds (ps : List (Nat × Bool)) : LaneRes := { v := [], p := ps, fl := 0 }

/-! ### Meanings -/

/-- IADD and ISUB in one lane: the result, and the carry or borrow to p[Q] when CO (R85). -/
def Env.carryRes (e : Env) (o : LOp IExt) (val : IExt → Word → Word → Bool → Word) (out : Word → Word → Bool → Bool)
    (l : Nat) : LaneRes :=
  let x := o.ext
  let a := e.v l o.a
  let b := e.srcY o true l
  let ci := x.ci && e.p l x.q
  { v := [(o.d, val x a b ci)], p := if x.co then [(x.q, out a b ci)] else [], fl := 0 }

def execIadd (o : LOp IExt) (s : State) : Host.Outcome State Fault Refusal :=
  laneOp (.iadd o) o.g (fun e l => e.carryRes o iaddVal carryOut l) s

def execIsub (o : LOp IExt) (s : State) : Host.Outcome State Fault Refusal :=
  laneOp (.isub o) o.g (fun e l => e.carryRes o isubVal borrowOut l) s

def execImul (o : LOp IExt) (s : State) : Host.Outcome State Fault Refusal :=
  laneOp (.imul o) o.g (fun e l => .reg o.d (mulVal o.ext.m o.ext.u (e.v l o.a) (e.srcY o true l))) s

def execImad (o : LXOp IExt) (s : State) : Host.Outcome State Fault Refusal :=
  laneOp (.imad o) o.g (fun e l =>
    let y := if o.x.k then immOf o.x true else e.v l o.b
    .reg o.d (mulVal o.x.m o.x.u (e.v l o.a) y + e.v l o.x.c)) s

def execImin (o : LOp IExt) (s : State) : Host.Outcome State Fault Refusal :=
  laneOp (.imin o) o.g (fun e l => .reg o.d (minVal o.ext.u (e.v l o.a) (e.srcY o true l))) s

def execImax (o : LOp IExt) (s : State) : Host.Outcome State Fault Refusal :=
  laneOp (.imax o) o.g (fun e l => .reg o.d (maxVal o.ext.u (e.v l o.a) (e.srcY o true l))) s

def execAnd (o : LOp IExt) (s : State) : Host.Outcome State Fault Refusal :=
  laneOp (.and o) o.g (fun e l => .reg o.d (e.v l o.a &&& e.srcY o false l)) s

def execOr (o : LOp IExt) (s : State) : Host.Outcome State Fault Refusal :=
  laneOp (.or o) o.g (fun e l => .reg o.d (e.v l o.a ||| e.srcY o false l)) s

def execXor (o : LOp IExt) (s : State) : Host.Outcome State Fault Refusal :=
  laneOp (.xor o) o.g (fun e l => .reg o.d (e.v l o.a ^^^ e.srcY o false l)) s

/-- LOGT: the LR form uses table 0xD8 with vd as third input. -/
def execLogt (o : LOp IExt) (s : State) : Host.Outcome State Fault Refusal :=
  laneOp (.logt o) o.g (fun e l =>
    let lut := match o.x with
      | some x => x.imm % 256
      | none => 0xD8
    .reg o.d (logtVal lut (e.v l o.a) (e.v l o.b) (e.srcC o l))) s

def execShl (o : LOp IExt) (s : State) : Host.Outcome State Fault Refusal :=
  laneOp (.shl o) o.g (fun e l => .reg o.d (shlVal (e.v l o.a) (e.srcY o false l))) s

def execShr (o : LOp IExt) (s : State) : Host.Outcome State Fault Refusal :=
  laneOp (.shr o) o.g (fun e l => .reg o.d (shrVal (e.v l o.a) (e.srcY o false l))) s

def execSar (o : LOp IExt) (s : State) : Host.Outcome State Fault Refusal :=
  laneOp (.sar o) o.g (fun e l => .reg o.d (sarVal (e.v l o.a) (e.srcY o false l))) s

def execShf (o : LOp IExt) (s : State) : Host.Outcome State Fault Refusal :=
  laneOp (.shf o) o.g (fun e l => .reg o.d (shfVal o.ext.m (e.v l o.a) (e.srcY o false l) (e.srcC o l))) s

def execBfe (o : LOp IExt) (s : State) : Host.Outcome State Fault Refusal :=
  laneOp (.bfe o) o.g (fun e l => .reg o.d (bfeVal o.ext.u (e.v l o.a) (e.srcY o false l))) s

def execBfi (o : LOp IExt) (s : State) : Host.Outcome State Fault Refusal :=
  laneOp (.bfi o) o.g (fun e l => .reg o.d (bfiVal (e.v l o.a) (e.srcY o false l) (e.srcC o l))) s

def execPopc (o : L2Op Bool) (s : State) : Host.Outcome State Fault Refusal :=
  laneOp (.popc o) o.g (fun e l => .reg o.d (popcVal (e.v l o.a))) s

def execClz (o : L2Op Bool) (s : State) : Host.Outcome State Fault Refusal :=
  laneOp (.clz o) o.g (fun e l => .reg o.d (clzVal (e.v l o.a))) s

def execCtz (o : L2Op Bool) (s : State) : Host.Outcome State Fault Refusal :=
  laneOp (.ctz o) o.g (fun e l => .reg o.d (ctzVal (e.v l o.a))) s

def execBrev (o : L2Op Bool) (s : State) : Host.Outcome State Fault Refusal :=
  laneOp (.brev o) o.g (fun e l => .reg o.d (brevVal (e.v l o.a))) s

def execIabs (o : L2Op Bool) (s : State) : Host.Outcome State Fault Refusal :=
  laneOp (.iabs o) o.g (fun e l => .reg o.d (iabsVal (o.x.getD false) (e.v l o.a))) s

def execIneg (o : L2Op Bool) (s : State) : Host.Outcome State Fault Refusal :=
  laneOp (.ineg o) o.g (fun e l => .reg o.d (inegVal (o.x.getD false) (e.v l o.a))) s

/-- ISETP (R87, R88). -/
def execIsetp (o : SetpOp ISetpExt) (s : State) : Host.Outcome State Fault Refusal :=
  laneOp (.isetp o) o.g (fun e l =>
    match o.x with
    | none => .preds [(o.pd, cmpI o.cmp (valU false (e.v l o.a)) (valU false (e.v l o.b)))]
    | some x =>
      let y := if x.k then (if x.u then word x.imm else wordOfInt (sx x.imm 16)) else e.v l o.b
      let c := cmpI o.cmp (valU x.u (e.v l o.a)) (valU x.u y)
      .preds [(o.pd, comb x.comb c (e.p l x.pc)), (x.pe, comb x.comb (!c) (e.p l x.pc))]) s

/-- SEL (R89): the LR form's selector is B[3:0] and its other source vd. -/
def execSel (o : LOp IExt) (s : State) : Host.Outcome State Fault Refusal :=
  laneOp (.sel o) o.g (fun e l =>
    match o.x with
    | some x => .reg o.d (if e.p l x.q then e.v l o.a else e.srcY o true l)
    | none => .reg o.d (if e.p l o.b then e.v l o.a else e.v l o.d)) s

/-- MOV (R92). -/
def execMov (o : L2Op Bool) (s : State) : Host.Outcome State Fault Refusal :=
  laneOp (.mov o) o.g (fun e l =>
    if o.x = some true then { v := [(o.d, e.v l o.a), (o.d + 1, e.v l (o.a + 1))], p := [], fl := 0 }
    else .reg o.d (e.v l o.a)) s

/-- MOVI (R92): a 14-bit signed immediate, or the literal. -/
def execMovi (g d imm : Nat) (lit : Bool) (s : State) : Host.Outcome State Fault Refusal :=
  laneOp (.movi g d imm lit) g (fun _ _ => .reg d (if lit then word imm else wordOfInt (sx imm 14))) s

/-- MOVU (R92). -/
def execMovu (g d n : Nat) (x : Option Bool) (s : State) : Host.Outcome State Fault Refusal :=
  laneOp (.movu g d n x) g (fun e l =>
    if x = some true then { v := [(d, e.su l n), (d + 1, e.su l (n + 1))], p := [], fl := 0 }
    else .reg d (e.su l n)) s

/-- PSET (R90). -/
def execPset (o : PsetOp) (s : State) : Host.Outcome State Fault Refusal :=
  laneOp (.pset o) o.g (fun e l =>
    let t := comb o.op (e.p l o.pa != o.na) (e.p l o.pb != o.nb)
    .preds [(o.pd, match o.x with
      | none => t
      | some (pc, nc, op2) => comb op2 t (e.p l pc != nc))]) s

/-- P2V (R91): zero for each unmasked predicate. -/
def execP2v (g d : Nat) (x : Option Nat) (s : State) : Host.Outcome State Fault Refusal :=
  laneOp (.p2v g d x) g (fun e l => .reg d (((e.lane l).p &&& BitVec.ofNat 12 (x.getD 4095)).setWidth 32)) s

/-- V2P (R91): unmasked predicates are unchanged. -/
def execV2p (g a : Nat) (x : Option Nat) (s : State) : Host.Outcome State Fault Refusal :=
  laneOp (.v2p g a x) g (fun e l =>
    .preds ((bitsOf (x.getD 4095) 12).map (fun i => (i, (e.v l a).getLsbD i)))) s

/-! ### Special registers (R23, R63, R93, R101, R228) -/

/-- Launch packet of a warp. -/
def Run.pktOf (r : Run) (g : Nat) : Option Packet := (r.grid g).map (fun x => x.pkt)

/-- Identity values of lane `l` of a warp (Tables 2.1 and 4.2). A relaunched warp is a team of one warp whose index
is its serial. -/
def Run.identity (r : Run) (wp : Warp) (g l n : Nat) : Nat :=
  match r.grid g, r.team wp.team with
  | some x, some t =>
    let p := x.pkt
    let tidx := 32 * wp.wid + l
    let idx := match wp.serial with
      | some k => k % 2 ^ 20
      | none => t.idx
    let re := wp.serial.isSome
    match n with
    | 0x00 => l
    | 0x01 => wp.wid
    | 0x02 => tidx
    | 0x03 => tidx % (p.nx + 1)
    | 0x04 => tidx / (p.nx + 1) % (p.ny + 1)
    | 0x05 => tidx / (p.nx + 1) / (p.ny + 1)
    | 0x06 => if re then idx else idx % (p.gx + 1)
    | 0x07 => if re then 0 else idx / (p.gx + 1) % (p.gy + 1)
    | 0x08 => if re then 0 else idx / (p.gx + 1) / (p.gy + 1)
    | 0x09 => wp.core
    | 0x0A => t.cores.findIdx (fun c => c == wp.core)
    | 0x0B => x.depth
    | 0x0C => p.nx + 1
    | 0x0D => p.ny + 1
    | 0x0E => p.nz + 1
    | 0x0F => p.gx + 1
    | 0x10 => p.gy + 1
    | 0x11 => p.gz + 1
    | 0x12 => if re then 1 else 2 ^ p.gang
    | 0x13 => wp.part
    | 0x16 => wp.regs
    | 0x17 => wp.privSize
    | 0x18 => p.teamBytes
    | _ => 0
  | _, _ => 0

/-- A special register as lane `l` of the split reads it, CLKHI apart (Table 4.2). -/
def Run.spr (r : Run) (e : Env) (l n : Nat) : Word :=
  match n with
  | 0x14 => maskOf e.wp.liveLanes
  | 0x15 => maskOf e.lanes
  | 0x20 => e.wp.wst
  | 0x21 => word r.clk.cycles
  | _ => word (r.identity e.wp e.grid l n)

/-- CLKHI through a latch: the latched bits, or the current ones. -/
def clkHi (cycles : Nat) (latch : Option Word) : Word := latch.getD (hi32 cycles)

/-- SPR (R93): CLKLO latches the high word in the thread, and CLKHI empties the latch. -/
def execSpr (g d n : Nat) (s : State) : Host.Outcome State Fault Refusal :=
  issue (.spr g d n) (fun r e =>
    .done (r.onLanes e.w (e.on g) (fun k l =>
      if n = 0x21 then { l.setV d (word r.clk.cycles) with latch := some (hi32 r.clk.cycles) }
      else if n = 0x22 then { l.setV d (clkHi r.clk.cycles l.latch) with latch := none }
      else l.setV d (r.spr e k n)))) s

/-! ### Cross-lane instructions (R94 to R98) -/

/-- SHFL's source lane, if it lies in 0 to 31. -/
def shflSrc (mode l n : Nat) : Option Nat :=
  let k : Int := if mode = 0 then (n : Int) else if mode = 1 then (l : Int) - n else if mode = 2 then (l : Int) + n else ((l ^^^ n : Nat) : Int)
  if 0 ≤ k ∧ k < 32 then some k.toNat else none

/-- SHFL in one participant: the value and whether its source was a participant (R95). -/
def Env.shfl (e : Env) (o : LOp ShflExt) (l : Nat) : Word × Bool :=
  let (mode, n) := match o.x with
    | none => (0, (e.v l o.b).toNat)
    | some x => (x.mode, if x.k then x.imm else (e.v l o.b).toNat)
  match shflSrc mode l n with
  | some k => if (e.on o.g).contains k then (e.v k o.a, true) else (e.v l o.a, false)
  | none => (e.v l o.a, false)

def execShfl (o : LOp ShflExt) (s : State) : Host.Outcome State Fault Refusal :=
  laneOp (.shfl o) o.g (fun e l =>
    let (x, ok) := e.shfl o l
    { v := [(o.d, x)], p := (match o.x with
        | some y => [(y.pd, ok)]
        | none => []), fl := 0 }) s

/-- VOTE's result for the values b_l of the participants (R96). -/
def voteVal (sub : Nat) (bs : List Bool) : Bool :=
  if sub = 0 then bs.all id else if sub = 1 then bs.any id else bs.all id || bs.all (fun b => !b)

def execVote (o : VoteOp) (s : State) : Host.Outcome State Fault Refusal :=
  issue (.vote o) (fun r e =>
    let ps := e.on o.g
    let b := fun l => e.p l o.pa != o.neg
    if ps.isEmpty then .done r
    else if o.sub = 3 then
      let m := maskOf (ps.filter b)
      let r := r.onLanes e.w ps (fun _ l => l.setV o.d m)
      .done (match o.x with
        | some (_, sd) => r.putS e sd m
        | none => r)
    else
      let x := voteVal o.sub (ps.map b)
      let r := r.onLanes e.w ps (fun _ l => l.setP o.d x)
      .done (match o.x with
        | some (gd, _) => r.putG e gd x
        | none => r)) s

/-- One level of the tree of R57. -/
def treeLevel (f : Word → Word → Word × Nat) : List (Option Word) → List (Option Word) × Nat
  | a :: b :: rest =>
    let (xs, fl) := treeLevel f rest
    match a, b with
    | none, b => (b :: xs, fl)
    | a, none => (a :: xs, fl)
    | some a, some b =>
      let (x, g) := f a b
      (some x :: xs, orFl g fl)
  | xs => (xs, 0)

/-- The tree of R57 over `n` levels: the result and the flags of its roundings. -/
def tree (f : Word → Word → Word × Nat) : Nat → List (Option Word) → Option Word × Nat
  | 0, xs => (xs.headD none, 0)
  | n + 1, xs =>
    let (ys, fl) := treeLevel f xs
    let (y, g) := tree f n ys
    (y, orFl fl g)

/-- REDW's combination of two values (R97). -/
def redwStep (op : Nat) (m : Rm) (a b : Word) : Word × Nat :=
  let fr := fun (x : FR) => (word x.bits, x.fl)
  match op with
  | 0 => (a + b, 0)
  | 1 => (minVal false a b, 0)
  | 2 => (maxVal false a b, 0)
  | 3 => (minVal true a b, 0)
  | 4 => (maxVal true a b, 0)
  | 5 => (a &&& b, 0)
  | 6 => (a ||| b, 0)
  | 7 => (a ^^^ b, 0)
  | 8 => fr (fAdd Fmt.f32 m a.toNat b.toNat)
  | 9 => ((word (fMinMax Fmt.f32 false a.toNat b.toNat).bits), 0)
  | _ => ((word (fMinMax Fmt.f32 true a.toNat b.toNat).bits), 0)

/-- REDW (R97): .fmin and .fmax raise invalid for a signalling leaf alone. -/
def execRedw (o : RedwOp) (s : State) : Host.Outcome State Fault Refusal :=
  issue (.redw o) (fun r e =>
    let ps := e.on o.g
    let rm := match o.x with
      | some (rm, _) => Rm.of rm
      | none => .rne
    let leaves := (List.range 32).map (fun l => if ps.contains l then some (e.v l o.a) else none)
    let (y, fl) := tree (redwStep o.op rm) 5 leaves
    let fl := if 9 ≤ o.op then nvIf (ps.any (fun l => (f32 (e.v l o.a)).isSig)) else fl
    match y with
    | none => .done r
    | some x =>
      let r := (r.onLanes e.w ps (fun _ l => l.setV o.d x)).raise e.w e.lat fl
      .done (match o.x with
        | some (_, sd) => r.putS e sd x
        | none => r)) s

/-- MATCH (R98). -/
def execMatchw (o : MatchOp) (s : State) : Host.Outcome State Fault Refusal :=
  laneOp (.matchw o) o.g (fun e l =>
    let ps := e.on o.g
    let pair := match o.x with
      | some (b, _) => b
      | none => false
    let val := fun k => if pair then e.v2 k o.a else (e.v k o.a).toNat
    let same := ps.filter (fun k => val k == val l)
    if o.all then
      let ok := same.length == ps.length
      { v := [(o.d, if ok then maskOf ps else 0)], p := (match o.x with
          | some (_, pd) => [(pd, ok)]
          | none => []), fl := 0 }
    else .reg o.d (maskOf same)) s

end Sys2Proof.Machine
end

