-- ==== Sys2Proof/Machine/LaneFp.lean ====
section
/-! DEFINITION. Lane instructions on floating-point values, conversion, bit planes and byte permutation (chapter 06). -/

namespace Sys2Proof

/-- The fields of Table 6.1 of an LR form: all zero (R104). -/
def FExt.zero : FExt :=
  { c := 0, rm := 0, sa := 0, sb := 0, sc := 0, k := false, imm := 0, q := 0, cb := 0, u := false, bf := false, ft := 0 }

def LOp.fext (o : LOp FExt) : FExt := o.x.getD FExt.zero

/-- Third source register: D in the LR form (Table 6.2). -/
def LOp.cReg (o : LOp FExt) : Nat :=
  match o.x with
  | some x => x.c
  | none => o.d

end Sys2Proof

namespace Sys2Proof.Machine

/-! ### Operands (R104, R105) -/

/-- A register or a pair as a pattern of `w` bits: 64, or the low bits of one register. -/
def Env.pat (e : Env) (l n w : Nat) : Nat := if w = 64 then e.v2 l n else (e.v l n).toNat % 2 ^ w

/-- A sign operation on both halves of a packed operand. -/
def signOp2 (code x : Nat) : Nat := signOp 16 code (fld x 0 16) + 2 ^ 16 * signOp 16 code (fld x 16 16)

/-- Second source of an FP32 form: K gives the upper half of the immediate. -/
def Env.fB (e : Env) (o : LOp FExt) (l : Nat) : Nat :=
  let x := o.fext
  if x.k then x.imm * 2 ^ 16 else signOp 32 x.sb (e.v l o.b).toNat

/-- Registers of a result of `w` bits. -/
def fres (d w : Nat) (x : FR) : LaneRes := { v := (List.zip (List.range 2) (wordsOf (w / 32) x.bits)).map (fun y => (d + y.1, y.2)), p := [], fl := x.fl }

/-- Format of the halves of a packed form. -/
def pkFmt (bf : Bool) : Fmt := if bf then Fmt.bf16 else Fmt.f16

/-- An operation on each half, with the flags of both (R106). -/
def packed2 (f : Nat → Nat → Nat → FR) (a b c : Nat) : FR :=
  let x := f (fld a 0 16) (fld b 0 16) (fld c 0 16)
  let y := f (fld a 16 16) (fld b 16 16) (fld c 16 16)
  { bits := x.bits + 2 ^ 16 * y.bits, fl := orFl x.fl y.fl }

/-! ### Arithmetic (R106) -/

def execFadd (o : LOp FExt) (s : State) : Host.Outcome State Fault Refusal :=
  laneOp (.fadd o) o.g (fun e l =>
    let x := o.fext
    fres o.d 32 (fAdd Fmt.f32 (Rm.of x.rm) (signOp 32 x.sa (e.pat l o.a 32)) (e.fB o l))) s

def execFmul (o : LOp FExt) (s : State) : Host.Outcome State Fault Refusal :=
  laneOp (.fmul o) o.g (fun e l =>
    let x := o.fext
    fres o.d 32 (fMul Fmt.f32 (Rm.of x.rm) (signOp 32 x.sa (e.pat l o.a 32)) (e.fB o l))) s

def execFfma (o : LOp FExt) (s : State) : Host.Outcome State Fault Refusal :=
  laneOp (.ffma o) o.g (fun e l =>
    let x := o.fext
    fres o.d 32 (fFma Fmt.f32 (Rm.of x.rm) (signOp 32 x.sa (e.pat l o.a 32)) (e.fB o l)
      (signOp 32 x.sc (e.pat l o.cReg 32)))) s

/-- A packed form of two or three sources. -/
def Env.pk (e : Env) (o : LOp FExt) (f : Fmt → Rm → Nat → Nat → Nat → FR) (l : Nat) : LaneRes :=
  let x := o.fext
  fres o.d 32 (packed2 (f (pkFmt x.bf) (Rm.of x.rm)) (signOp2 x.sa (e.pat l o.a 32)) (signOp2 x.sb (e.pat l o.b 32))
    (signOp2 x.sc (e.pat l o.cReg 32)))

def execPkadd (o : LOp FExt) (s : State) : Host.Outcome State Fault Refusal :=
  laneOp (.pkadd o) o.g (fun e l => e.pk o (fun t m a b _ => fAdd t m a b) l) s

def execPkmul (o : LOp FExt) (s : State) : Host.Outcome State Fault Refusal :=
  laneOp (.pkmul o) o.g (fun e l => e.pk o (fun t m a b _ => fMul t m a b) l) s

def execPkfma (o : LOp FExt) (s : State) : Host.Outcome State Fault Refusal :=
  laneOp (.pkfma o) o.g (fun e l => e.pk o (fun t m a b c => fFma t m a b c) l) s

/-- An FP64 form of two or three sources. -/
def Env.fp64 (e : Env) (o : LOp FExt) (f : Rm → Nat → Nat → Nat → FR) (l : Nat) : LaneRes :=
  let x := o.fext
  fres o.d 64 (f (Rm.of x.rm) (signOp 64 x.sa (e.pat l o.a 64)) (signOp 64 x.sb (e.pat l o.b 64))
    (signOp 64 x.sc (e.pat l o.cReg 64)))

def execDadd (o : LOp FExt) (s : State) : Host.Outcome State Fault Refusal :=
  laneOp (.dadd o) o.g (fun e l => e.fp64 o (fun m a b _ => fAdd Fmt.f64 m a b) l) s

def execDmul (o : LOp FExt) (s : State) : Host.Outcome State Fault Refusal :=
  laneOp (.dmul o) o.g (fun e l => e.fp64 o (fun m a b _ => fMul Fmt.f64 m a b) l) s

def execDfma (o : LOp FExt) (s : State) : Host.Outcome State Fault Refusal :=
  laneOp (.dfma o) o.g (fun e l => e.fp64 o (fun m a b c => fFma Fmt.f64 m a b c) l) s

/-! ### Minimum, maximum, comparison (R107, R108) -/

def Env.minMax (e : Env) (o : LOp FExt) (mx : Bool) (l : Nat) : LaneRes :=
  let x := o.fext
  if x.ft = 1 then
    fres o.d 64 (fMinMax Fmt.f64 mx (signOp 64 x.sa (e.pat l o.a 64)) (signOp 64 x.sb (e.pat l o.b 64)))
  else fres o.d 32 (fMinMax Fmt.f32 mx (signOp 32 x.sa (e.pat l o.a 32)) (e.fB o l))

def execFmin (o : LOp FExt) (s : State) : Host.Outcome State Fault Refusal :=
  laneOp (.fmin o) o.g (fun e l => e.minMax o false l) s

def execFmax (o : LOp FExt) (s : State) : Host.Outcome State Fault Refusal :=
  laneOp (.fmax o) o.g (fun e l => e.minMax o true l) s

def execPkmnmx (o : LOp FExt) (s : State) : Host.Outcome State Fault Refusal :=
  laneOp (.pkmnmx o) o.g (fun e l => e.pk o (fun t _ a b _ => fMinMax t o.fext.u a b) l) s

/-- Operand type of FT. -/
def ftFmt (ft : Nat) : Fmt := if ft = 0 then Fmt.f32 else if ft = 1 then Fmt.f64 else if ft = 2 then Fmt.f16 else Fmt.bf16

/-- A floating comparison before the combiner. -/
def cmpF (code : Nat) (u : Bool) (a b : Val) : Bool :=
  let un := a.isNan || b.isNan
  let res := if code = 0 then eqV a b else if code = 1 then !un && !eqV a b else if code = 2 then ltV a b
    else if code = 3 then ltV a b || eqV a b else if code = 4 then ltV b a else if code = 5 then ltV b a || eqV a b
    else if code = 6 then !un else un
  res || (u && un)

def execFsetp (o : SetpOp FExt) (s : State) : Host.Outcome State Fault Refusal :=
  laneOp (.fsetp o) o.g (fun e l =>
    let x := o.x.getD FExt.zero
    let t := ftFmt x.ft
    let a := decodeF t (signOp t.w x.sa (e.pat l o.a t.w))
    let b := decodeF t (signOp t.w x.sb (e.pat l o.b t.w))
    let c := cmpF o.cmp x.u a b
    let ps := match o.x with
      | none => [(o.pd, c)]
      | some x => [(o.pd, comb x.cb c (e.p l x.c)), (x.q, comb x.cb (!c) (e.p l x.c))]
    { v := [], p := ps, fl := nvIf (sigs [a, b]) }) s

/-! ### Functions and filtering (R109, R110) -/

/-- FUNC of a pattern. -/
def funcVal (fn : Nat) (h : Bool) (sgn x : Nat) : FR :=
  if h then fn16 (fnOf fn (decodeF Fmt.f16 (signOp 16 sgn (x % 2 ^ 16))))
  else (fnOf fn (decodeF Fmt.f32 (signOp 32 sgn x))).round Fmt.f32

def execFunc (o : FuncOp) (s : State) : Host.Outcome State Fault Refusal :=
  laneOp (.func o) o.g (fun e l =>
    let (h, sgn) := o.x.getD (false, 0)
    fres o.d 32 (funcVal o.fn h sgn (e.pat l o.a 32))) s

/-- The 16-bit weight or selector of FLERP and BYSEL. -/
def Env.pick16 (e : Env) (o : LOp PickExt) (l : Nat) : Nat :=
  match o.x with
  | none => e.pat l o.d 16
  | some x => if x.k then x.imm else e.pat l x.c 16

def execFlerp (o : LOp PickExt) (s : State) : Host.Outcome State Fault Refusal :=
  laneOp (.flerp o) o.g (fun e l => fres o.d 32 (flerp (e.pat l o.a 32) (e.pat l o.b 32) (e.pick16 o l))) s

/-! ### Conversion (R111 to R113) -/

/-- A floating format of Table 6.5. -/
def cvtFmt (f : Nat) : Fmt :=
  if f = 0 then Fmt.f32 else if f = 1 then Fmt.f16 else if f = 2 then Fmt.bf16 else if f = 3 then Fmt.e4
  else if f = 4 then Fmt.e5 else Fmt.f64

/-- Signed integer formats: S32, S16, S8, S64. -/
def cvtSigned (f : Nat) : Bool := f % 2 == 0

/-- Code bits of a UNORM format. -/
def cvtUbits (f : Nat) : Nat := if f = 14 then 8 else if f = 15 then 10 else if f = 16 then 12 else 16

/-- Least and greatest values of an integer format. -/
def cvtMin (f : Nat) : Int := if cvtSigned f then -(2 ^ (cvtWidth f - 1)) else 0
def cvtMax (f : Nat) : Int := if cvtSigned f then 2 ^ (cvtWidth f - 1) - 1 else 2 ^ cvtWidth f - 1

/-- An integer source by its type. -/
def cvtInt' (f x : Nat) : Int := if cvtSigned f then sx x (cvtWidth f) else (x : Int)

/-- Floating to a different floating format. -/
def cvtFF (t u : Fmt) (m : Rm) (sat : Bool) (x : Nat) : FR :=
  let v := decodeF u x
  let r := roundV t m sat v
  let fl := match v with
    | .nan g => nvIf g
    | .inf _ => if sat then 1 else nvIf t.e4m3
    | .fin _ _ _ => r.fl
  { r with fl := fl }

/-- Rounding to an integral value of the same format. -/
def cvtRi (t : Fmt) (m : Rm) (x : Nat) : FR :=
  match decodeF t x with
  | .nan g => { bits := t.cnan, fl := nvIf g }
  | .inf _ => { bits := x, fl := 0 }
  | .fin n k e =>
    let (i, exact) := toInt m n k e
    { bits := (roundV t .rne false (.fin n i.natAbs 0)).bits, fl := if exact then 0 else 1 }

/-- Floating to integer: rounded, then clamped. -/
def cvtFI (f : Nat) (t : Fmt) (m : Rm) (x : Nat) : FR :=
  let w := cvtWidth f
  match decodeF t x with
  | .nan _ => { bits := 0, fl := flNV }
  | .inf n => { bits := ux (if n then cvtMin f else cvtMax f) w, fl := flNV }
  | .fin n k e =>
    let (i, exact) := toInt m n k e
    if i < cvtMin f then { bits := ux (cvtMin f) w, fl := flNV }
    else if cvtMax f < i then { bits := ux (cvtMax f) w, fl := flNV }
    else { bits := ux i w, fl := if exact then 0 else 1 }

/-- The conversion of Table 6.7, on the source part and giving the destination part; a UNORM source raises NX alone. -/
def cvtVal (c : CvtExt) (x : Nat) : FR :=
  let m := Rm.of c.rm
  if cvtFloat c.sf && cvtFloat c.df then
    if c.sf = c.df then
      if c.ri then cvtRi (cvtFmt c.df) m x else { bits := signOp (cvtWidth c.sf) c.so x, fl := 0 }
    else cvtFF (cvtFmt c.df) (cvtFmt c.sf) m c.sat x
  else if cvtFloat c.sf && cvtInt c.df then cvtFI c.df (cvtFmt c.sf) m x
  else if cvtFloat c.sf then toUnorm (cvtUbits c.df) (decodeF (cvtFmt c.sf) x)
  else if cvtInt c.sf && cvtFloat c.df then roundV (cvtFmt c.df) m c.sat (valOfInt (cvtInt' c.sf x))
  else if cvtInt c.sf then
    let v := cvtInt' c.sf x
    { bits := ux (if c.sat then max (cvtMin c.df) (min (cvtMax c.df) v) else v) (cvtWidth c.df), fl := 0 }
  else
    let y := ofUnorm (cvtFmt c.df) (cvtUbits c.sf) (x % 2 ^ cvtUbits c.sf)
    { y with fl := y.fl % 2 }

def execCvt (g d a : Nat) (f : CvtForm) (s : State) : Host.Outcome State Fault Refusal :=
  laneOp (.cvt g d a f) g (fun e l =>
    let c := cvtOf f
    let ws := cvtWidth c.sf
    let wd := cvtWidth c.df
    let x := if ws = 64 then e.v2 l a else fld (e.v l a).toNat (ws * c.sp) ws
    let y := cvtVal c x
    if 32 ≤ wd then fres d wd y
    else
      let lo := wd * c.dp
      let old := if c.ins then (e.v l d).toNat - fld (e.v l d).toNat lo wd * 2 ^ lo else 0
      { v := [(d, word (old + y.bits * 2 ^ lo))], p := [], fl := y.fl }) s

/-! ### Bit planes and bytes (R114, R115) -/

def LaneRes.pair (d x : Nat) : LaneRes := { v := [(d, lo32 x), (d + 1, hi32 x)], p := [], fl := 0 }

def execPlnp (g d a : Nat) (lx : Bool) (s : State) : Host.Outcome State Fault Refusal :=
  laneOp (.plnp g d a lx) g (fun e l => .pair d (plnp64 (e.v2 l a))) s

/-- PLNU of `p` planes: each element scaled to 8 bits, or as it is when `q`. -/
def plnu64 (x p : Nat) (q : Bool) : Nat :=
  (List.range 8).foldl (fun y i =>
    let v := planeElem x p i
    y + ux (if q then v else v * 2 ^ (8 - p)) 8 * 2 ^ (8 * i)) 0

def execPlnu (g d a : Nat) (x : Option (Nat × Bool)) (s : State) : Host.Outcome State Fault Refusal :=
  laneOp (.plnu g d a x) g (fun e l =>
    let (p, q) := x.getD (8, false)
    .pair d (plnu64 (e.v2 l a) p q)) s

/-- Byte `i` of BYSEL's result, after bytes 0 to i - 1 in `t`. -/
def byselByte (x t sl i : Nat) : Nat :=
  let n := fld sl (4 * i) 4
  if n ≤ 7 then fld x (8 * n) 8 else if n = 9 then 0xFF
  else if n = 10 ∧ 0 < i ∧ bitOf t (8 * i - 1) = true then 0xFF else 0

def byselVal (x sl : Nat) : Nat := (List.range 4).foldl (fun t i => t + byselByte x t sl i * 2 ^ (8 * i)) 0

def execBysel (o : LOp PickExt) (s : State) : Host.Outcome State Fault Refusal :=
  laneOp (.bysel o) o.g (fun e l => .reg o.d (word (byselVal (cat (e.v l o.b) (e.v l o.a)) (e.pick16 o l)))) s

end Sys2Proof.Machine
end

