-- ==== Sys2Proof/Machine/Power.lean ====
section
/-! DEFINITION. Power tokens, temperatures, refresh and quiet mode (chapter 22, R341 to R349). -/

namespace Sys2Proof.Machine

/-! ### Tokens -/

/-- TALW for the refill of microsecond boundary `b`: its value at the start of that boundary's tick (R349), which is what the
first change at that tick or later has found. -/
def Run.talwAt (r : Run) (b : Nat) : Nat :=
  match r.dev.power.talwMark.find? (fun m => decide (b ≤ m.1)) with
  | some m => m.2
  | none => r.dev.sys.talw

/-- Changes of TALW that no refill still to come looks at are forgotten. -/
def Power.prune (p : Power) : Power :=
  let next := 1000 * (min (nthD p.refilled 0 0) (nthD p.refilled 1 0) + 1)
  { p with talwMark := p.talwMark.filter (fun m => decide (next ≤ m.1)) }

/-- TOKEN_REFILL (R341): the next boundary of DTIME that a stack's pool has not been served. -/
def execTokenRefill (stack : Nat) (s : State) : Host.Outcome State Fault Refusal :=
  act (fun r =>
    let b := (nthD r.dev.power.refilled stack 0 + 1) * 1000
    if 2 ≤ stack ∨ r.clk.dtime < b then r
    else
      let n := r.dev.sys.tokrate * fld (r.talwAt b) (16 * stack) 9 / 256
      r.modPower (fun p => Power.prune { p with
        tokens := modNth p.tokens stack (fun x => min 9200 (x + n))
        refilled := modNth p.refilled stack (fun x => x + 1) })) s

/-! ### Temperatures -/

/-- LOGIC_TEMPERATURE_SAMPLE (R338): the readings of cores 0 up, in whole degrees. -/
def execLogicTemperatureSample (temps : List Nat) (s : State) : Host.Outcome State Fault Refusal :=
  act (fun r => (temps.take 128).zipIdx.foldl (fun r e => r.modCore e.2 (fun c => { c with temp := e.1 })) r) s

/-- A shutdown request (R345): everything stops, nothing is saved, and a fatal error is reported. -/
def Run.shutdown (r : Run) : Run :=
  let r := r.modPower (fun p => { p with trip := true })
  let r := { r with dev := { r.dev with on := false }, cur := Issue.idle }
  r.emit .fatal

/-- Forces the TALW field of a stack to 128 (Table 22.6). -/
def Run.forceTalw (r : Run) (stack : Nat) : Run :=
  let v := r.dev.sys.talw
  r.setTalw (v - fld v (16 * stack) 9 * 2 ^ (16 * stack) + 128 * 2 ^ (16 * stack))

/-- DRAM_TEMPERATURE_SAMPLE (R343, Table 22.6). -/
def execDramTemperatureSample (stack reading : Nat) (s : State) : Host.Outcome State Fault Refusal :=
  act (fun r =>
    if 2 ≤ stack then r
    else
      let was := nthD r.dev.power.forced stack false
      let halved := decide (85 < reading) || (nthD r.dev.power.halved stack false && decide (83 ≤ reading))
      let forced := decide (95 ≤ reading) || (was && decide (93 ≤ reading))
      let r := r.modPower (fun p => { p with
        dram := setNth p.dram stack reading
        halved := setNth p.halved stack halved
        forced := setNth p.forced stack forced })
      let r := if forced && !was then r.forceTalw stack else r
      if 105 ≤ reading then r.shutdown else r) s

/-- The thermal status word (Table 22.7). -/
def Run.thermalStatus (r : Run) : Nat :=
  let p := r.dev.power
  let level := fun (k : Nat) => if nthD p.forced k false then 2 else if nthD p.halved k false then 1 else 0
  b1 p.trip 31 + b1 r.dev.sys.quietMode 30 + level 1 * 2 ^ 28 + level 0 * 2 ^ 26 + nthD p.dram 1 0 % 256 * 256 +
    nthD p.dram 0 0 % 256

/-! ### Refresh (R344, R348) -/

/-- The refresh interval of a stack in ns (R343). -/
def Run.interval (r : Run) (stack : Nat) : Nat := if nthD r.dev.power.halved stack false then 1950 else 3900

/-- Whether a bank group is blocked now. -/
def Run.blocked (r : Run) (vault group : Nat) : Bool :=
  r.dev.power.blocks.any (fun b => b.1 == vault && b.2.1 == group && decide (r.clk.dtime < b.2.2))

/-- REFRESH_BLOCK: 350 ns, once an interval has passed since the last block of that bank group began. -/
def execRefreshBlock (vault group : Nat) (s : State) : Host.Outcome State Fault Refusal :=
  act (fun r =>
    let mine := fun (b : Nat × Nat × Nat) => b.1 == vault && b.2.1 == group
    if 128 ≤ vault ∨
        r.dev.power.blocks.any (fun b => mine b && decide (r.clk.dtime + 350 < b.2.2 + r.interval (stackOf vault))) then r
    else r.modPower (fun p => { p with
      blocks := (p.blocks.filter (fun b => !mine b)) ++ [(vault, group, r.clk.dtime + 350)] })) s

/-! ### Quiet mode (R346) -/

/-- QUIET_MODE_ADJUST: the average inlet power of the last ms against QPWR. -/
def execQuietModeAdjust (watts : Nat) (s : State) : Host.Outcome State Fault Refusal :=
  act (fun r =>
    let q := r.dev.sys.qpwr
    let now := r.clockMhz
    if !r.dev.sys.quietMode then r
    else if q < watts then r.modPower (fun p => { p with plim := max 500 (now - 25) })
    else if 100 * watts < 95 * q ∧ now + 25 ≤ r.dev.sys.qclk then r.modPower (fun p => { p with plim := now + 25 })
    else r) s

end Sys2Proof.Machine
end

