-- ==== Sys2Proof/Machine/Reliab.lean ====
section
/-! DEFINITION. The machine-check window and the vertical buses (chapter 24, R356, R362). -/

namespace Sys2Proof.Machine

/-- A machine-check record as the window shows it (Table 24.3). -/
def McRec.word (m : McRec) : Nat :=
  m.addr % 2 ^ 64 * 2 ^ 192 + m.time % 2 ^ 64 * 2 ^ 128 + m.queue % 2 ^ 16 * 2 ^ 112 + m.core % 2 ^ 8 * 2 ^ 104 +
    m.part % 2 ^ 4 * 2 ^ 100 + m.kind % 2 ^ 4 * 2 ^ 96 + m.whereRow % 2 ^ 8 * 2 ^ 88 + m.rq % 2 ^ 8 * 2 ^ 80 +
    m.lost % 2 ^ 16 * 2 ^ 32 + m.seq % 2 ^ 32

/-- A read of the machine-check window through function 0 pops the oldest record; an empty window, and the window of any other
function, holds none (R356, R388). -/
def Run.mcPop (r : Run) (fn : Nat) : Option McRec × Run :=
  match r.dev.rel.window with
  | [] => (none, r)
  | m :: l => if fn = 0 then (some m, r.modRel (fun x => { x with window := l })) else (none, r)

/-- MACHINE_CHECK_WINDOW_READ (R356, R388). -/
def execMachineCheckWindowRead (fn : Nat) (s : State) : Host.Outcome State Fault Refusal :=
  act (fun r => (r.mcPop fn).2.emit (.mcRead (r.mcPop fn).1)) s

/-- The units of a 128-byte line. -/
def lineUnits (pa : Nat) : List Nat := (List.range 16).map (fun i => pa / 128 * 128 + 8 * i)

/-- A warp whose registers are lost: a read of any of them finds an error. -/
def Warp.lost (wp : Warp) : Warp :=
  let regs := (List.range wp.regs).map Res.v ++ (List.range 12).map Res.p
  { wp.mapLanes (fun _ l => { l with bad := regs }) with
    bad := (List.range 192).map Res.s ++ (List.range 7).map Res.g ++ (List.range 4).map Res.m }

/-- A vault without a spare wire is offline: its core's backing tier and save area are lost, with the registers of the warps
that lie there. [DEDUCED] (entry 107) -/
def Run.vaultOff (r : Run) (vault : Nat) : Run :=
  let r := r.modCore vault (fun c => { c with offline := true })
  let r := r.modWarps (fun _ w => if w.core = vault ∧ w.spilled then w.lost else w)
  r.modSched (fun s => { s with images := modM s.images vault (fun m => mapM' m (fun _ w => w.lost)) })

/-- A vault whose bus has failed four times: remapped onto its spare, or taken offline with its core when it has none
(R362). -/
def Run.busRemap (r : Run) (vault : Nat) : Run :=
  if r.dev.rel.remapped.contains vault then r.vaultOff vault
  else r.modRel (fun x => { x with remapped := x.remapped ++ [vault] })

/-- A register holds an error; `bus` when a vertical bus has delivered it. -/
def Warp.hurt (wp : Warp) (lane : Nat) (x : Res) (bus : Bool) : Warp :=
  let add := fun (l : List Res) => if l.contains x then l else l ++ [x]
  let wp := { wp with bus := wp.bus.filter (fun y => y != (lane, x)) ++ (if bus then [(lane, x)] else []) }
  if lane < 32 then wp.onLanes [lane] (fun _ y => { y with bad := add y.bad }) else { wp with bad := add wp.bad }

/-- A register of a warp that lies above a core: a lane's own in the backing tier, any in the save area (R14, Table 21.7). -/
def Run.busReg (r : Run) (vault w lane : Nat) (x : Res) (tier : Bool) : Run :=
  match r.warp w with
  | some wp => if tier && wp.spilled && wp.core == vault then r.modWarp w (fun y => y.hurt lane x true) else r
  | none => r.modSched (fun s => { s with images := modM s.images vault (fun m => modM m w (fun y => y.hurt lane x true)) })

/-- A transfer whose retries are exhausted delivers poison, of row 3 (R362). -/
def Run.busPoison (r : Run) (vault : Nat) (x : BusData) : Run :=
  match x with
  | .line none pa => if isGddr pa then r.addPoison none 3 (lineUnits pa) else r
  | .line (some g) pa => if r.isStaged g pa then r.addPoison (some g) 3 (lineUnits pa) else r
  | .vreg w lane n => if lane < 32 then r.busReg vault w lane (.v n) true else r
  | .preg w lane n => if lane < 32 then r.busReg vault w lane (.p n) false else r
  | .sreg w n => r.busReg vault w 32 (.s n) false
  | .word core key =>
    if core = vault then r.modSched (fun s => { s with cimages := modM s.cimages core (fun c => { c with xpoison := putM c.xpoison key 3 }) })
    else r

/-- The line that a record of a transfer names. -/
def busAddr (x : BusData) : Nat :=
  match x with
  | .line _ pa => pa / 128 * 128
  | _ => noAddr

/-- VERTICAL_BUS_RETRY (R362): `fails` tries of a transfer fail its CRC. From the fourth failure on the bus is remapped;
the transfer itself has four resends, and when the last fails too its data is poisoned. Otherwise it is corrected. -/
def execVerticalBusRetry (vault fails : Nat) (x : BusData) (s : State) : Host.Outcome State Fault Refusal :=
  act (fun r =>
    if 128 ≤ vault ∨ fails = 0 then r
    else
      let r := if fails < 4 then r else r.busRemap vault
      if fails < 5 then r.report 4 3 ((r.partOfCore vault).getD 0) vault (busAddr x)
      else r.busPoison vault x) s

end Sys2Proof.Machine
end

