-- ==== Sys2Proof/Machine/Sched.lean ====
section
/-! DEFINITION. Queues, launch packets, dispatch, placement, gatherings and retirement (R31 to R43, R119, R227, R262, R316, R329 to R339, R359, R379). -/

namespace Sys2Proof.Machine

/-! ### Launch packets (R332, Table 22.2) -/

def Packet.parse (x : Nat) : Packet :=
  let pred := (List.range 4).map (fun i => fld x (512 + 64 * i) 64)
  { handler := fld x 960 64, pre := (List.range 4).map (fun i => fld x (832 + 32 * i) 32), bars := fld x 768 64, pred := pred
    tbg := (List.range 4).map (fun i => fld x (480 + 8 * i) 8), shedm := fld x 448 32, precnt := fld x 419 3
    banks := fld x 414 5, team := fld x 401 13, priv := fld x 388 13, regs := fld x 384 4, coop := bitOf x 377
    cont := bitOf x 376, shed := bitOf x 375, ovl := bitOf x 374, cls := fld x 372 2, gang := fld x 368 3
    nz := fld x 352 16, ny := fld x 336 16, nx := fld x 320 16, gz := fld x 296 20, gy := fld x 276 20, gx := fld x 256 20
    deadline := fld x 192 64, colo := fld x 128 64, param := fld x 64 64, entry := fld x 0 64
    clean := fld x 422 26 == 0 && fld x 378 6 == 0 && !bitOf x 371 && fld x 316 4 == 0 &&
      pred.all (fun p => fld p 58 5 == 0 && fld p 32 16 == 0) }

/-- A valid packet for a queue whose most urgent class is `cls`. -/
def Packet.ok (p : Packet) (cls : Nat) : Bool :=
  p.clean && decide (p.precnt ≤ 4) && decide (p.banks ≤ 24) && decide (p.team ≤ 4096) && decide (p.priv ≤ 4096) &&
    decide (p.regs ≤ 14) && decide (p.gang ≤ 4) && p.bars % 16 == 0 && decide (p.threads ≤ 65536) && decide (cls ≤ p.cls) &&
    p.colo % 64 == 0 && pcValid p.entry &&
    (p.handler == 0 || (pcValid p.handler && p.handler / 2 ^ 32 == p.entry / 2 ^ 32))

/-- Warps of a team. -/
def Packet.warps (p : Packet) : Nat := (p.threads + 31) / 32

/-- Enters a launch among the grids. -/
def Run.enter (r : Run) (p : Packet) (part queue : Nat) (seq parent : Option Nat) (depth cls deadline : Nat)
    (root : Nat → Option Nat) : Nat × Run :=
  let (id, r) := r.freshUid
  (id, r.modSched (fun s => { s with
    grids := putM s.grids id (Grid.start p part queue seq depth parent cls deadline (root id)) }))

/-! ### Queues (R329 to R331, R335) -/

/-- The fields of a queue context (Table 22.1); RIDX and WIDX are the device's. -/
def Queue.parse (x : Nat) (ridx widx : Nat) : Queue :=
  { v := bitOf x 212, err := bitOf x 216, cls := fld x 217 2, logn := fld x 219 5, ring := fld x 0 64, ridx := ridx, widx := widx
    privb := fld x 148 64, pshr := fld x 132 16, schkd := fld x 64 2, reca := fld x 320 64, recsz := fld x 288 32
    asid := fld x 448 12, root := fld x 400 32, asv := bitOf x 384 }

/-- A context that is accepted. -/
def queueOk (x part : Nat) (q : Queue) : Bool :=
  q.v && decide (4 ≤ q.logn) && decide (q.logn ≤ 16) && q.ring % 128 == 0 && q.privb % 65536 == 0 && fld x 213 3 == part

/-- Launches of a queue that have not retired. -/
def Run.queueOpen (r : Run) (k : Nat) : Bool :=
  r.dev.sched.grids.any (fun e => qkey e.2.part e.2.queue == k && e.2.open)

/-- A queue that may read and dispatch. -/
def Run.liveQueue (r : Run) (k : Nat) : Option Queue :=
  match r.queue k with
  | some q => if q.v then some q else none
  | none => none

def execQueueContextWrite (part q : Nat) (words : List Nat) (s : State) : Host.Outcome State Fault Refusal :=
  act (fun r =>
    let k := qkey part q
    let x := ofWords (words.map word) % 2 ^ 512
    let (ridx, widx, busy) := match r.queue k with
      | some c => (c.ridx, c.widx, c.v && !c.err && c.ridx != c.widx)
      | none => (0, 0, false)
    if 1024 ≤ q || (r.part part).isNone || r.queueOpen k || busy then r
    else
      let c := Queue.parse x ridx widx
      r.modSched (fun s => { s with queues := putM s.queues k { c with v := queueOk x part c } })) s

/-- A write of the notify register of a queue through a function (R308, R330): every queue has one; it is recorded for a queue that may
read. -/
def Run.notify (r : Run) (fn q v : Nat) : Run :=
  match r.partOfFunc fn with
  | none => r
  | some part =>
    if 1024 ≤ q then r
    else
      let r := r.intp r.dev.sys.scc 1
      match r.liveQueue (qkey part q) with
      | none => r
      | some c =>
        let v := v % 2 ^ 32
        if 2 ^ c.logn < (v + 2 ^ 32 - c.ridx) % 2 ^ 32 then r.queueError part q
        else r.modQueue (qkey part q) (fun c => { c with widx := v })

def execQueueNotify (fn q v : Nat) (s : State) : Host.Outcome State Fault Refusal := act (fun r => r.notify fn q v) s

/-- The next unread packet of a queue as the device reads it at its home; none where the entry cannot be read, as at a
page that is not resident or lies outside the partition's memory (R328, R330). -/
def Run.headPacket (r : Run) (part q : Nat) (c : Queue) : Option (Nat × Run) :=
  let va := (c.ring + 128 * (c.ridx % 2 ^ c.logn)) % 2 ^ 64
  if !canonical va then none
  else match r.xlate (r.spaceOfQueue part q) .load false va with
    | .fail _ _ => none
    | .ok pa _ =>
      if r.poisoned none (run pa 128) then none
      else
        let (bs, r) := r.homeRead none pa 128
        some (ofBytes bs, r)

/-- The deadline by which a waiting queue claims a slot, its own number breaking ties (R335). -/
def Run.slotRank (r : Run) (k : Nat) (c : Queue) : Nat :=
  let d := if c.ridx = c.widx then 0
    else match r.headPacket (k / 1024) (k % 1024) c with
      | some (x, _) => fld x 192 64
      | none => 0
  let d := if d = 0 then 2 ^ 64 - 1 else d
  (c.cls * 2 ^ 64 + d) * 1024 + k % 1024

/-- A queue that wants an active slot. -/
def Run.wantsSlot (r : Run) (k : Nat) (c : Queue) : Bool :=
  c.v && !r.dev.sched.active.contains (some k) && (c.ridx != c.widx || r.queueOpen k)

/-- The free slot that a class may take: 0 to 7 for class 0 first. -/
def Sched.freeSlot (s : Sched) (cls : Nat) : Option Nat :=
  (List.range 32).find? (fun i => (decide (8 ≤ i) || cls == 0) && nthD s.active i none == none)

/-- A free slot is left for a queue of a class after more urgent waiting queues, of the classes `ahead`, have each taken one. -/
def Sched.slotLeft (s : Sched) (cls : Nat) (ahead : List Nat) : Bool :=
  let free := (List.range 32).filter (fun i => nthD s.active i none == none)
  let low := (free.filter (fun i => decide (i < 8))).length
  let zero := (ahead.filter (· == 0)).length
  if cls = 0 then decide (ahead.length < free.length)
  else decide (ahead.length - zero + (zero - low) < free.length - low)

def execActiveSlotClaim (part q : Nat) (s : State) : Host.Outcome State Fault Refusal :=
  act (fun r =>
    let k := qkey part q
    match r.liveQueue k with
    | none => r
    | some c =>
      match (if r.wantsSlot k c then r.dev.sched.freeSlot c.cls else none) with
      | none => r
      | some i =>
        let mine := r.slotRank k c
        let ahead := r.dev.sched.queues.filter (fun e =>
          e.1 != k && r.wantsSlot e.1 e.2 && (r.dev.sched.freeSlot e.2.cls).isSome && decide (r.slotRank e.1 e.2 < mine))
        if r.dev.sched.slotLeft c.cls (ahead.map (fun e => e.2.cls)) then r.modSched (fun s => { s with active := setNth s.active i (some k) }) else r) s

/-- The address space of a queue may run launches (R316). -/
def Run.spaceOk (r : Run) (part : Nat) (c : Queue) : Bool := c.asv && r.partHolds part (c.root * 65536) 65536

/-- A queue whose next ring entry the mapper may read. -/
def Run.unread (r : Run) (k : Nat) : Option Queue :=
  match r.liveQueue k with
  | some c => if c.ridx != c.widx && r.dev.sched.active.contains (some k) then some c else none
  | none => none

/-- RING_ENTRY_READ (R330 to R332): under the hold only of the entry whose read was in progress when it began (R379). -/
def execRingEntryRead (part q : Nat) (s : State) : Host.Outcome State Fault Refusal :=
  act (fun r =>
    let k := qkey part q
    match r.unread k with
    | none => r
    | some c =>
      if r.dev.sys.hold && r.dev.sys.reading != some k then r
      else
      let r := r.modSys (fun s => { s with reading := none })
      match r.headPacket part q c with
        | none => r.queueError part q
        | some (x, r) =>
          let p := Packet.parse x
          let r := r.modQueue k (fun c => { c with ridx := (c.ridx + 1) % 2 ^ 32 })
          let (id, r) := r.enter p part q (some c.ridx) none 0 p.cls p.deadline (fun id => if p.cont then some id else none)
          if c.err then r.colophon id 9 0 0 0 none
          else if !p.ok c.cls then r.colophon id 3 0 0 0 none
          else if !r.spaceOk part c then r.colophon id 4 0 0 0 none
          else r) s

/-! ### LAUNCH (R40) -/

/-- Child grids that have not retired. -/
def Sched.children (s : Sched) : Nat := (s.grids.filter (fun e => decide (0 < e.2.depth) && e.2.open)).length

/-- Deadlines with 0 as none: the earlier. -/
def minDeadline (a b : Nat) : Nat := if a = 0 then b else if b = 0 then a else min a b

/-- Enqueues a child of grid `g`. -/
def Run.childEnter (r : Run) (g : Nat) (x : Grid) (p : Packet) : Run :=
  let root := fun (id : Nat) => match x.root with
    | some y => some y
    | none => if p.cont then some id else none
  let (id, r) := r.enter p x.part x.queue none (some g) (x.depth + 1) (max p.cls x.cls) (minDeadline p.deadline x.deadline) root
  match r.queue (qkey x.part x.queue) with
  | some c => if c.err then r.colophon id 9 0 0 0 (r.coloNode id) else r
  | none => r

/-- LAUNCH (R40): it reads the packet as a load of its split, and is a release only when it enqueues the launch (R386). -/
def execLaunch (g d a : Nat) (s : State) : Host.Outcome State Fault Refusal :=
  uniOp (.launch g d a) g (fun r e =>
    match r.grid e.grid with
    | none => .done r
    | some x =>
      let va := e.us2 a
      if e.wp.wid ≠ 0 ∨ !e.lanes.contains 0 then .done (r.putS e d 2)
      else if x.depth = 10 then .done (r.putS e d 1)
      else match r.globLoc (r.spaceAt e) .load va 128 with
        | .error b => b.ret 0 e.lead
        | .ok (.glob pas _) =>
          let node := r.nodeOf e.grid
          let pa := pas.headD 0
          match r.poisonRow node pas with
          | some row => .mcheck row (pa / 128 * 128)
          | none =>
            if e.lanes.any (fun l => r.laneAcq e.w l) || r.overlaps e node (e.lanes.map (fun l => (l, Loc.glob pas false))) ||
                r.lineBusy e.wp.core (nkey node pa / 128) then .wait .fence
            else
            let (bs, r) := (r.seeAt e.wp.core e.w node pas).loadSync e.wp.core e.grid node pa 128
            let p := Packet.parse (ofBytes bs)
            let cls := match r.queue (qkey x.part x.queue) with
              | some c => c.cls
              | none => 0
            if !p.ok cls then .done (r.putS e d 3)
            else if 4096 ≤ r.dev.sched.children then .done (r.putS e d 4)
            else r.released e everyLane 2 false (fun r => .done ((r.childEnter e.grid x p).putS e d 0))
        | .ok _ => .done r) s

/-! ### Choosing work (R262, R336, R337) -/

/-- A predecessor's colophon has been written. -/
def Run.predDone (r : Run) (part pr : Nat) : Bool :=
  let hit := r.dev.sched.grids.filter (fun e =>
    e.2.part == part && e.2.queue == fld pr 48 10 && e.2.depth == 0 && e.2.seq == some (fld pr 0 32))
  !bitOf pr 63 || (!hit.isEmpty && hit.all (fun e => !e.2.open))

/-- The host launch read before this one in its queue allows it (R337). -/
def Run.orderOk (r : Run) (x : Grid) : Bool :=
  match x.seq with
  | none => true
  | some n => (r.dev.sched.grids.filter (fun e => e.2.part == x.part && e.2.queue == x.queue && e.2.depth == 0 &&
      e.2.seq == some ((n + 2 ^ 32 - 1) % 2 ^ 32))).all (fun e => !e.2.open || (x.pkt.ovl && e.2.st == .running))

/-- The launch's queue dispatches: it is not in the error state (R331). -/
def Run.queueRuns (r : Run) (x : Grid) : Bool :=
  match r.queue (qkey x.part x.queue) with
  | some c => !c.err
  | none => true

/-- An eligible launch. -/
def Run.eligible (r : Run) (x : Grid) : Bool :=
  x.st == .waiting && r.queueRuns x && (decide (0 < x.rq) || (x.pkt.pred.all (r.predDone x.part) && r.orderOk x))

/-- The order of R336: class, deadline, queue, ring order. -/
def Grid.rank (x : Grid) (id : Nat) : Nat :=
  let d := if x.deadline = 0 then 2 ^ 64 - 1 else x.deadline
  ((x.cls * 2 ^ 64 + d) * 1024 + x.queue) * 2 ^ 64 + id

/-! ### Cores and their room (R13, R32, R36, R37, R119, R205) -/

/-- Cores that a launch may be placed on: its partition's with their vault, no repair pending, and not those that failed an
attempt of its node (R360, R362, R364). `bare` leaves repair and attempts aside. -/
def Run.coreUsable (r : Run) (x : Grid) (bare : Bool) (c : Nat) : Bool :=
  let top := match x.root with
    | some g => match r.grid g with
      | some y => y.excluded
      | none => []
    | none => x.excluded
  (match r.part x.part with
    | some p => p.groups.getLsbD (c / 8)
    | none => false) && !(r.core c).offline &&
    (bare || (!top.contains c && (List.range 4).all (fun p => (lookM r.dev.sched.lanePend (4 * c + p)).isNone)))

/-- Lowest cores of the gangs of a size that a launch may occupy. -/
def Run.gangs (r : Run) (x : Grid) (bare : Bool) (size : Nat) : List Nat :=
  ((List.range (128 / size)).map (fun i => i * size)).filter (fun b => (run b size).all (r.coreUsable x bare))

/-- Warps that member `i` of a gang of `size` holds, and those of them in partition `q` of it (R36). -/
def Packet.perMember (p : Packet) (size : Nat) : Nat := (p.warps + size - 1) / size

def Packet.memberWarps (p : Packet) (size i : Nat) : Nat := min (p.perMember size) (p.warps - i * p.perMember size)

def partWarps (m q : Nat) : Nat := (m + 3 - q) / 4

/-- Slots of a core that warps hold. -/
def Run.slotsUsed (r : Run) (c : Nat) : List Nat := (r.dev.warps.filter (fun e => e.2.core == c)).map (fun e => e.2.slot)

/-- Teams that hold resources of a core now. -/
def Run.teamsOn (r : Run) (c : Nat) : List Packet :=
  (r.dev.sched.teams.filter (fun e => !e.2.complete && e.2.cores.contains c && !r.teamSaved e.1)).filterMap (fun e =>
    (r.grid e.2.grid).map (fun g => g.pkt))

/-- A queue's share of a core in its private pool: base and bytes. -/
def Run.share (r : Run) (x : Grid) (c : Nat) : Nat × Nat :=
  match r.queue (qkey x.part x.queue) with
  | some q => (q.privb + c * q.pshr * 65536, q.pshr * 65536)
  | none => (0, 0)

/-- Regions of a share in use: a region returns when its warp ends (R119). -/
def Run.regions (r : Run) (x : Grid) (c : Nat) : List (Nat × Nat) :=
  let all := r.dev.warps ++ r.dev.sched.images.flatMap (·.2)
  (all.filter (fun e => e.2.core == c && decide (0 < e.2.privSize) && !e.2.liveLanes.isEmpty &&
    (match r.grid (r.gridOf e.2) with
      | some y => y.part == x.part && y.queue == x.queue
      | none => false))).map (fun e => (e.2.privBase, 32 * e.2.privSize))

/-- The lowest free run of `n` bytes of a share. -/
def freeRegion (base size n : Nat) (used : List (Nat × Nat)) : Option Nat :=
  let fits := fun (a : Nat) => decide (base ≤ a) && decide (a + n ≤ base + size) &&
    used.all (fun u => decide (a + n ≤ u.1) || decide (u.1 + u.2 ≤ a))
  minBy id ((base :: used.map (fun u => u.1 + u.2)).filter fits)

/-- Private bytes of a team on member `i`. -/
def Packet.memberPriv (p : Packet) (size i : Nat) : Nat := 32 * p.privBytes * p.memberWarps size i

/-- A core can hold member `i` of a team: free of other work, or as it stands. -/
def Run.memberFits (r : Run) (x : Grid) (size c i : Nat) (bare : Bool) : Bool :=
  let p := x.pkt
  let m := p.memberWarps size i
  let used := if bare then [] else r.slotsUsed c
  let ts := if bare then [] else r.teamsOn c
  let (base, share) := r.share x c
  (List.range 4).all (fun q => decide (partWarps m q + (used.filter (fun s => s % 4 == q)).length ≤ 32)) &&
    decide (p.teamBytes + (ts.map Packet.teamBytes).foldl (· + ·) 0 ≤ 524288) &&
    decide (p.banks + (ts.map Packet.banks).foldl (· + ·) 0 ≤ 24) &&
    (p.memberPriv size i == 0 || (freeRegion base share (p.memberPriv size i) (if bare then [] else r.regions x c)).isSome)

/-- A gang can hold a team. -/
def Run.gangFits (r : Run) (x : Grid) (size b : Nat) (bare : Bool) : Bool :=
  (List.range size).all (fun i => r.memberFits x size (b + i) i bare)

/-- How many teams of a launch a member holds when it is free of other work. -/
def Run.memberCap (r : Run) (x : Grid) (size c i : Nat) : Nat :=
  let p := x.pkt
  let m := p.memberWarps size i
  let by' := fun (have' need : Nat) => if need = 0 then 2 ^ 64 else have' / need
  [by' 32 (partWarps m 0), by' 524288 p.teamBytes, by' 24 p.banks, by' (r.share x c).2 (p.memberPriv size i)].foldl min (2 ^ 64)

/-- A team that no free gang holds, or a cooperative grid that its partition cannot hold whole (R31, R35, R119). -/
def Run.tooLarge (r : Run) (x : Grid) : Bool :=
  let size := 2 ^ x.pkt.gang
  let homes := (r.gangs x true size).filter (fun b => r.gangFits x size b true)
  homes.isEmpty || (x.pkt.coop && decide ((homes.map (fun b =>
    ((List.range size).map (fun i => r.memberCap x size (b + i) i)).foldl min (2 ^ 64))).foldl (· + ·) 0 < x.pkt.teams))

/-! ### Gatherings (R227, R228) -/

/-- Records of one gathering that wait for their relaunch. -/
def Run.gathering (r : Run) (x : Rec) : Map Rec :=
  r.dev.sched.recs.filter (fun e => e.2.resume == x.resume && e.2.grid == x.grid && e.2.n == x.n && e.2.a == x.a &&
    e.2.completed.isSome && !e.2.inUse)

/-- A gathering is due: 32 records, or 1 µs after its oldest was completed. -/
def Run.due (r : Run) (xs : Map Rec) : Bool :=
  decide (32 ≤ xs.length) || xs.any (fun e => decide (e.2.completed.getD 0 + 1000 ≤ r.clk.dtime))

/-- A grid has a gathering that is due. -/
def Run.anyDue (r : Run) (g : Nat) : Bool :=
  r.dev.sched.recs.any (fun e => e.2.grid == g && e.2.completed.isSome && !e.2.inUse && r.due (r.gathering e.2))

/-- A launch for the placement of a relaunched warp: a team of one warp on one core. -/
def Grid.oneWarp (x : Grid) : Grid :=
  { x with pkt := { x.pkt with gang := 0, nx := 31, ny := 0, nz := 0, team := 0, banks := 0, coop := false } }

/-! ### Placement (R336, R338) -/

/-- Cores that a more urgent launch waits for: every core of its partition that could hold its team were it free. -/
def Run.coresWanted (r : Run) (x : Grid) : List Nat :=
  let size := 2 ^ x.pkt.gang
  ((r.gangs x false size).filter (fun b => r.gangFits x size b true)).flatMap (fun b => run b size)

/-- The most urgent class of the work that some cores hold saved. -/
def Run.savedClass (r : Run) (cs : List Nat) : Nat :=
  cs.foldl (fun a c => (lookD r.dev.sched.images c []).foldl (fun a e => match r.grid (r.gridOf e.2) with
    | some g => min a g.cls
    | none => a) a) 4

/-- Cores that hold saved work of a class that is not below a launch's: it returns there before the launch takes them (R339). -/
def Run.savedBefore (r : Run) (x : Grid) : List Nat :=
  (r.dev.sched.images.map (·.1)).filter (fun c => decide (r.savedClass [c] ≤ x.cls))

/-- Cores barred to a launch by those that come before it and have teams to place, or by saved work. -/
def Run.barred (r : Run) (id : Nat) (x : Grid) : List Nat :=
  let first := r.dev.sched.grids.filter (fun e => e.1 != id && e.2.part == x.part && decide (e.2.rank e.1 < x.rank id))
  let teams := first.filter (fun e => (e.2.st == .dispatching && decide (e.2.nextTeam < e.2.pkt.teams)) || r.eligible e.2)
  (teams.flatMap (fun e => r.coresWanted e.2)) ++
    ((first.filter (fun e => r.anyDue e.1)).flatMap (fun e => r.coresWanted e.2.oneWarp)) ++ r.savedBefore x

/-- Highest reading of a gang. -/
def Run.heat (r : Run) (b size : Nat) : Nat := ((run b size).map (fun c => (r.core c).temp)).foldl max 0

/-- The gang that takes the next team: the coolest that has room and is not barred, ties to the lowest. -/
def Run.home (r : Run) (id : Nat) (x : Grid) : Option Nat :=
  let size := 2 ^ x.pkt.gang
  let no := r.barred id x
  minBy (fun b => r.heat b size) ((r.gangs x false size).filter (fun b =>
    r.gangFits x size b false && !(run b size).any no.contains))

/-- The membership block of a launch: lane masks of warp barriers and warps of team barriers; none where it cannot be
read (R333). -/
def Run.barsBlock (r : Run) (g : Nat) (x : Grid) : Option (List Word × List (List Nat) × Run) :=
  if x.pkt.bars = 0 then some (barsDefault, x.pkt.tbarDefault, r)
  else match r.rowRead (r.spaceOfQueue x.part x.queue) (r.nodeOf g) x.pkt.bars 4112 with
    | .error _ => none
    | .ok (bs, r) =>
      let n := x.pkt.warps
      some ((pieces 4 4 bs).map (fun p => word (ofBytes p)),
        (pieces 256 16 (bs.drop 16)).map (fun p =>
          (List.range n).filter (fun w => (nthD p (w / 8) 0).getLsbD (w % 8))), r)

/-- The lowest free slot of a partition of a core. -/
def Run.freeSlotOf (r : Run) (c q : Nat) : Nat :=
  let used := r.slotsUsed c
  (((List.range 32).map (fun i => 4 * i + q)).find? (fun s => !used.contains s)).getD q

/-- A new warp takes its place; its registers lie in the backing tier where those of the partition's warps leave no room on-die
(R14, R32). -/
def Run.newWarp (r : Run) (wp : Warp) : Run :=
  let wp := { wp with spilled := !r.fitsOnDie wp }
  let (id, r) := r.freshUid
  { r with dev := { r.dev with warps := putM r.dev.warps id wp } }

/-- One warp takes its place. -/
def Run.placeWarp (r : Run) (x : Grid) (team b size : Nat) (privs : List Nat) (bars : List Word) (w : Nat) : Run :=
  let p := x.pkt
  let k := p.perMember size
  let c := b + w / k
  let slot := r.freeSlotOf c (w % k % 4)
  let schk := match r.queue (qkey x.part x.queue) with
    | some q => q.schkd
    | none => 0
  let priv := nthD privs (w / k) 0 + w % k * (32 * p.privBytes)
  let wp := Warp.start p schk c slot team w (p.liveLane w) priv bars
  r.newWarp wp

/-- The next team of a grid is dispatched to the gang at `b`. -/
def Run.placeTeam (r : Run) (g : Nat) (x : Grid) (b : Nat) : Run :=
  let bars := x.bars
  let tbar := x.tbars
  let size := 2 ^ x.pkt.gang
  let privs := (List.range size).map (fun i =>
    let (base, share) := r.share x (b + i)
    (freeRegion base share (x.pkt.memberPriv size i) (r.regions x (b + i))).getD 0)
  let (t, r) := r.freshUid
  let r := r.modSched (fun s => { s with teams := putM s.teams t (Team.start x.pkt g x.nextTeam (run b size) tbar) })
  let r := (List.range x.pkt.warps).foldl (fun r w => r.placeWarp x t b size privs bars w) r
  r.modGrid g (fun y => { y with
    nextTeam := y.nextTeam + 1
    st := if y.pkt.teams ≤ y.nextTeam + 1 then .running else y.st })

/-- Places `n` teams; none where one of them has no room. -/
def Run.placeTeams (r : Run) (g : Nat) : Nat → Option Run
  | 0 => some r
  | n + 1 =>
    match r.grid g with
    | none => none
    | some x =>
      match r.home g x with
      | some b => Run.placeTeams (r.placeTeam g x b) g n
      | none => none

/-- TEAM_PLACEMENT: the next team, or all of a cooperative grid. -/
def execTeamPlacement (grid : Nat) (s : State) : Host.Outcome State Fault Refusal :=
  act (fun r =>
    match r.grid grid with
    | none => r
    | some x =>
      if r.dev.sys.hold || x.st != .dispatching then r
      else (r.placeTeams grid (if x.pkt.coop then x.pkt.teams else 1)).getD r) s

/-- What happens to the launch that a decision chooses. -/
def Run.choose (r : Run) (g : Nat) (x : Grid) : Run :=
  let shed := x.pkt.shed && x.deadline != 0 && decide (x.deadline ≤ r.ptime + x.pkt.shedm)
  let finish' := fun (r : Run) (st : Nat) => r.colophon g st 0 0 0 (r.coloNode g)
  if shed then finish' r 1
  else if r.tooLarge x then finish' r 2
  else match r.barsBlock g x with
    | none => finish' r 3
    | some (bars, tbars, r) => r.modGrid g (fun y => { y with st := .dispatching, bars := bars, tbars := tbars })

/-- DISPATCH_DECISION: the first eligible launch of the order of R336. -/
def execDispatchDecision (part : Nat) (s : State) : Host.Outcome State Fault Refusal :=
  act (fun r =>
    let cand := r.dev.sched.grids.filter (fun e => e.2.part == part && r.eligible e.2)
    match minBy (fun e => e.2.rank e.1) cand with
    | some (g, x) => if r.dev.sys.hold then r else r.choose g x
    | none => r) s

/-- Up to `n` elements of a list, in an order by free choice. -/
def Run.draw {α : Type} (r : Run) (tag : Nat) : Nat → List α → List α
  | 0, _ => []
  | n + 1, xs =>
    let i := r.pick (tag + n) xs.length
    match xs[i]? with
    | some x => x :: Run.draw r tag n (xs.eraseIdx i)
    | none => []

/-- A relaunched thread (R228). -/
def Rec.lane (x : Rec) (l : Lane) : Lane :=
  { l with
    pc := x.resume
    p := x.pred
    v := (List.zip (List.range x.regs.length) x.regs).foldl (fun m e => putD m e.1 e.2 0) [] }

/-- The records of a gathering become a warp on core `c` (R228). -/
def Run.relaunch (r : Run) (g : Nat) (x : Grid) (c : Nat) (rs : List (Nat × Rec)) : Run :=
    let bars := x.bars
    let y := x.oneWarp
    let slot := r.freeSlotOf c 0
    let (base, share) := r.share x c
    let priv := (freeRegion base share (y.pkt.memberPriv 1 0) (r.regions x c)).getD 0
    let schk := match r.queue (qkey x.part x.queue) with
      | some q => q.schkd
      | none => 0
    let (t, r) := r.freshUid
    let team := { Team.start y.pkt g 0 [c] (List.replicate 16 []) with nthreads := rs.length }
    let r := r.modSched (fun s => { s with teams := putM s.teams t team })
    let w0 := Warp.start x.pkt schk c slot t 0 (fun l => decide (l < rs.length)) priv bars
    let w := { w0 with
      lanes := w0.lanes.mapIdx (fun l z => match rs[l]? with
        | some e => e.2.lane z
        | none => z)
      serial := some x.serial
      recs := (List.zip (List.range rs.length) rs).foldl (fun m e => putM m e.1 e.2.1) [] }
    let r := r.newWarp w
    let ks := rs.map (·.1)
    let r := r.modSched (fun s => { s with recs := mapM' s.recs (fun k z => if ks.contains k then { z with inUse := true } else z) })
    r.modGrid g (fun z => { z with serial := z.serial + 1 })

/-- GATHERING_DISPATCH: the gathering of a record that is due, by the rules of its launch's class. -/
def execGatheringDispatch (k core : Nat) (s : State) : Host.Outcome State Fault Refusal :=
  act (fun r =>
    match lookM r.dev.sched.recs k with
    | none => r
    | some x =>
      let xs := r.gathering x
      match r.grid x.grid with
      | none => r
      | some g =>
        let y := g.oneWarp
        if r.dev.sys.hold || (lookM xs k).isNone || !r.due xs || 128 ≤ core || !r.coreUsable g false core ||
            !r.memberFits y 1 core 0 false || (r.barred x.grid g).contains core then r
        else r.relaunch x.grid g core (r.draw (12 * 2 ^ 20) (min 32 xs.length) xs)) s

/-! ### Retirement (R39, R43, R244, R359) -/

/-- A 64-bit add at the home; one that fails translation is lost. -/
def Run.statAdd (r : Run) (g : Nat) (va n : Nat) : Run :=
  match r.xlate1 (r.spaceOfGrid g) .atomic va 8 with
  | none => r
  | some pa =>
    let (_, r) := r.homeAtomic (r.nodeOf g) pa 8 (fun o => (o + n) % 2 ^ 64)
    let gw := r.gwctOf pa
    r.modGrid g (fun x => { x with gwct := max x.gwct gw })

/-- A statistic of a draw is to be added on a remote page. -/
def Run.statsRemote (r : Run) (d : Draw) : Bool :=
  (List.range 7).any (fun i => r.remotePage (r.spaceOfGrid d.grid) .atomic ((d.stats + 8 * i) % 2 ^ 64))

/-- The statistics of a draw are added to its STATS block. -/
def Run.drawStats (r : Run) (d : Draw) : Run :=
  (List.zip (List.range 7) d.counters).foldl (fun r e => r.statAdd d.grid ((d.stats + 8 * e.1) % 2 ^ 64) e.2) r

/-- Every bin with triangles has been committed. -/
def Draw.done (d : Draw) : Bool := (List.range d.binCount).all (fun b => !d.binHas b || d.bins.contains b)

/-- The update-only partials that a grid has left. -/
def Run.flushGrid (r : Run) (g : Nat) : Run :=
  r.dev.ms.partials.foldl (fun r e =>
    let ks := (e.2.filter (fun p => p.2.grid == g)).map (·.1)
    r.flushCore e.1 ks.contains) r

/-- What a grid has sent is at its homes, its lists have ended, and the grids launched from it have retired (R39). -/
def Run.sentDone (r : Run) (g : Nat) : Bool :=
  (r.dev.sched.grids.filter (fun e => e.2.parent == some g)).all (fun e => !e.2.open) &&
    !r.dev.ms.stores.any (fun e => e.2.grid == g && !e.2.remote) &&
    !r.dev.ms.atomics.any (fun e => e.2.grid == g && !e.2.remote) && !r.dev.lists.any (fun e => e.2.running && e.2.grid == g)

/-- All of a grid's own work has ended: teams, records, draws, children, lists, and what it sent (R39, R43). -/
def Run.workDone (r : Run) (g : Nat) : Bool :=
  r.teamsDone g && !r.dev.sched.recs.any (fun e => e.2.grid == g) &&
    (r.dev.sched.draws.filter (fun e => e.2.grid == g)).all (fun e => e.2.done) && r.sentDone g

/-- GWCTs of a grid and its descendants. -/
def Run.familyGwct (r : Run) (g : Nat) : Nat :=
  (r.family g).foldl (fun a k => match r.grid k with
    | some x => max a x.gwct
    | none => a) 0

/-- The colophon of a retiring grid, with the status of one that has been stopped, and what it held. -/
def Run.retire (r : Run) (g : Nat) (x : Grid) : Run :=
  let (status, tcause, tepc, tlane) := x.fin.getD (0, 0, 0, 0)
  let r := r.colophon g status tcause tepc tlane (r.coloNode g)
  (r.modSched (fun s => { s with
    teams := filterM s.teams (fun _ t => t.grid != g)
    draws := filterM s.draws (fun _ d => d.grid != g) })).dropUnbounded g

/-- A grid may retire: its work is done, or it has been stopped and what it sent has arrived. -/
def Run.mayRetire (r : Run) (g : Nat) (x : Grid) : Bool := if x.st = .ending then r.sentDone g else r.workDone g

/-- A staged line of a node in which the stacked cache has an uncorrectable error of its own, not one that its home has (R359). -/
def Run.stageBad (r : Run) (g : Nat) : Option Nat :=
  (r.dev.ms.poison.find? (fun e => e.2 == 4 && e.1 / 2 ^ 45 == g + 1 && r.isStaged g (e.1 % 2 ^ 45 * 8) &&
    lookM r.dev.ms.poison (e.1 % 2 ^ 45) != some 4)).map (fun e => e.1 % 2 ^ 45 * 8 / 128 * 128)

/-- An uncorrectable error that the first phase of a commit reads in a staged line: a machine check of the node (R359). -/
def Run.commitCheck (r : Run) (g pa : Nat) : Run := r.machineCheck g 0xFF 0x10 0 4 pa

/-- GRID_RETIRE: the statistics of its draws, the commit of a contained node, and once DTIME has passed every GWCT of the
grid and its descendants, the colophon: also that of a grid which has been stopped (R39, R244, R334, R359). -/
def execGridRetire (grid : Nat) (s : State) : Host.Outcome State Fault Refusal :=
  act (fun r =>
    match r.grid grid with
    | none => r
    | some x =>
      if !r.mayRetire grid x then r
      else
        let r := r.flushGrid grid
        let ds := r.dev.sched.draws.filter (fun e => e.2.grid == grid)
        if !ds.isEmpty && ds.any (fun e => r.statsRemote e.2) && (r.nodeOf grid).isSome then (r.demoteNow grid).getD r
        else if !ds.isEmpty && r.commitPending grid then r
        else if !ds.isEmpty then
          (ds.foldl (fun r e => r.drawStats e.2) r).modSched (fun s => { s with draws := filterM s.draws (fun _ d => d.grid != grid) })
        else if r.nodeOf grid = some grid ∧ x.fin = none ∧ x.staged ≠ [] then
          (match r.stageBad grid with
            | some pa => r.commitCheck grid pa
            | none => r.commitNode grid)
        else if r.clk.dtime ≤ r.familyGwct grid then r
        else r.retire grid x) s

/-- An uncorrectable error that the first phase of the commit of a contained node finds in a staged line in the stacked cache
(R359). -/
def Run.commitError (r : Run) (g line : Nat) : Run :=
  let pa := line / 128 * 128
  if r.workDone g ∧ r.nodeOf g = some g ∧ r.isStaged g pa then (r.addPoison (some g) 4 [pa]).commitCheck g pa else r

/-! ### The hold (R379, R382) -/

/-- A slot entry of the handover structure (Table 26.5). -/
def Run.slotEntry (r : Run) (a : Option Nat) : Nat :=
  match a with
  | none => 0
  | some k =>
    let (cls, ridx) := match r.queue k with
      | some q => (q.cls, q.ridx)
      | none => (0, 0)
    2 ^ 63 + k / 1024 * 2 ^ 60 + cls * 2 ^ 58 + k % 1024 * 2 ^ 48 + ridx

/-- The handover structure at `h`: HOLDT, NSLOT and the slot entries, but in the bank of firmware memory that a control core runs from
(R377, entry 136). HOLDT is the DTIME of this writing; QUIET follows when the GWCT that the mapper keeps has passed.
[DESIGN CHOICE, unsafe] (entry 137) -/
def Run.handOver (r : Run) (h : Nat) : Run :=
  let put := fun (r : Run) (pa : Nat) (bs : List Byte) => if r.bankRuns (run pa bs.length) then r else r.homeWrite none pa bs
  let r := put r (h + 32) (bytesOf 12 (r.clk.dtime + r.dev.sched.act * 2 ^ 64))
  let r := put r (h + 64) (r.dev.sched.active.flatMap (fun a => bytesOf 8 (r.slotEntry a)))
  let gw := (List.range 4).foldl (fun a i => max a (r.gwctOf (h + 32 + 128 * i))) 1
  r.modSys (fun s => { s with handed := gw })

/-- MAPPER_QUIET (R379): once no entry is being read, the handover structure is written as a device-scope release, and QUIET is set when
that has completed. -/
def execMapperQuiet (s : State) : Host.Outcome State Fault Refusal :=
  act (fun r =>
    let reads := match r.dev.sys.reading with
      | some k => (r.unread k).isSome
      | none => false
    if !r.dev.sys.hold || r.dev.sys.quiet || reads then r
    else if r.dev.sys.hoptr ≠ 0 ∧ r.dev.sys.handed = 0 then r.handOver r.dev.sys.hoptr
    else if r.dev.sys.hoptr ≠ 0 ∧ r.clk.dtime ≤ r.dev.sys.handed then r
    else r.modSys (fun s => { s with quiet := true })) s

end Sys2Proof.Machine
end

