-- ==== Sys2Proof/Machine/Secure.lean ====
section
/-! DEFINITION. Images, the anti-rollback count, measurements, live update, the flash mailbox, SPDM and bring-up (chapters 25, 26). -/

namespace Sys2Proof.Machine

/-! ### Flash and fuses -/

/-- Byte `a` of flash; an unlisted byte is erased. -/
def Secure.flashB (s : Secure) (a : Nat) : Byte := lookD s.flash a 0xFF

def Secure.flashN (s : Secure) (a n : Nat) : List Byte := (List.range n).map (fun i => s.flashB (a + i))

def Secure.putFlash (s : Secure) (a : Nat) (b : Byte) : Secure := { s with flash := putD s.flash a b 0xFF }

/-- Writes bytes from `a` on. -/
def Secure.putFlashN (s : Secure) (a : Nat) : List Byte → Secure
  | [] => s
  | b :: bs => (s.putFlash a b).putFlashN (a + 1) bs

def slotBytes : Nat := 32 * 2 ^ 20

/-- The flash boot record (R367). -/
def bootRecord : Nat := 64 * 2 ^ 20

/-- The certificate area (R369). -/
def certArea : Nat := 64 * 2 ^ 20 + 4096

/-- The anti-rollback count (R367). -/
def Secure.count (s : Secure) : Nat := ((List.range 64).filter (fun i => s.fuseRow.getLsbD i)).length

/-- The fuses that are blown to raise the count by `n`: clear bits of the row, lowest first; which ones is not seen. -/
def clearBits (row : DWord) (n : Nat) : List Nat := ((List.range 64).filter (fun i => !row.getLsbD i)).take n

/-! ### Images (R365, R366) -/

/-- The header of the image in a slot (Table 25.1). -/
def Secure.header (s : Secure) (slot : Nat) : Nat := ofBytes (s.flashN (slot * slotBytes) 64)

def imgSvn (h : Nat) : Nat := fld h 464 8
def imgHsver (h : Nat) : Nat := fld h 448 16
def imgLen (h : Nat) : Nat := fld h 416 32
def imgEntry (h : Nat) : Nat := fld h 384 32

/-- The rules of Table 25.1 but for HSVER, which ARM checks. -/
def headerOk (h : Nat) : Bool :=
  fld h 480 32 == 0x53584657 && fld h 472 8 == 1 && decide (imgSvn h ≤ 64) && imgLen h % 32 == 0 &&
    decide (imgLen h ≤ 33538080) && imgEntry h % 32 == 0 && decide (imgEntry h < imgLen h) && fld h 0 384 == 0

/-- The image in a slot whose header keeps the rules. -/
def Secure.image (s : Secure) (slot : Nat) : Option Image :=
  let h := s.header slot
  let a := slot * slotBytes
  if headerOk h then
    some { header := s.flashN a 64
           body := s.flashN (a + 64) (imgLen h)
           sig := s.flashN (a + 64 + imgLen h) 16224
           key := s.flashN (a + 64 + imgLen h + 16224) 48 }
  else none

/-- The hash and the signature of R365. -/
def Secure.authentic (s : Secure) (i : Image) : Bool :=
  decide (sha256 i.key = s.keyHash) && slhDsaVerify i.key (i.header ++ i.body) i.sig

def Image.digest (i : Image) : List Byte := sha256 (i.header ++ i.body)

/-- The checks of R365 on a slot. -/
def Secure.verify (s : Secure) (slot : Nat) : Option Image :=
  match s.image slot with
  | none => none
  | some i => if s.authentic i ∧ s.count ≤ imgSvn (s.header slot) then some i else none

/-! ### Live update and the count (R368, R381) -/

/-- The ECALL of a control core that CC3 has taken and not answered has this code and operand. -/
def Run.called (r : Run) (cc code operand : Nat) : Bool :=
  decide (cc < 4) && (match (r.cc cc).asked with
    | some x => x.code == code && x.operand == operand
    | none => false)

/-- CC3 answers (R314). -/
def Run.replyCc (r : Run) (cc v : Nat) : Run := r.svcAnswerCc (cc * 2 ^ 32 + v)

/-- The lowest bank that holds no running image. -/
def Run.freeBank (r : Run) : Nat :=
  let used := (List.range 4).filterMap (fun k => if r.dev.sys.ccrun.getLsbD k then (r.cc k).bank else none)
  ((List.range 4).find? (fun b => !used.contains b)).getD 0

/-- Measurement 3 is extended with a digest (R371). -/
def Run.extend (r : Run) (d : List Byte) : Run :=
  r.modSec (fun s => { s with meas := modNth s.meas 2 (fun m => sha256 (m ++ d)) })

/-- ARM's reply, and the image when it is 0. -/
def Run.armReply (r : Run) (cc operand : Nat) : Nat × Option Image :=
  let slot := fld operand 0 1
  let target := fld operand 4 2
  if operand ≠ slot + target * 16 ∨ target = 3 ∨ target = cc ∨ r.dev.sys.ccrun.getLsbD target = true then (1, none)
  else if r.dev.sec.update.isSome then (2, none)
  else match r.dev.sec.image slot with
    | none => (3, none)
    | some i =>
      if !r.dev.sec.authentic i then (3, none)
      else if imgSvn (r.dev.sec.header slot) < r.dev.sec.count then (4, none)
      else if imgHsver (r.dev.sec.header slot) ≠ 3 then (5, none)
      else (0, some i)

/-- ARM (R381): CC3 answers the ECALL of control core `cc`, once it is free. -/
def execArm (cc operand : Nat) (s : State) : Host.Outcome State Fault Refusal :=
  act (fun r =>
    if !r.called cc 0x20 operand || r.dev.sec.blow.isSome then r
    else match r.armReply cc operand with
      | (n, none) => r.replyCc cc n
      | (n, some i) =>
        let slot := fld operand 0 1
        let b := r.freeBank
        let r := r.pokes (bankBase b) i.body
        let tvec := BitVec.ofNat 64 (bankBase b + imgEntry (r.dev.sec.header slot))
        let r := r.modCc (fld operand 4 2) (fun c => { c with tvec := tvec, bank := some b })
        let r := (r.extend i.digest).modSec (fun x => { x with update := some slot })
        r.replyCc cc n) s

/-- END (R381). -/
def execEndw (cc operand : Nat) (s : State) : Host.Outcome State Fault Refusal :=
  act (fun r =>
    if !r.called cc 0x21 operand || r.dev.sec.blow.isSome then r
    else match r.dev.sec.update with
      | none => r.replyCc cc 1
      | some slot =>
        if 2 ≤ operand then r.replyCc cc 1
        else
          let r := if operand = 1 then
              let old := r.dev.sec.flashB bootRecord
              (r.modSys (fun x => { x with fwslot := slot })).modSec (fun x =>
                x.putFlash bootRecord (BitVec.ofNat 8 (old.toNat / 2 * 2 + slot)))
            else r
          (r.modSec (fun x => { x with update := none })).replyCc cc 0) s

/-- RAISE's reply (R368): the operand is checked first, the update second. -/
def Run.raiseReply (r : Run) (operand : Nat) : Nat :=
  let svn := fld operand 0 7
  if operand ≠ svn ∨ 64 < svn ∨ svn ≠ imgSvn (r.dev.sec.header r.dev.sys.fwslot) then 1
  else if r.dev.sec.update.isSome then 2
  else 0

/-- RAISE (R368): where fuses must be blown, the reply comes with the last of them. -/
def execRaise (cc operand : Nat) (s : State) : Host.Outcome State Fault Refusal :=
  act (fun r =>
    if !r.called cc 0x22 operand ∨ cc = 3 ∨ r.dev.sec.blow.isSome then r
    else
      let n := r.raiseReply operand
      let bits := clearBits r.dev.sec.fuseRow (fld operand 0 7 - r.dev.sec.count)
      if n = 0 ∧ bits ≠ [] then r.modSec (fun x => { x with blow := some (cc, bits) }) else r.replyCc cc n) s

/-- The next fuse of a RAISE is blown: a reset before the last one leaves a count between the old and the new (R368). -/
def Run.blow (r : Run) : Run :=
  match r.dev.sec.blow with
  | some (cc, b :: bits) =>
    let r := r.modSec (fun x => { x with fuseRow := x.fuseRow ||| (1#64 <<< b), blow := if bits = [] then none else some (cc, bits) })
    if bits = [] then r.replyCc cc 0 else r
  | _ => r

/-! ### The flash mailbox (R376) -/

/-- It answers through function 0 in the recovery state, and a command while BUSY is ignored. -/
def Run.mailbox (r : Run) (fn : Nat) : Bool := r.dev.sec.recov && fn == 0 && !r.dev.sec.mbBusy

/-- A command starts: MBOFF and MBLEN as the host wrote them, BUSY, and the RESULT that it will end with. A flash device
that fails gives RESULT 3. -/
def Run.mbStart (r : Run) (off len result : Nat) (f : Secure → Secure) : Run :=
  r.modSec (fun s =>
    let bad := result = 0 ∧ s.hw = 8
    let s := if result = 0 then f s else s
    { s with mbOff := off, mbLen := len, mbBusy := true, mbNext := if bad then 3 else result,
             hw := if bad then 0 else s.hw })

/-- The byte that a failing flash device leaves: free. -/
def Run.flashJunk (r : Run) (a : Nat) : Byte := BitVec.ofNat 8 (r.pick a 256)

/-- Slot A, slot B and the boot block. -/
def mbRegion (off len : Nat) : Bool := decide (off + len ≤ bootRecord + 4096)

def eraseResult (off len : Nat) : Nat :=
  if off = bootRecord ∧ len = 4096 then 0
  else if off % 65536 ≠ 0 ∨ len % 65536 ≠ 0 then 2
  else if mbRegion off len then 0 else 1

def programResult (off len : Nat) : Nat :=
  if off % 256 ≠ 0 ∨ len % 256 ≠ 0 ∨ len = 0 ∨ 65536 < len then 2
  else if mbRegion off len then 0 else 1

def readResult (off len : Nat) : Nat :=
  if len = 0 ∨ 65536 < len ∨ Config.flashSize < off + len then 2 else 0

/-- A command on `len` bytes of flash from `off` on, through function 0 in the recovery state, while no other runs: its RESULT, and
what it does to the flash or the window, of which a device that fails leaves free bytes. -/
def Run.mbCommand (r : Run) (fn off len : Nat) (result : Nat → Nat → Nat)
    (f : Secure → Nat → Nat → (Nat → Byte → Byte) → Secure) : Run :=
  if !r.mailbox fn then r
  else
    let off := off % 2 ^ 32
    let len := len % 2 ^ 32
    let bad := r.dev.sec.hw == 8
    r.mbStart off len (result off len) (fun x => f x off len (fun a b => if bad then r.flashJunk a else b))

/-- ERASE: every byte becomes 0xFF. -/
def Run.mbErase (r : Run) (fn off len : Nat) : Run :=
  r.mbCommand fn off len eraseResult (fun x off len g => x.putFlashN off ((List.range len).map (fun i => g (off + i) 0xFF)))

/-- PROGRAM: the AND of the old bytes and the window's. -/
def Run.mbProgram (r : Run) (fn off len : Nat) : Run :=
  r.mbCommand fn off len programResult (fun x off len g =>
    x.putFlashN off ((List.range len).map (fun i => g (off + i) (x.flashB (off + i) &&& lookD x.window i 0))))

/-- READ: the bytes come into the window. -/
def Run.mbRead (r : Run) (fn off len : Nat) : Run :=
  r.mbCommand fn off len readResult (fun x off len g =>
    { x with window := (List.range len).foldl (fun m i => putD m i (g (off + i) (x.flashB (off + i))) 0) x.window })

def execMailboxErase (fn off len : Nat) (s : State) : Host.Outcome State Fault Refusal := act (fun r => r.mbErase fn off len) s

def execMailboxProgram (fn off len : Nat) (s : State) : Host.Outcome State Fault Refusal := act (fun r => r.mbProgram fn off len) s

def execMailboxRead (fn off len : Nat) (s : State) : Host.Outcome State Fault Refusal := act (fun r => r.mbRead fn off len) s

/-- A write of MBCMD: an unknown command ends with RESULT 4 (Table 25.6). -/
def Run.mbCmdWrite (r : Run) (fn v : Nat) : Run :=
  let off := r.dev.sec.mbOff
  let len := r.dev.sec.mbLen
  match v with
  | 1 => r.mbErase fn off len
  | 2 => r.mbProgram fn off len
  | 3 => r.mbRead fn off len
  | _ => if r.mailbox fn then r.mbStart off len 4 id else r

/-- RESULT is written, then BUSY cleared. -/
def execMailboxCommandDone (s : State) : Host.Outcome State Fault Refusal :=
  act (fun r => if r.dev.sec.mbBusy then r.modSec (fun x => { x with mbResult := x.mbNext, mbBusy := false }) else r) s

/-- The host writes the window: outside the recovery state, through another function than 0 (R388), and past its 64 KiB, nothing
happens. -/
def Run.windowWrite (r : Run) (fn off : Nat) (bs : List Byte) : Run :=
  if r.dev.sec.recov && fn == 0 then
    r.modSec (fun s => { s with window := bs.zipIdx.foldl (fun m e =>
      if off + e.2 < 65536 then putD m (off + e.2) e.1 0 else m) s.window })
  else r

/-- MBSTAT as it reads (Table 25.6). -/
def Secure.mbstat (s : Secure) : Nat := if s.recov then b1 s.mbBusy 31 + s.mbResult % 256 else 0

/-! ### SPDM (R370 to R372) -/

/-- The certificate chain of slot 0: its first two bytes are its length. -/
def Secure.chain (s : Secure) : List Byte := s.flashN certArea (ofBytes (s.flashN certArea 2))

/-- SK.seed, SK.prf and PK.seed for 1, 2 and 3 (R369). -/
def Secure.seedOf (s : Secure) (i : Nat) : List Byte := (sha256 (s.seed ++ [BitVec.ofNat 8 i])).take 24

/-- Free bytes that a response needs: the randomness of a signature (FIPS 205) and a nonce of the responder. -/
def Run.random (r : Run) (tag n : Nat) : List Byte := (List.range n).map (fun i => BitVec.ofNat 8 (r.pick (tag + i) 256))

/-- What SPDM 1.3 signs for a transcript: four times its prefix, the context that names the use after zeros up to 100 bytes, and the
digest of the transcript. [PRESUMED: DSP0274 1.3] (entry 62) -/
def spdmSigned (context : String) (transcript : List Byte) : List Byte :=
  let ascii := fun (s : String) => s.toList.map (fun c => BitVec.ofNat 8 c.toNat)
  let lead := (List.replicate 4 (ascii "dmtf-spdm-v1.3.*")).flatten
  lead ++ List.replicate (36 - context.length) 0 ++ ascii context ++ sha256 transcript

/-- The signature of the identity key over a transcript (R369). -/
def Run.sign (r : Run) (context : String) (transcript : List Byte) : List Byte :=
  let s := r.dev.sec
  slhDsaSign (s.seedOf 1) (s.seedOf 2) (s.seedOf 3) (r.random 0 24) (spdmSigned context transcript)

/-- A measurement as it is reported: 2 and 3 read zero in the recovery state (R375). -/
def Secure.measured (s : Secure) (i : Nat) : List Byte :=
  if s.recov ∧ (i = 2 ∨ i = 3) then List.replicate 32 0 else nthD s.meas (i - 1) []

/-- A message of SPDM: its version, 1.0 for VERSION and its request and 1.3 for all others, its code, its parameters and its body. -/
def spdmMsg (code p1 p2 : Nat) (body : List Byte) : List Byte :=
  BitVec.ofNat 8 (if code = 0x04 ∨ code = 0x84 then 0x10 else 0x13) :: BitVec.ofNat 8 code :: BitVec.ofNat 8 p1 :: BitVec.ofNat 8 p2 :: body

/-- `n` bytes of a request's field. -/
def spdmField (n : Nat) (x : List Nat) : List Byte := toBytes ((x ++ List.replicate n 0).take n)

/-- `n` bytes of the request that the host has written, from its byte `a` on. -/
def Secure.asked (s : Secure) (a n : Nat) : List Byte := ((s.doe.drop a) ++ List.replicate n 0).take n

/-- The summary of measurements that a CHALLENGE asks for, in its second parameter. -/
def Secure.askedKind (s : Secure) : Nat := ofBytes (s.asked 3 1)

/-- ERROR: UnexpectedRequest (4) for what the standard's order forbids, InvalidRequest (1) for a slot or index that does not exist,
UnsupportedRequest (7) with the code of the request. -/
def Run.spdmError (r : Run) (code data : Nat) : Run := r.emit (.spdm (spdmMsg 0x7F code data []))

/-- A response, and what becomes of the transcripts and the order of requests: a request that comes before another that must precede
it, or after the connection has passed it, is an error. [PRESUMED: DSP0274 1.3] (entry 62) -/
def Run.spdm (r : Run) (first last : Nat) (msg : List Byte) (f : Secure → Secure) : Run :=
  if r.dev.sec.spdm < first ∨ last < r.dev.sec.spdm then r.spdmError 4 0 else (r.emit (.spdm msg)).modSec f

/-- A request and its response enter the transcript of versions, capabilities and algorithms; measurements without a signature leave
theirs. -/
def Secure.talk (s : Secure) (next : Nat) (bs : List Byte) : Secure := { s with spdm := next, talkA := s.talkA ++ bs, talkB := [], talkM := [] }

/-- They enter the transcript of digests and certificates. -/
def Secure.show (s : Secure) (bs : List Byte) : Secure := { s with talkB := s.talkB ++ bs, talkM := [] }

/-- GET_VERSION begins anew: the one version is 1.3. -/
def execGetVersion (s : State) : Host.Outcome State Fault Refusal :=
  act (fun r =>
    let msg := spdmMsg 0x04 0 0 [0, 1, 0x00, 0x13]
    r.spdm 0 3 msg (fun x => { x with talkA := [] }.talk 1 (spdmMsg 0x84 0 0 [] ++ msg))) s

/-- Certificates, challenge, measurements with signature. -/
def execGetCapabilities (s : State) : Host.Outcome State Fault Refusal :=
  act (fun r =>
    let msg := spdmMsg 0x61 0 0 ([0, BitVec.ofNat 8 Config.spdmExponent, 0, 0] ++ bytesOf 4 0x16 ++ bytesOf 4 Config.spdmTransfer ++
      bytesOf 4 Config.spdmMessage)
    r.spdm 1 1 msg (fun x => x.talk 2 (spdmMsg 0xE1 0 0 (x.doe.drop 4) ++ msg))) s

/-- ALGORITHMS, in the form of SPDM 1.3: no structure tables; the length; DMTF measurements; no other parameters; measurement hash
SHA-256; no base asymmetric algorithm; base hash SHA-256; 12 reserved bytes; one extended asymmetric algorithm and no extended hash; two
reserved bytes; then SLH-DSA-SHA2-192s under Farimon's registry entry (Table 25.2). [PRESUMED, unsafe] (entry 108) -/
def algorithms : List Byte :=
  spdmMsg 0x63 0 0 (bytesOf 2 40 ++ [1, 0] ++ bytesOf 4 2 ++ bytesOf 4 0 ++ bytesOf 4 1 ++ List.replicate 12 0 ++ [1, 0, 0, 0] ++
    bytesOf 4 Config.spdmAlgorithm)

/-- NEGOTIATE_ALGORITHMS: SHA-256 is the base hash; the signature is offered as an extended asymmetric algorithm. -/
def execNegotiateAlgorithms (s : State) : Host.Outcome State Fault Refusal :=
  act (fun r => r.spdm 2 2 algorithms (fun x => x.talk 3 (spdmMsg 0xE3 0 0 (x.doe.drop 4) ++ algorithms))) s

/-- DIGESTS: slot 0 is the one that is supported, and is provisioned. -/
def execGetDigests (s : State) : Host.Outcome State Fault Refusal :=
  act (fun r =>
    let msg := spdmMsg 0x01 1 1 (sha256 r.dev.sec.chain)
    r.spdm 3 3 msg (fun x => x.show (spdmMsg 0x81 0 0 [] ++ msg))) s

/-- CERTIFICATE: a portion of the chain, its length and what remains. -/
def execGetCertificate (slot off len : Nat) (s : State) : Host.Outcome State Fault Refusal :=
  act (fun r =>
    let chain := r.dev.sec.chain
    if r.dev.sec.spdm < 3 then r.spdmError 4 0
    else if slot ≠ 0 ∨ chain.length ≤ off then r.spdmError 1 0
    else
      let part := (chain.drop off).take len
      let msg := spdmMsg 0x02 0 0 (bytesOf 2 part.length ++ bytesOf 2 (chain.length - off - part.length) ++ part)
      r.spdm 3 3 msg (fun x => x.show (spdmMsg 0x82 0 0 (bytesOf 2 off ++ bytesOf 2 len) ++ msg))) s

/-- A measurement as a DMTF block of SPDM 1.3: its index, the DMTF specification, the size, and a digest of a value type: 0 an
immutable ROM, 1 mutable firmware, 2 a hardware configuration. [PRESUMED, unsafe] (entry 108) -/
def Secure.dmtf (s : Secure) (i : Nat) : List Byte :=
  let kind := if i = 1 then 0 else if i = 4 then 2 else 1
  let v := s.measured i
  [BitVec.ofNat 8 i, 1] ++ bytesOf 2 (v.length + 3) ++ [kind] ++ bytesOf 2 v.length ++ v

/-- The summary of measurements of a kind: none (0), those of the trusted computing base, the ROM and the firmware (1), all (0xFF).
[PRESUMED, unsafe] (entry 139) -/
def Secure.summary (s : Secure) (kind : Nat) : List Byte :=
  if kind = 0 then [] else sha256 ((if kind = 1 then [1, 2, 3] else [1, 2, 3, 4]).flatMap s.dmtf)

/-- CHALLENGE_AUTH: the digest of the chain, a nonce of the responder, the summary, no opaque data, the requester's context, and the
signature over every message that the challenge covers. -/
def execChallenge (slot : Nat) (nonce : List Nat) (s : State) : Host.Outcome State Fault Refusal :=
  act (fun r =>
    let x := r.dev.sec
    let kind := x.askedKind
    let context := x.asked 36 8
    if x.spdm < 3 then r.spdmError 4 0
    else if slot ≠ 0 ∨ (kind ≠ 0 ∧ kind ≠ 1 ∧ kind ≠ 0xFF) then r.spdmError 1 0
    else
      let ask := spdmMsg 0x83 0 kind (spdmField 32 nonce ++ context)
      let msg := spdmMsg 0x03 0 1 (sha256 x.chain ++ r.random 24 32 ++ x.summary kind ++ bytesOf 2 0 ++ context)
      let sig := r.sign "responder-challenge_auth signing" (x.talkA ++ x.talkB ++ ask ++ msg)
      r.spdm 3 3 (msg ++ sig) (fun x => { x with talkB := [], talkM := [] })) s

/-- The record of measurements that an operation asks for: none for 0, which asks for their number, all for 0xFF. -/
def measuredBy (index : Nat) : List Nat := if index = 0 then [] else if index = 0xFF then [1, 2, 3, 4] else [index]

/-- MEASUREMENTS: the number of measurements for operation 0; the number of blocks, their length, and the blocks; a nonce of the
responder, no opaque data and the requester's context; the signature when the request asks, over every such message since the last. -/
def execGetMeasurements (index : Nat) (signed : Bool) (nonce : List Nat) (s : State) : Host.Outcome State Fault Refusal :=
  act (fun r =>
    let x := r.dev.sec
    let context := x.asked (if signed then 37 else 4) 8
    if x.spdm < 3 then r.spdmError 4 0
    else if 4 < index ∧ index ≠ 0xFF then r.spdmError 1 0
    else
      let ids := measuredBy index
      let blocks := ids.flatMap x.dmtf
      let ask := spdmMsg 0xE0 (b2n signed) index ((if signed then spdmField 32 nonce ++ [0] else []) ++ context)
      let msg := spdmMsg 0x60 (if index = 0 then 4 else 0) 0 ([BitVec.ofNat 8 ids.length] ++ bytesOf 3 blocks.length ++ blocks ++
        r.random 24 32 ++ bytesOf 2 0 ++ context)
      let talk := x.talkM ++ ask ++ msg
      let sig := if signed then r.sign "responder-measurements signing" (x.talkA ++ talk) else []
      r.spdm 3 3 (msg ++ sig) (fun x => { x with talkM := if signed then [] else talk })) s

/-- Request codes of the requests that Table 25.2 lists. -/
def spdmListed : List Nat := [0x84, 0xE1, 0xE3, 0x81, 0x82, 0x83, 0xE0]

/-- Any other request: ERROR with UnsupportedRequest (R370). -/
def execUnsupportedSpdmRequest (code : Nat) (s : State) : Host.Outcome State Fault Refusal :=
  act (fun r => if spdmListed.contains code then r else (r.modSec (fun x => { x with talkM := [] })).spdmError 7 code) s

/-! ### Bring-up (R365, R373 to R375) -/

/-- The fuses and the flash outlive power. -/
def Secure.kept (s : Secure) : Secure :=
  { Dev.reset.sec with keyHash := s.keyHash, seed := s.seed, fuseRow := s.fuseRow, laneFuse := s.laneFuse,
                       rowFuse := s.rowFuse, flash := s.flash, hw := s.hw }

/-- A device at reset: wire faults, fuses and flash are as they were. -/
def Dev.restart (d : Dev) : Dev :=
  { Dev.reset with
    nonce := d.nonce
    outs := d.outs
    cores := (filterM d.cores (fun _ c => c.offline)).map (fun e => (e.1, { Core.empty with offline := true }))
    rel := { Dev.reset.rel with remapped := d.rel.remapped }
    sec := d.sec.kept }

/-- Measurement 4's input (Table 25.3). -/
def Secure.parts (s : Secure) (fwslot : Nat) : List Byte :=
  let lanes := (List.range 512).map (fun x => BitVec.ofNat 8 (lookD s.laneFuse x 32))
  bytesOf 4 s.count ++ bytesOf 4 fwslot ++ bytesOf 4 lanes.length ++ bytesOf 4 s.rowFuse.length ++ lanes ++ s.rowFuse

/-- The recovery state (R375): the stages after the failed one are skipped, but for stage 6. -/
def Run.recover (r : Run) (stage : Nat) : Run :=
  r.modSec (fun s => { s with fail := stage, recov := true, stage := 6, hw := if s.hw = stage then 0 else s.hw })

/-- Measurement 4 of a slot that runs. -/
def Run.measure4 (r : Run) (fwslot : Nat) : Run := r.modSec (fun s => { s with meas := setNth s.meas 3 (sha256 (s.parts fwslot)) })

/-- Stage 1: the fuse map becomes the lane map. -/
def Run.fuseLoad (r : Run) : Run := (r.modSched (fun s => { s with laneMap := r.dev.sec.laneFuse })).measure4 0

/-- Stage 2 ends with an image: it lies in bank 0, FWSLOT names its slot, and CC3 jumps to its entry in machine mode. -/
def Run.bootImage (r : Run) (slot : Nat) (i : Image) : Run :=
  let pc := entryPc (BitVec.ofNat 64 (bankBase 0 + imgEntry (r.dev.sec.header slot)))
  let r := (r.pokes (bankBase 0) i.body).modSys (fun s => { s with fwslot := slot })
  let r := r.modCc 3 (fun c => { c with pc := pc, mode := .machine, bank := some 0 })
  (r.modSec (fun s => { s with slot := slot, meas := setNth (setNth s.meas 1 i.digest) 2 i.digest })).measure4 slot

/-- The slot that stage 2 tries next: the one that the boot record names, then the other (R367). -/
def Secure.nextSlot (s : Secure) : Option Nat :=
  let a := (s.flashB bootRecord).toNat % 2
  let out := fun (k : Nat) => if k = 0 then s.arej else s.brej
  if !out a then some a else if !out (1 - a) then some (1 - a) else none

/-- The stage is over, and the next one entered. -/
def Run.stageTo (r : Run) (n : Nat) : Run := r.modSec (fun s => { s with stage := n, bootAt := if n = 5 then r.clk.dtime else s.bootAt })

/-- Stage 2 verifies a slot: the image runs, or the slot is rejected; CNT is filled when the stage ends (R367, R374). -/
def Run.trySlot (r : Run) (slot : Nat) : Run :=
  let ends := fun (r : Run) => r.modSec (fun s => { s with cnt := s.count })
  match r.dev.sec.verify slot with
  | some i => (ends (r.bootImage slot i)).stageTo 3
  | none =>
    let r := r.modSec (fun s => if slot = 0 then { s with arej := true } else { s with brej := true })
    if r.dev.sec.nextSlot.isNone then (ends r).recover 2 else r

/-- Stage 7: a control core that does not run starts, at the entry of the image that the ROM has started: the manual names no other
firmware for it. [DESIGN CHOICE, unsafe] (entry 140) -/
def Run.ccBoot (r : Run) (k : Nat) : Run :=
  if r.dev.sys.ccrun.getLsbD k then r
  else
    let tvec := BitVec.ofNat 64 (bankBase 0 + imgEntry (r.dev.sec.header r.dev.sec.slot))
    (r.modCc k (fun c => { c with tvec := tvec, bank := some 0 })).ccStart k

/-- Bring-up takes its next step: it ends the stage it is in, or tries a slot (R373). -/
def Run.bringUp (r : Run) : Run :=
  let s := r.dev.sec
  let lock := r.dev.ptp.st == .locked
  if s.recov then r
  else match s.stage with
  | 0 => r.stageTo 1
  | 1 => if s.hw = 1 then (r.measure4 0).recover 1 else r.fuseLoad.stageTo 2
  | 2 =>
    match s.nextSlot with
    | some slot => r.trySlot slot
    | none => r
  | 3 => if s.hw = 3 then r.recover 3 else r.stageTo 4
  | 4 => if s.hw = 4 ∨ r.dev.cores.any (fun e => e.2.offline) then r.recover 4 else r.stageTo 5
  | 5 =>
    if lock = true ∨ s.bootAt + 2000000000 ≤ r.clk.dtime then (r.modSec (fun s => { s with plk := lock })).stageTo 6
    else r
  | 6 => ((List.range 3).foldl Run.ccBoot r).stageTo 7
  | _ => r

/-- The boot status word (Table 25.5). -/
def Secure.bootStatus (s : Secure) : Nat :=
  s.stage % 16 * 2 ^ 28 + s.fail % 16 * 2 ^ 24 + b1 s.recov 23 + s.slot % 2 * 2 ^ 22 + b1 s.arej 21 + b1 s.brej 20 +
    b1 s.plk 19 + s.cnt % 128 * 2 ^ 12

/-- The device powered from nothing, or reset while powered, at the start of stage 1: DTIME never steps while power lasts (R263), and the
token pools are full at this moment (R341). -/
def State.booted (s : State) : State :=
  let clk : Clock := if s.dev.on then { s.clk with cycles := 0 } else { dtime := 0, cycles := 0, sub := 0 }
  let d := s.dev.restart
  let d := { d with
    power := { d.power with refilled := [clk.dtime / 1000, clk.dtime / 1000] }
    sec := { d.sec with stage := 1 } }
  { clk := clk, mem := [], agenda := s.agenda, cur := Issue.idle, dev := { d with nonce := d.nonce + 1 } }

/-- RESET (R373): nothing while the module sleeps, or is stopped by a thermal trip (R345). -/
def execReset (s : State) : Host.Outcome State Fault Refusal :=
  if s.dev.asleep ∨ s.dev.power.trip then .next s else .next s.booted

/-- A module without power. -/
def State.unpowered (s : State) (asleep : Bool) : State :=
  { clk := { dtime := 0, cycles := 0, sub := 0 }
    mem := []
    agenda := s.agenda
    cur := Issue.idle
    dev := { s.dev.restart with on := false, asleep := asleep } }

/-- HOST_WAKE (R18): a sleeping module is powered and comes up. -/
def execHostWake (s : State) : Host.Outcome State Fault Refusal :=
  if s.dev.asleep then .next s.booted else .next s

/-- DEEPEST_SLEEP_ENTRY (R18): no domain stays powered. -/
def execDeepestSleepEntry (s : State) : Host.Outcome State Fault Refusal :=
  if s.dev.on then .next (s.unpowered true) else .next s

/-- POWER_REMOVAL: all state is lost, and with it a thermal trip (R345). -/
def execPowerRemoval (s : State) : Host.Outcome State Fault Refusal := .next (s.unpowered false)

/-! ### What the device serves -/

/-- The device has power and answers on its PCIe function 0: it has enumerated (Table 25.4). [DEDUCED] (entry 140) -/
def State.enumerated (s : State) : Bool := s.dev.on && (s.dev.sec.recov || decide (6 ≤ s.dev.sec.stage))

/-- It runs: its queues are enabled (Table 25.4). -/
def State.running (s : State) : Bool := s.dev.on && !s.dev.sec.recov && s.dev.sec.stage == 7

/-- Whether an event reaches a device in this condition (R18, R345, R373, R375). -/
def State.serves (s : State) (i : Instr) : Bool :=
  match i with
  | .reset => true
  | .hostWake => true
  | .powerRemoval => true
  | .deepestSleepEntry => true
  | .mailboxErase .. => s.dev.on
  | .mailboxProgram .. => s.dev.on
  | .mailboxRead .. => s.dev.on
  | .mailboxCommandDone => s.dev.on
  | .getVersion => s.enumerated
  | .getCapabilities => s.enumerated
  | .negotiateAlgorithms => s.enumerated
  | .getDigests => s.enumerated
  | .getCertificate .. => s.enumerated
  | .challenge .. => s.enumerated
  | .getMeasurements .. => s.enumerated
  | .unsupportedSpdmRequest _ => s.enumerated
  | .queueNotify .. => s.running
  | .activeSlotClaim .. => s.running
  | .ringEntryRead .. => s.running
  | .dispatchDecision _ => s.running
  | .teamPlacement _ => s.running
  | .gatheringDispatch .. => s.running
  | _ => s.dev.on && !s.dev.sec.recov

end Sys2Proof.Machine
end

