-- ==== Sys2Proof/Machine/Strike.lean ====
section
/-! DEFINITION. Physical errors that strike an instruction as it issues: registers, buses, shadow units, datapaths without a check (R352 to R355). -/

namespace Sys2Proof

open Sys2Proof.Machine

/-- Where an instruction delivers a rounded result that a shadow unit watches: the register, its format, and whether it is
packed (R355). -/
def Instr.shadow (i : Instr) : Option (Nat × Fmt × Bool) :=
  let wide := fun (o : LOp FExt) => (o.x.map (fun x => x.ft == 1)).getD false
  let pk := fun (o : LOp FExt) => if (o.x.map (fun x => x.bf)).getD false then Fmt.bf16 else Fmt.f16
  match i with
  | .fadd o => some (o.d, Fmt.f32, false)
  | .fmul o => some (o.d, Fmt.f32, false)
  | .ffma o => some (o.d, Fmt.f32, false)
  | .fmin o => some (o.d, if wide o then Fmt.f64 else Fmt.f32, false)
  | .fmax o => some (o.d, if wide o then Fmt.f64 else Fmt.f32, false)
  | .func o => some (o.d, if (o.x.map (fun x => x.1)).getD false then Fmt.f16 else Fmt.f32, false)
  | .flerp o => some (o.d, Fmt.f32, false)
  | .pkadd o => some (o.d, pk o, true)
  | .pkmul o => some (o.d, pk o, true)
  | .pkfma o => some (o.d, pk o, true)
  | .pkmnmx o => some (o.d, pk o, true)
  | .dadd o => some (o.d, Fmt.f64, false)
  | .dmul o => some (o.d, Fmt.f64, false)
  | .dfma o => some (o.d, Fmt.f64, false)
  | .redw o => if 8 ≤ o.op then some (o.d, Fmt.f32, false) else none
  | .cvt _ d _ f =>
    match (cvtOf f).df with
    | 0 => some (d, Fmt.f32, false)
    | 1 => some (d, Fmt.f16, false)
    | 2 => some (d, Fmt.bf16, false)
    | 3 => some (d, Fmt.e4, false)
    | 4 => some (d, Fmt.e5, false)
    | 5 => some (d, Fmt.f64, false)
    | _ => none
  | _ => none

/-- Integer ALUs and the network between lanes, whose results have no check (Table 24.2). -/
def Instr.gapUnit (i : Instr) : Bool :=
  match i with
  | .iadd _ => true
  | .isub _ => true
  | .imul _ => true
  | .imad _ => true
  | .imin _ => true
  | .imax _ => true
  | .and _ => true
  | .or _ => true
  | .xor _ => true
  | .logt _ => true
  | .shl _ => true
  | .shr _ => true
  | .sar _ => true
  | .shf _ => true
  | .bfe _ => true
  | .bfi _ => true
  | .popc _ => true
  | .clz _ => true
  | .ctz _ => true
  | .brev _ => true
  | .iabs _ => true
  | .ineg _ => true
  | .isetp _ => true
  | .sel _ => true
  | .shfl _ => true
  | .vote _ => true
  | .redw _ => true
  | .matchw _ => true
  | .uadd _ => true
  | .usub _ => true
  | .umul _ => true
  | .umulh _ _ => true
  | .uand _ => true
  | .uor _ => true
  | .uxor _ => true
  | .ushl _ => true
  | .ushr _ => true
  | .usar _ => true
  | .umin _ => true
  | .umax _ => true
  | .uminu _ => true
  | .umaxu _ => true
  | .usetp _ => true
  | .usel _ _ => true
  | .ubfe _ _ => true
  | .ubit _ _ _ _ _ => true
  | _ => false

/-- Where a result that no check covers is delivered: a register, either word of a pair, a predicate, a uniform register. -/
def Instr.gapOut (i : Instr) : List Res := if i.gapUnit then i.use.w else []

/-- The registers from which an effective address is formed, whose generation has no check, but for those that the instruction reads
as data too (Table 24.2). -/
def Instr.gapAddr (i : Instr) : List Res :=
  let no := fun (l data : List Res) => l.filter (fun x => !data.contains x)
  let at' := fun (o : AtomOp) => vk (if o.team then 1 else 2) o.a
  match i with
  | .ld o => addrUse o.space o.a o.nr o.sk
  | .st o => no (addrUse o.space o.a o.nr o.sk) (vk (tyRegs o.ty) o.d)
  | .ldp o => addrUse o.space o.a o.nr o.sk ++ [.v o.vb]
  | .atom o => no (at' o) (vk (atomRegs o.ty) o.b)
  | .red o => no (at' o) (vk (atomRegs o.ty) o.b)
  | .cas o => no (at' o) (vk (2 ^ o.op) o.b ++ vk (2 ^ o.op) o.c)
  | .uld o => if o.cst then sk 1 o.a else sk 2 o.a
  | .ust o => no (sk 2 o.a) (sk (2 ^ o.width) o.d)
  | _ => []

end Sys2Proof

namespace Sys2Proof.Machine

/-! ### Shadow units (R355) -/

/-- The pattern of a format that lies in a part of a lane's register. -/
def Lane.pattern (l : Lane) (d : Nat) (t : Fmt) (part : Nat) : Nat :=
  let lo := (lookD l.v d 0).toNat
  if t.w = 64 then cat (lookD l.v (d + 1) 0) (lookD l.v d 0) else lo / 2 ^ (t.w * part) % 2 ^ t.w

/-- The instruction's guard lets lane `k` of its split take part. -/
def Warp.takesPart (wp : Warp) (i : Instr) (k : Nat) : Bool :=
  if i.isLane then i.guard == 15 || (nthD wp.lanes k Lane.absent).p.getLsbD i.guard else i.guard == 7 || wp.g.getLsbD i.guard

/-- A split has only waited: its instruction will be tried again. -/
def Warp.waited (wp : Warp) (ls : List Nat) : Bool :=
  match (nthD wp.lanes (ls.headD 0) Lane.absent).wait with
  | .ready _ => true
  | _ => false

/-- The check of a lane's delivered result fails: of one half of a packed result, and of a conversion in the part that it
writes. -/
def Warp.shadowFails (wp : Warp) (i : Instr) (lane half : Nat) (sign : Bool) (q : Nat) : Bool :=
  let part := match i with
    | .cvt _ _ _ f => (cvtOf f).dp
    | _ => 0
  match i.shadow with
  | some (d, t, packed) => Machine.shadowFails t ((nthD wp.lanes lane Lane.absent).pattern d t (if packed then half else part)) sign q
  | none => false

/-- A word of compositing slot `j` of a bank: RAD or T. -/
def State.slotWordAt (t : State) (wp : Warp) (bank j k : Nat) : Nat :=
  ofBytes (((Run.of t).core wp.core).bankBytes (bankKey wp.team bank) 4 (128 * j + 4 * k))

/-- What the compositing unit delivers for a CADD of lane `k / 8`: RAD and T where a term has drained, and the term as it is
converted where it is not discarded. -/
def State.caddResult (t t' : State) (wp x : Warp) (d a b c k : Nat) : Option (Fmt × Nat) :=
  let was := nthD wp.lanes (k / 8) Lane.absent
  let v := fun (n : Nat) => lookD was.v n 0
  let w := (v b).toNat
  let st := (lookD (nthD x.lanes (k / 8) Lane.absent).v d 0).toNat
  let m := toTerm (v a) ((List.range 3).map (fun n => v (a + 1 + n))) (v c)
  if k % 8 < 4 then (if st = 1 ∨ st = 3 then some (Fmt.f32, t'.slotWordAt wp (fld w 8 5) (fld w 0 8) (k % 8)) else none)
  else if st = 2 then none
  else some (Fmt.f16, nthD (m.li ++ [m.ti]) (k % 8 - 4) 0)

/-- A slot of the state before the instruction holds terms that it drains. -/
def State.drains (t : State) (wp : Warp) (bank j : Nat) : Bool :=
  !(CSlot.parse (ofBytes (((Run.of t).core wp.core).bankBytes (bankKey wp.team bank) 128 (128 * j)))).buf.isEmpty

/-- Result number `k` of the unit that works for the instruction as it issues, with its format: the texture filter's in registers, and
the compositing unit's in registers and slots. What a unit rounds on the way to a result it does not deliver.
[DEDUCED, unsafe] (entry 129) -/
def State.unitResult (t t' : State) (i : Instr) (wp x : Warp) (k : Nat) : Option (Fmt × Nat) :=
  let reg := fun (l n : Nat) => if wp.takesPart i l then some (Fmt.f32, (lookD (nthD x.lanes l Lane.absent).v n 0).toNat) else none
  match i with
  | .sample _ d _ _ => reg (k / 4) (d + k % 4)
  | .crpl _ d _ _ => if k % 8 < 7 then reg (k / 8) (d + k % 8) else none
  | .cadd _ d a b c => if wp.takesPart i (k / 8) then t.caddResult t' wp x d a b c k else none
  | .crd _ d b =>
    let w := (lookD (nthD wp.lanes (k / 4) Lane.absent).v b 0).toNat
    if t.drains wp (fld w 8 5) (fld w 0 8) then reg (k / 4) (d + k % 4) else none
  | .cflush _ _ a =>
    let bank := (wp.getS a).toNat
    if k < 1024 ∧ wp.takesPart i 0 ∧ t.drains wp bank (k / 4) then some (Fmt.f32, t'.slotWordAt wp bank (k / 4) (k % 4)) else none
  | _ => none

/-! ### Datapaths without a check (R354) -/

/-- A register or predicate of a lane with the bits of a mask changed. -/
def Lane.bend (l : Lane) (x : Res) (mask : Word) : Lane :=
  match x with
  | .v n => l.setV n (lookD l.v n 0 ^^^ mask)
  | .p n => l.setP n (l.p.getLsbD n != mask.getLsbD 0)
  | _ => l

/-- The same, or a register or predicate of the warp. -/
def Warp.bend (wp : Warp) (k : Nat) (x : Res) (mask : Word) : Warp :=
  match x with
  | .s n => wp.setS n (wp.getS n ^^^ mask)
  | .g n => wp.setG n (wp.g.getLsbD n != mask.getLsbD 0)
  | _ => wp.onLanes [k] (fun _ l => l.bend x mask)

/-- Whether two warps hold the same in a register. -/
def Warp.same (a b : Warp) (k : Nat) (x : Res) : Bool :=
  match x with
  | .v n => lookD (nthD a.lanes k Lane.absent).v n 0 == lookD (nthD b.lanes k Lane.absent).v n 0
  | .s n => a.getS n == b.getS n
  | _ => true

def Run.bend (r : Run) (w k : Nat) (x : Res) (mask : Word) : Run := r.modWarp w (fun y => y.bend k x mask)

/-! ### The instruction that is struck -/

/-- A machine check of the node of the split that issues. -/
def State.checkAt (t : State) (wp : Warp) (cause kind row : Nat) : State :=
  let r := (Run.of t).machineCheck ((Run.of t).gridOf wp) wp.core cause kind row noAddr
  finish t (r.note .check)

/-- The instruction has executed in the next state: neither a fault nor a wait; the warp then. -/
def State.ranBy (t' : State) (w : Nat) (ls : List Nat) : Option Warp :=
  match lookM t'.dev.warps w with
  | some x => if t'.cur.ended == .ok && !x.waited ls then some x else none
  | none => none

/-- An error in a result, or on the way to an address; what only waits it does not bear on. -/
def State.gapAt (t : State) (w : Nat) (wp : Warp) (k : Nat) (x : Res) (mask : Word) (i : Instr) (ls : List Nat)
    (run : State → Host.Outcome State Fault Refusal) : Host.Outcome State Fault Refusal :=
  if !(ls.contains k && wp.takesPart i k) then run t
  else if i.gapOut.contains x then
    match run t with
    | .next t' => .next (if (t'.ranBy w ls).isSome then finish t' ((Run.of t').bend w k x mask) else t')
    | z => z
  else if i.gapAddr.contains x then
    match run (finish t ((Run.of t).bend w k x mask)) with
    | .next t' =>
      match lookM t'.dev.warps w with
      | some y =>
        if y.waited ls then run t
        else .next (if y.same (wp.bend k x mask) k x then finish t' ((Run.of t').bend w k x mask) else t')
      | none => .next t'
    | z => z
  else run t

/-- What a physical error makes of the instruction about to issue, whose meaning gives `run`; an error that does not bear on it
changes nothing. A machine check leaves the instruction without effect. -/
def State.struck (t : State) (u : Option Upset) (i : Instr) (run : State → Host.Outcome State Fault Refusal) :
    Host.Outcome State Fault Refusal :=
  match u, t.cur.agent with
  | some u, .warp w l =>
    match lookM t.dev.warps w with
    | none => run t
    | some wp =>
      let ls := wp.split l
      let watch := fun (fails : State → Warp → Bool) =>
        match run t with
        | .next t' =>
          match t'.ranBy w ls with
          | some x => if fails t' x then .next (t.checkAt wp 0x0F 1 0xFF) else .next t'
          | none => .next t'
        | z => z
      match u with
      | .shadow k half sign q => watch (fun _ x => ls.contains k && wp.takesPart i k && x.shadowFails i k half sign q)
      | .unit k sign q => watch (fun t' x => match t.unitResult t' i wp x k with
        | some (f, v) => Machine.shadowFails f v sign q
        | none => false)
      | .laneBus => if i.isLane then .next (t.checkAt wp 0x10 2 1) else run t
      | .register => .next (t.checkAt wp 0x10 0 0)
      | .gap k x mask => t.gapAt w wp k x mask i ls run
  | some .register, .cc k => .next (finish t ((Run.of t).haltCc k true))
  | _, _ => run t

end Sys2Proof.Machine
end

