-- ==== Sys2Proof/Machine/Serve.lean ====
section
/-! DEFINITION. Which split issues, when and on which port: serving order, stall counts, ports, groups and promotion; splits that issue in one cycle; waits that end while a handler runs (R12, R25 to R30, R68, R69, R302, R305). -/

namespace Sys2Proof.Machine

/-- What an instruction does to a state. -/
abbrev Meaning := Instr → State → Host.Outcome State Fault Refusal

/-! ### The cycle and the port of an issue -/

/-- Whether a split may issue on a port in a cycle: the port has formed no group in it, or the split joins the group, with
splits of other warps of its launch at its program counter on other lanes (R12, R26, R27). -/
def PortUse.free (old : Option PortUse) (new : PortUse) : Bool :=
  match old with
  | none => true
  | some u => u.cycle != new.cycle || (u.open' && new.open' && u.grid == new.grid && u.pc == new.pc && u.mask &&& new.mask == 0)

/-- The issue of a split on a port. -/
def State.use (t : State) (i : Instr) (wp : Warp) (lanes : List Nat) (cycle : Nat) : PortUse :=
  { cycle := cycle, grid := (Run.of t).gridOf wp, pc := (nthD wp.lanes (lanes.headD 0) Lane.absent).pc, mask := maskOf lanes,
    open' := i.groups }

/-- The first port of an instruction that is free in a cycle. -/
def State.portAt (t : State) (i : Instr) (wp : Warp) (lanes : List Nat) (cycle : Nat) : Option Nat :=
  let c := (Run.of t).core wp.core
  i.ports.find? (fun p => PortUse.free (lookM c.ports (4 * wp.part + p)) (t.use i wp lanes cycle))

/-- The cycle from which a split may issue: now, the end of its stall count and of its last wait, and for FP64 four cycles after
the last FP64 group unless it joins that group (R25, R68, R69). A split formed by a merge waits for the stall count of each of its
parts. [DESIGN CHOICE, unsafe] (entry 120) -/
def State.readyAt (t : State) (i : Instr) (wp : Warp) (lanes : List Nat) : Nat :=
  let c := lanes.foldl (fun a k => max a (nthD wp.lanes k Lane.absent).ready) t.clk.cycles
  let core := (Run.of t).core wp.core
  let joins := match lookM core.ports (4 * wp.part) with
    | some u => u.cycle == c && PortUse.free (some u) (t.use i wp lanes c)
    | none => false
  if i.isFp64 && !joins then max c (lookD core.fp64 wp.part 0) else c

/-- The cycle and the port of a split's issue. -/
def State.slotOf (t : State) (i : Instr) (w l : Nat) : Nat × Nat :=
  match lookM t.dev.warps w with
  | none => (t.clk.cycles, 3)
  | some wp =>
    let lanes := wp.split l
    let c := t.readyAt i wp lanes
    match t.portAt i wp lanes c with
    | some p => (c, p)
    | none => (c + 1, i.ports.headD 3)

/-- The core clock reaches a cycle. -/
def State.upTo (t : State) (cycle : Nat) : State :=
  t.pass (Run.of t).clockMhz (cycle - t.clk.cycles)

/-- The state in which the split of lane `l` issues an instruction: its cycle has come, on its port. -/
def State.inSlot (t : State) (i : Instr) (w l : Nat) : State :=
  let (c, p) := t.slotOf i w l
  { t.upTo c with cur := { t.cur with port := p } }

/-- A control core waits for the stall count of its last instruction, in cycles of its own clock (R17, R68). -/
def State.ccSlot (t : State) (k : Nat) : State :=
  t.upTo (t.clk.cycles + t.clk.untilCc (Run.of t).clockMhz ((Run.of t).cc k).ready)

/-- An agent runs the instruction that it has fetched. -/
def State.runAs (ex : Meaning) (t : State) (u : Option Upset) (i : Instr) : Host.Outcome State Fault Refusal :=
  match t.cur.agent with
  | .warp w l => (t.inSlot i w l).struck u i (ex i)
  | .cc k => (t.ccSlot k).struck u i (ex i)
  | _ => t.struck u i (ex i)

/-- An agent fetches and runs one instruction. -/
def State.issueBy (ex : Meaning) (s : State) (u : Option Upset) (a : Agent) : Host.Outcome State Fault Refusal :=
  match s.fetch a with
  | .none => .fault .noIssuer
  | .ended t => .next t
  | .instr t i => t.runAs ex u i

/-! ### Serving order (R29, R30) -/

/-- The ports on which the split of lane `l` is ready: none where its instruction would wait, all where it cannot be fetched,
for then it traps. -/
def State.readyPorts (ex : Meaning) (s : State) (w l : Nat) : Option (List Nat) :=
  match s.fetch (.warp w l) with
  | .none => none
  | .ended _ => some [0, 1, 2, 3]
  | .instr t i =>
    match ex i t with
    | .next t' =>
      match lookM t'.dev.warps w with
      | some x => match (nthD x.lanes l Lane.absent).wait with
        | .ready _ => none
        | _ => some i.ports
      | none => some i.ports
    | _ => some i.ports

/-- The place in the round of the split of lane `l`: the number of its last grant. A split formed by a merge has the last of its
parts' places, so that a part placed behind every other split stays there. [DESIGN CHOICE, unsafe] (entry 120) -/
def Warp.turnOf (wp : Warp) (l : Nat) : Nat :=
  (wp.split l).foldl (fun a k => max a (nthD wp.lanes k Lane.absent).turn) 0

/-- Lowest lanes of the splits of a warp whose stall counts are over, the one served longest ago first. -/
def Warp.round (wp : Warp) (now : Nat) : List Nat :=
  (wp.heads.filter (fun l => decide (wp.stallEnd l ≤ now))).foldl (fun acc l => insertBy wp.turnOf l acc) []

/-- Whether a warp is served ahead of another on a port: a more urgent class; in one class the one promoted there, then the
older team, then the lower warp (R29, R30). -/
def Run.ahead (r : Run) (port : Nat) (x y : Warp) : Bool :=
  let cls := fun (w : Warp) => match r.grid (r.gridOf w) with
    | some g => g.cls
    | none => 4
  let key := fun (w : Warp) => [cls w, b2n !(w.promoted.contains port), w.team, w.wid]
  decide (key x < key y)

/-- The split of lane `l` is ready on a port. -/
def State.readyOn (ex : Meaning) (s : State) (w port l : Nat) : Bool :=
  match s.readyPorts ex w l with
  | some ps => ps.contains port
  | none => false

/-- The split of a warp that a port serves when it serves the warp: the first one of its round that is ready there. -/
def State.offer (ex : Meaning) (s : State) (w : Nat) (wp : Warp) (port : Nat) : Option Nat :=
  if wp.spilled then none else (wp.round s.clk.cycles).find? (s.readyOn ex w port)

/-- A split of the warp that has been served longer ago than the split of lane `l`. -/
def Warp.waitsLonger (wp : Warp) (l : Nat) : Bool := wp.heads.any (fun k => decide (wp.turnOf k < wp.turnOf l))

/-- The split of a warp that is granted when the split of lane `l` asks for a port (R29). -/
def State.grantIn (ex : Meaning) (s : State) (w : Nat) (wp : Warp) (port l : Nat) : Nat :=
  if !wp.waitsLonger l then l
  else (((wp.round s.clk.cycles).filter (fun k => decide (wp.turnOf k < wp.turnOf l))).find? (s.readyOn ex w port)).getD l

/-- The split that is served when the split of lane `l` of warp `w` asks for its port: a split of its warp whose turn comes
first, or one that a warp ahead of it in the partition offers on that port (R29, R30). The named split's own cycle has come
before the others are asked. -/
def State.grantee (ex : Meaning) (s : State) (w l : Nat) : Nat × Nat :=
  match lookM s.dev.warps w with
  | none => (w, l)
  | some wp =>
    let rivals := s.dev.warps.filter (fun e => e.1 != w && e.2.core == wp.core && e.2.part == wp.part)
    if rivals.isEmpty && !wp.waitsLonger l then (w, l)
    else match s.fetch (.warp w l) with
      | .instr t i =>
        let (c, p) := t.slotOf i w l
        let s := s.upTo c
        let r := Run.of s
        let best := rivals.foldl (fun b e =>
          if r.ahead p e.2 ((b.map (fun x => x.2.1)).getD wp) then
            ((s.offer ex e.1 e.2 p).map (fun k => (e.1, e.2, k))).or b
          else b) (none : Option (Nat × Warp × Nat))
        match best with
        | some (w', _, k) => (w', k)
        | none => (w, s.grantIn ex w wp p l)
      | _ => (w, l)

/-- An agent's turn: a split gives way to the one that is served before it. -/
def State.turn (ex : Meaning) (s : State) (u : Option Upset) (a : Agent) : Host.Outcome State Fault Refusal :=
  match a with
  | .warp w l =>
    let (w, l) := s.grantee ex w l
    s.issueBy ex u (.warp w l)
  | a => s.issueBy ex u a

/-- Another warp shares its partition. -/
def State.shares (s : State) (w : Nat) (wp : Warp) : Bool :=
  s.dev.warps.any (fun e => e.1 != w && e.2.core == wp.core && e.2.part == wp.part)

/-- Since when a port finds the warp ready, after a step: since the cycle kept, where it was and is ready; else from now, or from
the end of a stall count. `offers` are the cycles from which its splits that wait for nothing else may issue, and their ports. -/
def Warp.sinceOn (wp : Warp) (now : Nat) (offers : List (Nat × List Nat)) (port : Nat) : Option Nat :=
  let mine := (offers.filter (fun x => x.2.contains port)).map (·.1)
  match minBy id mine, nthD wp.since port none with
  | some a, some b => if a ≤ now then some (min a b) else some a
  | a, _ => a

/-- Since when each port has found a warp ready without serving it, as far as another warp can have been served instead (R30). -/
def State.readySince (ex : Meaning) (s : State) (w : Nat) (wp : Warp) : List (Option Nat) :=
  let offers := if s.shares w wp && !wp.spilled then
      wp.heads.filterMap (fun l => (s.readyPorts ex w l).map (fun ps => (max s.clk.cycles (wp.stallEnd l), ps)))
    else []
  (List.range 4).map (wp.sinceOn s.clk.cycles offers)

/-- A warp that has been ready on a port for 4,096 consecutive cycles without issuing on it (R30). -/
def Warp.starved (wp : Warp) (now port : Nat) : Bool :=
  match nthD wp.since port none with
  | some a => decide (a + 4096 ≤ now)
  | none => false

/-- STARVATION_PROMOTION (R30). -/
def execStarvationPromotion (w port : Nat) (s : State) : Host.Outcome State Fault Refusal :=
  act (fun r =>
    match r.warp w with
    | some wp =>
      if port < 4 ∧ wp.starved r.clk.cycles port then r.modWarp w (fun x => { x with promoted := addNew x.promoted port }) else r
    | none => r) s

/-! ### Splits that issue in one cycle (R305) -/

/-- The split of lane `l` issues alone on a port in the cycle that has come: how its issue ends, and the state after it. -/
def State.alone (ex : Meaning) (s : State) (w l port : Nat) : Option (Ended × State) :=
  match s.fetch (.warp w l) with
  | .none => none
  | .ended t => some (t.cur.ended, t)
  | .instr t i =>
    match ex i { t with cur := { t.cur with port := port } } with
    | .next t' => some (t'.cur.ended, t')
    | _ => none

/-- The split of lane `l` has the port of the cycle that has come. -/
def State.claim (s : State) (i : Instr) (w l port : Nat) : State :=
  match lookM s.dev.warps w with
  | none => s
  | some wp =>
    let now := s.clk.cycles
    let r := (Run.of s).modCore wp.core (fun c => c.take wp.part port now i.isFp64 (s.use i wp (wp.split l) now))
    finish s (r.onLanes w (wp.split l) (fun _ x => { x with ready := now + 1 }))

/-- The splits of some lanes that the serving order lets issue in the cycle that has come, each with its port (R29, R30). -/
def State.entrants (ex : Meaning) (s : State) (w : Nat) (ls : List Nat) : List (Nat × Nat) :=
  (ls.foldl (fun (a : State × List (Nat × Nat)) l =>
    match a.1.fetch (.warp w l) with
    | .none => a
    | .ended _ => (a.1, a.2 ++ [(l, 3)])
    | .instr t i =>
      let (c, p) := t.slotOf i w l
      if c = s.clk.cycles ∧ a.1.grantee ex w l = (w, l) then (a.1.claim i w l p, a.2 ++ [(l, p)]) else a) (s, [])).2

/-- Lanes of which no two belong to one split. -/
def Warp.distinct (wp : Warp) (ls : List Nat) : List Nat :=
  ls.foldl (fun acc l => if acc.any (fun k => (wp.split k).contains l) then acc else acc ++ [l]) []

/-- Lets the splits of some lanes issue one after another in the cycle that has come, each on its port. -/
def State.inTurn (ex : Meaning) (w : Nat) (s : State) (ls : List (Nat × Nat)) : State :=
  ls.foldl (fun s x => ((s.alone ex w x.1 x.2).map (·.2)).getD s) s

/-- Splits of a warp issue in one cycle, that of the first lane naming it, those that the serving order lets (R29, R305): those that
neither trap nor fault retire; a
machine check in one comes before everything else; else the trap with the lowest trapping lane is delivered and no other
trapping or faulting instruction has an effect; else the replayable faults are taken. -/
def State.together (ex : Meaning) (s : State) (w : Nat) (ls : List Nat) : State :=
  match lookM s.dev.warps w with
  | none => s
  | some wp =>
    let ls := wp.distinct ls
    let s := match s.fetch (.warp w (ls.headD 0)) with
      | .instr t i => s.upTo (t.slotOf i w (ls.headD 0)).1
      | _ => s
    let ls := s.entrants ex w (ls.foldl (fun acc l => insertBy wp.turnOf l acc) [])
    let outs := ls.filterMap (fun x => (s.alone ex w x.1 x.2).map (fun y => (x, y.1)))
    let that := fun (f : Ended → Bool) => (outs.filter (fun x => f x.2)).map (·.1)
    let s := s.inTurn ex w (that (fun x => x == .ok))
    let checks := that (fun x => x == .check)
    let traps := outs.filterMap (fun x => match x.2 with
      | .trap k => some (k, x.1)
      | _ => none)
    if !checks.isEmpty then s.inTurn ex w (checks.take 1)
    else match minBy (fun x => x.1) traps with
      | some (_, l) => s.inTurn ex w [l]
      | none => s.inTurn ex w (that (fun x => x == .fault))

/-! ### What a step leaves observed: waits that end while a handler runs (R302), and readiness without service (R30) -/

/-- A wait whose condition may become false again before ERET. -/
def Wait.fickle : Wait → Bool
  | .ready .quire => true
  | .ready .bank => true
  | .ready .present => true
  | _ => false

/-- The warp as lane `l` would find it if it left the handler now: the lanes that wait with it, and nothing else that may
issue. -/
def Warp.asIfBack (wp : Warp) (l : Nat) : Warp :=
  let x := nthD wp.lanes l Lane.absent
  { wp with
    mode := .user
    g := wp.gsave
    lanes := wp.lanes.map (fun y =>
      if y.isLive && y.rpc == x.rpc && y.rwait == x.rwait then { y with pc := y.rpc, wait := .none }
      else { y with wait := .bar 3 0 }) }

/-- Every quire of a core as if it were whole. -/
def Core.unbroken (c : Core) : Core := { c with quires := mapM' c.quires (fun _ q => { q with broken := false }) }

/-- Lanes whose kept waits have ended: their instructions would no longer wait. A quire that has broken has not come to the state that is
waited for (R190, R201). -/
def State.nowMet (ex : Meaning) (s : State) (w : Nat) (wp : Warp) : List Nat :=
  (List.range 32).filter (fun l =>
    let x := nthD wp.lanes l Lane.absent
    x.isLive && x.rwait.fickle &&
      (({ s with dev := { s.dev with
        warps := putM s.dev.warps w (wp.asIfBack l)
        cores := modM s.dev.cores wp.core Core.unbroken } } : State).readyPorts ex w l).isSome)

/-- Changes a warp of a state. -/
def State.modWarp (s : State) (w : Nat) (f : Warp → Warp) : State :=
  { s with dev := { s.dev with warps := modM s.dev.warps w f } }

/-- After a step, the threads of warps in their handlers whose conditions have come true are marked (R302), and it is noted since
when a warp that shares its partition has been ready (R30). -/
def State.observe (ex : Meaning) (s : State) : State :=
  s.dev.warps.foldl (fun s e =>
    let s := if e.2.mode = .handler ∧ e.2.lanes.any (fun l => l.rwait.fickle) then
        let ls := s.nowMet ex e.1 e.2
        s.modWarp e.1 (fun x => x.onLanes ls (fun _ l => if l.rwait.fickle then { l with rwait := .ready .met } else l))
      else s
    let now := s.readySince ex e.1 e.2
    if now = e.2.since then s else s.modWarp e.1 (fun x => { x with since := now })) s

end Sys2Proof.Machine
end

