-- ==== Sys2Proof/Machine/Uniform.lean ====
section
/-! DEFINITION. Uniform arithmetic, logic, moves and special registers (R77, R99 to R102). -/

namespace Sys2Proof.Machine

/-- Both operands of a uniform instruction of majors 0 to 13. -/
def Env.ux (e : Env) (o : UOp) : Word := e.us o.a
def Env.uy (e : Env) (o : UOp) : Word := e.uB o.b o.lit

def execUadd (o : UOp) (s : State) : Host.Outcome State Fault Refusal :=
  uniReg (.uadd o) o.g o.d (fun e => e.ux o + e.uy o) s

def execUsub (o : UOp) (s : State) : Host.Outcome State Fault Refusal :=
  uniReg (.usub o) o.g o.d (fun e => e.ux o - e.uy o) s

def execUmul (o : UOp) (s : State) : Host.Outcome State Fault Refusal :=
  uniReg (.umul o) o.g o.d (fun e => e.ux o * e.uy o) s

def execUand (o : UOp) (s : State) : Host.Outcome State Fault Refusal :=
  uniReg (.uand o) o.g o.d (fun e => e.ux o &&& e.uy o) s

def execUor (o : UOp) (s : State) : Host.Outcome State Fault Refusal :=
  uniReg (.uor o) o.g o.d (fun e => e.ux o ||| e.uy o) s

def execUxor (o : UOp) (s : State) : Host.Outcome State Fault Refusal :=
  uniReg (.uxor o) o.g o.d (fun e => e.ux o ^^^ e.uy o) s

def execUshl (o : UOp) (s : State) : Host.Outcome State Fault Refusal :=
  uniReg (.ushl o) o.g o.d (fun e => shlVal (e.ux o) (e.uy o)) s

def execUshr (o : UOp) (s : State) : Host.Outcome State Fault Refusal :=
  uniReg (.ushr o) o.g o.d (fun e => shrVal (e.ux o) (e.uy o)) s

def execUsar (o : UOp) (s : State) : Host.Outcome State Fault Refusal :=
  uniReg (.usar o) o.g o.d (fun e => sarVal (e.ux o) (e.uy o)) s

def execUmin (o : UOp) (s : State) : Host.Outcome State Fault Refusal :=
  uniReg (.umin o) o.g o.d (fun e => minVal false (e.ux o) (e.uy o)) s

def execUmax (o : UOp) (s : State) : Host.Outcome State Fault Refusal :=
  uniReg (.umax o) o.g o.d (fun e => maxVal false (e.ux o) (e.uy o)) s

def execUminu (o : UOp) (s : State) : Host.Outcome State Fault Refusal :=
  uniReg (.uminu o) o.g o.d (fun e => minVal true (e.ux o) (e.uy o)) s

def execUmaxu (o : UOp) (s : State) : Host.Outcome State Fault Refusal :=
  uniReg (.umaxu o) o.g o.d (fun e => maxVal true (e.ux o) (e.uy o)) s

def execUmov (o : UOp) (s : State) : Host.Outcome State Fault Refusal :=
  uniReg (.umov o) o.g o.d (fun e => e.uy o) s

/-- UMOVI (R100): a 23-bit signed immediate, or the literal. -/
def execUmovi (g d imm : Nat) (lit : Bool) (s : State) : Host.Outcome State Fault Refusal :=
  uniReg (.umovi g d imm lit) g d (fun _ => if lit then word imm else wordOfInt (sx imm 23)) s

def execUsetp (o : USetpOp) (s : State) : Host.Outcome State Fault Refusal :=
  uniOp (.usetp o) o.g (fun r e =>
    let c := cmpI o.cmp (valU o.u (e.us o.a)) (valU o.u (e.uB o.b o.lit))
    .done (r.putG e o.gd (comb o.comb c (e.ug o.gc)))) s

def execUpset (o : UPsetOp) (s : State) : Host.Outcome State Fault Refusal :=
  uniOp (.upset o) o.g (fun r e => .done (r.putG e o.gd (comb o.op (e.ug o.ga != o.na) (e.ug o.gb != o.nb)))) s

def execUsel (o : UOp) (gc : Nat) (s : State) : Host.Outcome State Fault Refusal :=
  uniReg (.usel o gc) o.g o.d (fun e => if e.ug gc then e.ux o else e.uy o) s

def execUbfe (o : UOp) (u : Bool) (s : State) : Host.Outcome State Fault Refusal :=
  uniReg (.ubfe o u) o.g o.d (fun e => bfeVal u (e.ux o) (e.uy o)) s

/-- The sub-operations of R86. -/
def bitVal (op : Nat) (sat : Bool) (x : Word) : Word :=
  if op = 0 then popcVal x else if op = 1 then clzVal x else if op = 2 then ctzVal x else if op = 3 then brevVal x
  else if op = 4 then iabsVal sat x else inegVal sat x

def execUbit (g d a op : Nat) (sat : Bool) (s : State) : Host.Outcome State Fault Refusal :=
  uniReg (.ubit g d a op sat) g d (fun e => bitVal op sat (e.us a)) s

def execUmulh (o : UOp) (u : Bool) (s : State) : Host.Outcome State Fault Refusal :=
  uniReg (.umulh o u) o.g o.d (fun e => mulVal true u (e.ux o) (e.uy o)) s

/-- USPR read (R101): a per-thread value is that of the split's lowest lane; CLKLO and CLKHI use the warp's latch. -/
def execUsprRead (g d n : Nat) (s : State) : Host.Outcome State Fault Refusal :=
  uniOp (.usprRead g d n) g (fun r e =>
    .done (
      if n = 0x21 then (r.putS e d (word r.clk.cycles)).modWarp e.w (fun w => { w with latch := some (hi32 r.clk.cycles) })
      else if n = 0x22 then (r.putS e d (clkHi r.clk.cycles e.wp.latch)).modWarp e.w (fun w => { w with latch := none })
      else r.putS e d (r.spr e e.lead n))) s

/-- USPR write (R101): WST alone, write-one-to-clear. -/
def execUsprWrite (g a n : Nat) (s : State) : Host.Outcome State Fault Refusal :=
  uniOp (.usprWrite g a n) g (fun r e => .done (r.modWarp e.w (fun w => w.putWst r.clk.cycles (wstClear w.wst (e.us a))))) s

/-- The value that a register of a lane of another split had before that split's issues of this cycle, where they write it: they
count as issued after the reader (R102). -/
def Lane.before (l : Lane) (now n : Nat) : Option Word :=
  if l.wrote.1 = now then (l.wrote.2.find? (fun e => e.1 == n)).map (·.2) else none

/-- UREADL (R102): waits for outstanding writes of the register it reads. A fixed-latency result of its own split is there for it,
whatever the stall counts, and no stall underrun. [DEDUCED] (entry 123) -/
def execUreadl (g d va lane : Nat) (first : Bool) (s : State) : Host.Outcome State Fault Refusal :=
  uniOp (.ureadl g d va lane first) g (fun r e =>
    let k := if first then e.lead else lane
    match r.warp e.w with
    | none => .done r
    | some wp =>
      let l := nthD wp.lanes k Lane.absent
      match if e.lanes.contains k then none else l.before r.clk.cycles va with
      | some x => .done (r.putS e d x)
      | none => if l.busy.contains (.v va) then .wait .scoreboard else .done (r.putS e d (lookD l.v va 0))) s

end Sys2Proof.Machine
end

