-- ==== Sys2Proof/Machine/Xlate.lean ====
section
/-! DEFINITION. Translation walks, fault records and replies, partitions, whole-core save and restore, kill-and-replay (chapter 21). -/

namespace Sys2Proof.Machine

/-! ### Walks (R318 to R320) -/

/-- A root of the address space that the queues of a partition name. -/
def Run.rootOfSpace (r : Run) (part asid : Nat) : Option Nat :=
  (r.dev.sched.queues.find? (fun e => e.1 / 1024 == part && e.2.asv && e.2.asid == asid)).map (fun e => e.2.root)

/-- Whether some access succeeds with a leaf: a translation that ends in a failure is not held (R320). -/
def Run.usableLeaf (r : Run) (part va span e first : Nat) : Bool :=
  [Acc.load, Acc.store, Acc.atomic, Acc.fetch].any (fun a => match r.leaf part a true va span e first with
    | .ok _ _ => true
    | .fail _ _ => false)

/-- Entries that a TLB holds at most: 32 of a partition of a core, 1,024 of a core, 65,536 of a stack's translation cache. -/
def tlbSize (holder : Nat) : Nat := if holder < 512 then 32 else if holder < 640 then 1024 else 65536

/-- The TLBs that take the result of a walk: the translation cache of the stack, and of each waiter, named by 4 * core + partition,
the TLB of its partition and that of its core. -/
def tlbHolders (stack : Nat) (waiters : List Nat) : List Nat :=
  (waiters.filter (fun a => decide (a < 512) && stackOf (a / 4) == stack)).foldl (fun l a => addNew (addNew l a) (512 + a / 4)) [640 + stack]

/-- A full TLB gives up an entry, by free choice. -/
def Run.tlbRoom (r : Run) (holder : Nat) : Run :=
  let mine := r.dev.sched.tlb.filter (fun t => t.holder == holder)
  if mine.length < tlbSize holder then r
  else match mine[r.pick (13 * 2 ^ 20 + holder) mine.length]? with
    | some x => r.modSched (fun s => { s with tlb := s.tlb.erase x })
    | none => r

/-- A TLB holds a translation, in place of what it held of the page. -/
def Run.tlbPut (r : Run) (x : Tlb) (va : Nat) : Run :=
  let r := r.modSched (fun s => { s with tlb := s.tlb.filter (fun t =>
    !(t.holder == x.holder && t.part == x.part && t.asid == x.asid && va / 2 ^ t.span == t.vpn)) })
  (r.tlbRoom x.holder).modSched (fun s => { s with tlb := s.tlb ++ [x] })

/-- A walk of a stack for a missed translation, whose result every waiter takes (R320); nothing is held when the walk or its leaf
fails. -/
def execTranslationWalk (part asid : Nat) (x : WalkFor) (s : State) : Host.Outcome State Fault Refusal :=
  act (fun r =>
    let va := x.va
    match r.rootOfSpace part asid with
    | none => r
    | some root =>
      if !canonical va || decide (2 ≤ x.stack) then r
      else
        match r.walk part root va with
        | .error _ => r
        | .ok (span, e, first) =>
          if r.usableLeaf part va span e first then
            (tlbHolders x.stack x.waiters).foldl (fun r h => r.tlbPut { holder := h, part := part, asid := asid, span := span,
                                                                        vpn := va / 2 ^ span, entry := e, first := first } va) r
          else r) s

/-! ### Fault records and replies (R322, R323) -/

/-- Faults of one page of one address space of a partition. -/
def PFault.samePage (f g : PFault) : Bool := f.part == g.part && f.asid == g.asid && f.va / 65536 == g.va / 65536

/-- The 32 bytes of a fault record (Table 21.6). -/
def Run.faultRecord (r : Run) (f : PFault) (seq : Nat) : Nat :=
  let slot := match r.warpAny f.warp with
    | some w => if f.unit.isSome then 0xFF else w.slot
    | none => 0xFF
  seq + f.why * 2 ^ 84 + f.kind * 2 ^ 88 + slot * 2 ^ 96 + f.core * 2 ^ 104 + f.queue * 2 ^ 112 + f.time % 2 ^ 64 * 2 ^ 128 +
    f.va * 2 ^ 192

/-- The record of a fault is written while its entry of the ring is free; every fault of the page shares it. -/
def execFaultRecordWrite (fault : Nat) (s : State) : Host.Outcome State Fault Refusal :=
  act (fun r =>
    match lookM r.dev.sched.faults fault with
    | none => r
    | some f =>
      match r.part f.part with
      | none => r
      | some p =>
        let seq := lookD r.dev.sched.faultSeq f.part 0
        let taken := r.dev.sched.faults.any (fun e => e.2.part == f.part && !e.2.fatal && (match e.2.seq with
          | some q => q % 4096 == seq % 4096
          | none => false))
        if f.seq.isSome || taken then r
        else
          let r := r.homeWrite none (p.fring + 32 * (seq % 4096)) (bytesOf 32 (r.faultRecord f (seq % 2 ^ 32)))
          let r := r.modSched (fun s => { s with
            faultSeq := putM s.faultSeq f.part (seq + 1)
            faults := mapM' s.faults (fun _ g => if g.samePage f && g.seq.isNone then { g with seq := some seq } else g) })
          r.emit (.msix p.func 0)) s

/-- Faults that a reply of a function names. -/
def Run.replied (r : Run) (fn seq : Nat) : List (Nat × PFault) :=
  match r.partOfFunc fn with
  | none => []
  | some p => r.dev.sched.faults.filter (fun e => e.2.part == p && !e.2.fatal && (match e.2.seq with
      | some q => q % 2 ^ 32 == seq
      | none => false))

/-- A waiter goes on: it executes its whole instruction again, or for a log write is drained again with the writes
already lost (R259). -/
def Lane.faultRetry (l : Lane) (cycle id : Nat) (log : Option (List Nat)) : Lane :=
  match log with
  | some lost => l.rewait (Wait.isFault id) (.ready (.drain lost))
  | none => l.retry cycle (Wait.isFault id)

def Run.faultRetry (r : Run) (id : Nat) (f : PFault) (log : Option (List Nat)) : Run :=
  let r := r.modWarpAny f.warp (fun w => w.mapLanes (fun _ l => l.faultRetry r.clk.cycles id log))
  r.modSched (fun s => { s with faults := delM s.faults id })

/-- Retry: every waiter executes its whole instruction again; a unit's walk is tried again. -/
def Run.replyRetry (r : Run) (fn seq : Nat) : Run :=
  (r.replied fn seq).foldl (fun r e => r.faultRetry e.1 e.2 e.2.log) r

def execFaultReplyRetry (fn seq : Nat) (s : State) : Host.Outcome State Fault Refusal := act (fun r => r.replyRetry fn seq) s

/-- The end of a unit's walk by a fatal fault is written where the walk reads on (R235, R253): the fault stays with its
record, marked. A log write is lost, and its drain goes on (R259). -/
def Run.faultFatal (r : Run) (id : Nat) (f : PFault) : Run :=
  match f.log with
  | some lost => r.faultRetry id f (some (f.va :: lost))
  | none =>
    let r := r.modSched (fun s => { s with faults := modM s.faults id (fun g => { g with fatal := true }) })
    if f.unit.isSome then r else r.fatalNow f.warp

/-- Fatal: every waiter takes cause 0x06 with RPL. -/
def Run.replyFatal (r : Run) (fn seq : Nat) : Run := (r.replied fn seq).foldl (fun r e => r.faultFatal e.1 e.2) r

def execFaultReplyFatal (fn seq : Nat) (s : State) : Host.Outcome State Fault Refusal := act (fun r => r.replyFatal fn seq) s

/-! ### Partition descriptors (R327) -/

/-- The fields of Table 21.8. -/
def Part.parse (v lease : Nat) : Part :=
  { v := bitOf v 191, fring := fld v 192 64, scsh := fld v 180 6, eng := BitVec.ofNat 32 (fld v 148 32), func := fld v 144 4,
    groups := BitVec.ofNat 16 (fld v 128 16), lease := lease,
    ranges := (List.range 4).map (fun i => (fld v (32 * i + 16) 16, fld v (32 * i) 16)) }

def rangesMeet (a b : Nat × Nat) : Bool :=
  a.2 != 0 && b.2 != 0 && decide (a.1 < b.1 + b.2) && decide (b.1 < a.1 + a.2)

/-- Core groups, engines or memory ranges of two partitions overlap. -/
def Part.meets (a b : Part) : Bool :=
  (a.groups &&& b.groups) != 0 || (a.eng &&& b.eng) != 0 || a.ranges.any (fun x => b.ranges.any (rangesMeet x))

/-- A range of no reserved address: GDDR 7, peer cards or the host (Table 21.1). -/
def rangeMem (a : Nat × Nat) : Bool :=
  a.2 == 0 || decide (a.1 + a.2 ≤ 0x24) || (decide (0x4000 ≤ a.1) && decide (a.1 + a.2 ≤ 0x5000)) ||
    (decide (0x8000 ≤ a.1) && decide (a.1 + a.2 ≤ 0x10000))

/-- The values that Table 21.8 admits, in ranges of memory: reserved addresses hold none that a partition could own (R315, R377);
reserved bits are ignored (R5). [DEDUCED] (entry 138) -/
def Part.ok (p : Part) : Bool :=
  p.ranges.all rangeMem &&
  decide (1 ≤ p.scsh) && decide (p.scsh ≤ 32) && decide (p.func < 8) && p.fring % 65536 == 0 &&
    p.holds p.fring 131072

/-- A partition has an active queue: one in a slot, or one with launches not retired. -/
def Run.partBusy (r : Run) (part : Nat) : Bool :=
  r.dev.sched.active.any (fun a => match a with
    | some k => k / 1024 == part
    | none => false) ||
  r.dev.sched.grids.any (fun e => e.2.part == part && e.2.open)

def execPartitionDescriptorWrite (part : Nat) (words : List Nat) (s : State) : Host.Outcome State Fault Refusal :=
  act (fun r =>
    let v := ofWords (words.map word) % 2 ^ 256
    let p := Part.parse v (r.leaseLen part)
    let clash := r.dev.sched.parts.any (fun e => e.1 != part && e.2.v && p.meets e.2)
    if 8 ≤ part || r.partBusy part || (p.v && (clash || !p.ok)) then r
    else r.modSched (fun s => { s with parts := putM s.parts part p })) s

/-! ### Whole-core save (R324, R325) -/

/-- Cores that are saved together: members of the gangs of their teams, and all cores of a cooperative grid. -/
def Run.together (r : Run) : Nat → List Nat → List Nat
  | 0, cs => cs
  | n + 1, cs =>
    let hit := r.dev.sched.teams.filter (fun e => !e.2.complete && e.2.cores.any cs.contains)
    let coop := hit.filter (fun e => match r.grid e.2.grid with
      | some g => g.pkt.coop
      | none => false)
    let more := r.dev.sched.teams.filter (fun e => !e.2.complete && coop.any (fun c => c.2.grid == e.2.grid))
    let cs' := (hit ++ more).foldl (fun acc e => e.2.cores.foldl addNew acc) cs
    if cs'.length = cs.length then cs else r.together n cs'

/-- An instruction that has issued on the cores and not completed: a load or an atomic with a result. -/
def Run.issuing (r : Run) (cs : List Nat) : Bool :=
  r.dev.ms.loads.any (fun e => cs.contains e.2.core) || r.dev.ms.atomics.any (fun e => cs.contains e.2.core && !e.2.red)

/-- Dirty private lines go to their own addresses, update-only lines are flushed, and the L1 is dropped. -/
def Run.drainL1 (r : Run) (core : Nat) : Run :=
  let r := r.flushCore core (fun _ => true)
  let r := ((r.l1 core).map (·.1)).foldl (fun r k => r.writeBack core k) r
  r.setL1 core []

/-- A core holds a save image. -/
def Run.saved (r : Run) (core : Nat) : Bool := (lookM r.dev.sched.images core).isSome

/-- Poison of operand memory and weight sets, apart from that of banks. -/
def ownPoison (c : Core) (bank : Bool) : Map Nat := c.xpoison.filter (fun e => decide (2 ^ 30 ≤ e.1) == bank)

/-- The L1 of a core is drained, and its warps and what the image keeps of the core leave it (R324, Table 21.7); team memory and banks
belong to teams. -/
def Run.saveCore (r : Run) (core : Nat) : Run :=
  if !r.dev.warps.any (fun e => e.2.core == core) || r.saved core then r
  else
    let r := r.drainL1 core
    let mine := r.dev.warps.filter (fun e => e.2.core == core)
    let c := r.core core
    let r := r.modSched (fun s => { s with images := putM s.images core mine, cimages := putM s.cimages core c })
    let r := { r with dev := { r.dev with warps := r.dev.warps.filter (fun e => e.2.core != core) } }
    r.modCore core (fun c => { c with slotOwner := [], setOwner := [], weights := [], setFmt := [], queue := [], quires := [] })

/-- A team that a launch has still to place: it has been chosen, or may be. -/
def Run.wantsPlace (r : Run) (x : Grid) : Bool :=
  (x.st == .dispatching && decide (x.nextTeam < x.pkt.teams)) || r.eligible x

/-- A class-0 launch of a partition that cannot be placed (R339), the first of the order of R336. -/
def Run.held (r : Run) (part : Nat) : Option (Nat × Grid) :=
  minBy (fun e => e.2.rank e.1) (r.dev.sched.grids.filter (fun e =>
    e.2.part == part && e.2.cls == 0 && r.wantsPlace e.2 && (r.home e.1 e.2).isNone))

/-- The most urgent class of the work that resident warps of some cores do; 4 where there is none. -/
def Run.workClass (r : Run) (cs : List Nat) : Nat :=
  (r.dev.warps.filter (fun e => cs.contains e.2.core)).foldl (fun a e => match r.grid (r.gridOf e.2) with
    | some g => min a g.cls
    | none => a) 4

/-- The number of the team dispatched last on some cores. -/
def Run.lastTeam (r : Run) (cs : List Nat) : Nat :=
  (r.dev.warps.filter (fun e => cs.contains e.2.core)).foldl (fun a e => max a e.2.team) 0

/-- A relaunched warp of a launch that is sheddable to kill-and-replay (R326). -/
def Run.killable (r : Run) (wp : Warp) : Bool :=
  wp.serial.isSome && (match r.grid (r.gridOf wp) with
    | some g => g.pkt.shed
    | none => false)

/-- Work that can only be saved stands on cores of which one holds an image already: there is one save area above each core (R324). -/
def Run.stays (r : Run) (cs : List Nat) : Bool :=
  cs.any r.saved && r.dev.warps.any (fun e => cs.contains e.2.core && !r.killable e.2)

/-- How early R339 frees a core: class 3 before 2 before 1, and in one class the cores whose teams were dispatched last; none for a
core without work, with work of class 0, or with work that has nowhere to be saved. -/
def Run.freeRank (r : Run) (core : Nat) : Option Nat :=
  let cs := r.together 128 [core]
  let c := r.workClass cs
  if c = 0 ∨ c = 4 ∨ r.stays cs then none else some ((3 - c) * 2 ^ 64 + (2 ^ 64 - 1 - r.lastTeam cs))

/-- The scheduler frees this core next: a class-0 launch that cannot be placed needs it, and none that it frees earlier. -/
def Run.frees (r : Run) (core : Nat) : Bool :=
  match (r.partOfCore core).bind r.held with
  | none => false
  | some (_, x) =>
    let cs := r.coresWanted x
    match r.freeRank core with
    | none => false
    | some k => cs.contains core && cs.all (fun c => match r.freeRank c with
        | some j => decide (k ≤ j)
        | none => true)

/-- A repair map of some cores waits for its drain (R364). -/
def Run.repairing (r : Run) (cs : List Nat) : Bool := r.dev.sched.lanePend.any (fun e => cs.contains (e.1 / 4))

/-- A core is saved whole, with the cores that must be saved with it: one that the scheduler frees next, once nothing on it is left
that kill-and-replay may end (R324, R339), or one whose drain firmware forces for a repair map (R364). -/
def execWholeCoreSave (core : Nat) (s : State) : Host.Outcome State Fault Refusal :=
  act (fun r =>
    let cs := r.together 128 [core]
    let killable := r.dev.warps.any (fun e => cs.contains e.2.core && r.killable e.2)
    let due := r.repairing cs || (!killable && r.frees core)
    if 128 ≤ core || cs.any r.saved || r.issuing cs || !due then r
    else cs.foldl (fun r c => r.saveCore c) r) s

/-- The warps of an image return to their core. -/
def Run.loadCore (r : Run) (core : Nat) : Run :=
  match lookM r.dev.sched.images core with
  | none => r
  | some m =>
    let r := m.foldl (fun r e => { r with dev := { r.dev with warps := putM r.dev.warps e.1 e.2 } }) r
    let i := lookD r.dev.sched.cimages core Core.empty
    let r := r.modSched (fun s => { s with images := delM s.images core, cimages := delM s.cimages core })
    let r := r.modCore core (fun c => { c with
      operand := i.operand, slotOwner := i.slotOwner, setOwner := i.setOwner, weights := i.weights, setFmt := i.setFmt
      queue := i.queue, quires := i.quires.foldl (fun m e => putM m e.1 e.2) c.quires, xpoison := ownPoison i false ++ ownPoison c true })
    m.foldl (fun r e => r.fatalNow e.1) r

/-- A more urgent launch wants one of the cores (R339). -/
def Run.wanted (r : Run) (cs : List Nat) (cls : Nat) : Bool :=
  r.dev.sched.grids.any (fun e => decide (e.2.cls < cls) && r.wantsPlace e.2 && (r.coresWanted e.2).any cs.contains)

/-- Saved work returns to the same cores, free of other work and of pending repair maps, when its class is again the most urgent work
that they can hold (R339, R364). -/
def execCoreRestore (core : Nat) (s : State) : Host.Outcome State Fault Refusal :=
  act (fun r =>
    let cs := r.together 128 [core]
    if !r.saved core || r.repairing cs || r.dev.warps.any (fun e => cs.contains e.2.core) || r.wanted cs (r.savedClass cs) then r
    else cs.foldl (fun r c => r.loadCore c) r) s

/-! ### Kill-and-replay (R326) -/

/-- A relaunched warp ends at once: what it has sent is performed or not, and the records of its live threads are gathered
again. -/
def Run.killWarp (r : Run) (w : Nat) (wp : Warp) : Run :=
  let ks := wp.liveLanes.filterMap (fun l => lookM wp.recs l)
  let r := r.modSched (fun s => { s with recs := mapM' s.recs (fun k x => if ks.contains k then { x with inUse := false } else x) })
  let r := (r.dropSome (fun _ k => k == w)).modMs (fun m => { m with loads := filterM m.loads (fun _ l => l.warp != w) })
  (r.releaseTeam wp.team).modSched (fun s => { s with teams := delM s.teams wp.team })

/-- The least urgent class of the work that is freed for the launch that is held: that of cores it could take, and of bins of draws
still to commit (R339). -/
def Run.victimClass (r : Run) (part : Nat) (x : Grid) : Nat :=
  let cores := ((r.coresWanted x).filter (fun c => (r.freeRank c).isSome)).map (fun c => r.workClass (r.together 128 [c]))
  let bins := r.dev.sched.draws.filterMap (fun e => (r.grid e.2.grid).bind (fun g =>
    if g.part = part ∧ g.st ≠ .ending ∧ !e.2.done then some g.cls else none))
  (cores ++ bins).foldl max 0

/-- A class-0 launch that cannot be placed waits while work of class `cls` runs in its partition, and the scheduler frees that class
next. -/
def Run.presses (r : Run) (part cls : Nat) : Bool :=
  match r.held part with
  | some (_, x) => decide (0 < cls) && cls == r.victimClass part x
  | none => false

/-- Kills a relaunched warp of a sheddable launch on the core that the scheduler frees next, or the work of a bin of draw `w`
before its commit: nothing of it is left but the count of the replay (R243, R244, R326, R339). -/
def execKillAndReplay (w : Nat) (bin : Option Nat) (s : State) : Host.Outcome State Fault Refusal :=
  act (fun r =>
    match bin with
    | some b =>
      match (lookM r.dev.sched.draws w).bind (fun d => (r.grid d.grid).map (fun g => (d, g))) with
      | none => r
      | some (d, g) =>
        if d.binCount ≤ b || !d.binHas b || d.bins.contains b || g.st == .ending || !r.presses g.part g.cls then r
        else r.modDraw w (fun d => d.count 6 1)
    | none =>
      match r.warp w with
      | none => r
      | some wp =>
        if r.killable wp && r.frees wp.core then r.killWarp w wp else r) s

end Sys2Proof.Machine
end

