-- ==== Sys2Proof/Machine/Dispatch.lean ====
section
/-! DEFINITION. The dispatch of every instruction to its meaning. -/

namespace Sys2Proof.Machine

def exec (i : Instr) (s : State) : Host.Outcome State Fault Refusal :=
  match i with
  | .iadd o => Sys2Proof.Machine.execIadd o s
  | .isub o => Sys2Proof.Machine.execIsub o s
  | .imul o => Sys2Proof.Machine.execImul o s
  | .imad o => Sys2Proof.Machine.execImad o s
  | .imin o => Sys2Proof.Machine.execImin o s
  | .imax o => Sys2Proof.Machine.execImax o s
  | .and o => Sys2Proof.Machine.execAnd o s
  | .or o => Sys2Proof.Machine.execOr o s
  | .xor o => Sys2Proof.Machine.execXor o s
  | .logt o => Sys2Proof.Machine.execLogt o s
  | .shl o => Sys2Proof.Machine.execShl o s
  | .shr o => Sys2Proof.Machine.execShr o s
  | .sar o => Sys2Proof.Machine.execSar o s
  | .shf o => Sys2Proof.Machine.execShf o s
  | .bfe o => Sys2Proof.Machine.execBfe o s
  | .bfi o => Sys2Proof.Machine.execBfi o s
  | .popc o => Sys2Proof.Machine.execPopc o s
  | .clz o => Sys2Proof.Machine.execClz o s
  | .ctz o => Sys2Proof.Machine.execCtz o s
  | .brev o => Sys2Proof.Machine.execBrev o s
  | .iabs o => Sys2Proof.Machine.execIabs o s
  | .ineg o => Sys2Proof.Machine.execIneg o s
  | .isetp o => Sys2Proof.Machine.execIsetp o s
  | .sel o => Sys2Proof.Machine.execSel o s
  | .mov o => Sys2Proof.Machine.execMov o s
  | .movi g d imm lit => Sys2Proof.Machine.execMovi g d imm lit s
  | .movu g d n x => Sys2Proof.Machine.execMovu g d n x s
  | .spr g d n => Sys2Proof.Machine.execSpr g d n s
  | .pset o => Sys2Proof.Machine.execPset o s
  | .p2v g d x => Sys2Proof.Machine.execP2v g d x s
  | .v2p g a x => Sys2Proof.Machine.execV2p g a x s
  | .shfl o => Sys2Proof.Machine.execShfl o s
  | .vote o => Sys2Proof.Machine.execVote o s
  | .redw o => Sys2Proof.Machine.execRedw o s
  | .matchw o => Sys2Proof.Machine.execMatchw o s
  | .fadd o => Sys2Proof.Machine.execFadd o s
  | .fmul o => Sys2Proof.Machine.execFmul o s
  | .ffma o => Sys2Proof.Machine.execFfma o s
  | .fmin o => Sys2Proof.Machine.execFmin o s
  | .fmax o => Sys2Proof.Machine.execFmax o s
  | .fsetp o => Sys2Proof.Machine.execFsetp o s
  | .func o => Sys2Proof.Machine.execFunc o s
  | .flerp o => Sys2Proof.Machine.execFlerp o s
  | .pkadd o => Sys2Proof.Machine.execPkadd o s
  | .pkmul o => Sys2Proof.Machine.execPkmul o s
  | .pkfma o => Sys2Proof.Machine.execPkfma o s
  | .pkmnmx o => Sys2Proof.Machine.execPkmnmx o s
  | .dadd o => Sys2Proof.Machine.execDadd o s
  | .dmul o => Sys2Proof.Machine.execDmul o s
  | .dfma o => Sys2Proof.Machine.execDfma o s
  | .cvt g d a f => Sys2Proof.Machine.execCvt g d a f s
  | .plnp g d a lx => Sys2Proof.Machine.execPlnp g d a lx s
  | .plnu g d a x => Sys2Proof.Machine.execPlnu g d a x s
  | .bysel o => Sys2Proof.Machine.execBysel o s
  | .ld o => Sys2Proof.Machine.execLd o s
  | .st o => Sys2Proof.Machine.execSt o s
  | .ldp o => Sys2Proof.Machine.execLdp o s
  | .atom o => Sys2Proof.Machine.execAtom o s
  | .red o => Sys2Proof.Machine.execRed o s
  | .cas o => Sys2Proof.Machine.execCas o s
  | .fenceAcq g scope => Sys2Proof.Machine.execFenceAcq g scope s
  | .fenceRel g scope => Sys2Proof.Machine.execFenceRel g scope s
  | .fenceAr g scope => Sys2Proof.Machine.execFenceAr g scope s
  | .fenceSc g scope => Sys2Proof.Machine.execFenceSc g scope s
  | .cctlPf o => Sys2Proof.Machine.execCctlPf o s
  | .cctlPf2 o => Sys2Proof.Machine.execCctlPf2 o s
  | .cctlInv o => Sys2Proof.Machine.execCctlInv o s
  | .cctlWb o => Sys2Proof.Machine.execCctlWb o s
  | .cctlInvall o => Sys2Proof.Machine.execCctlInvall o s
  | .bra g off => Sys2Proof.Machine.execBra g off s
  | .brx g a lit => Sys2Proof.Machine.execBrx g a lit s
  | .call g d off => Sys2Proof.Machine.execCall g d off s
  | .rjn g pd m => Sys2Proof.Machine.execRjn g pd m s
  | .exit g scope => Sys2Proof.Machine.execExit g scope s
  | .trap g n => Sys2Proof.Machine.execTrap g n s
  | .bkpt g => Sys2Proof.Machine.execBkpt g s
  | .sample g d a b => Sys2Proof.Machine.execSample g d a b s
  | .txf g d a b => Sys2Proof.Machine.execTxf g d a b s
  | .trace g n a b off => Sys2Proof.Machine.execTrace g n a b off s
  | .march g n a b c buf all lim off => Sys2Proof.Machine.execMarch g n a b c buf all lim off s
  | .susp g n off => Sys2Proof.Machine.execSusp g n off s
  | .samplec g n a b off => Sys2Proof.Machine.execSamplec g n a b off s
  | .cadd g d a b c => Sys2Proof.Machine.execCadd g d a b c s
  | .crd g d b => Sys2Proof.Machine.execCrd g d b s
  | .crdCnt g d b => Sys2Proof.Machine.execCrdCnt g d b s
  | .crpl g d a b => Sys2Proof.Machine.execCrpl g d a b s
  | .rnd g d a b int => Sys2Proof.Machine.execRnd g d a b int s
  | .srd g d a norm pd m => Sys2Proof.Machine.execSrd g d a norm pd m s
  | .swr g a b norm m => Sys2Proof.Machine.execSwr g a b norm m s
  | .tnow g d sel => Sys2Proof.Machine.execTnow g d sel s
  | .uadd o => Sys2Proof.Machine.execUadd o s
  | .usub o => Sys2Proof.Machine.execUsub o s
  | .umul o => Sys2Proof.Machine.execUmul o s
  | .uand o => Sys2Proof.Machine.execUand o s
  | .uor o => Sys2Proof.Machine.execUor o s
  | .uxor o => Sys2Proof.Machine.execUxor o s
  | .ushl o => Sys2Proof.Machine.execUshl o s
  | .ushr o => Sys2Proof.Machine.execUshr o s
  | .usar o => Sys2Proof.Machine.execUsar o s
  | .umin o => Sys2Proof.Machine.execUmin o s
  | .umax o => Sys2Proof.Machine.execUmax o s
  | .uminu o => Sys2Proof.Machine.execUminu o s
  | .umaxu o => Sys2Proof.Machine.execUmaxu o s
  | .umov o => Sys2Proof.Machine.execUmov o s
  | .ubra g off => Sys2Proof.Machine.execUbra g off s
  | .umovi g d imm lit => Sys2Proof.Machine.execUmovi g d imm lit s
  | .usetp o => Sys2Proof.Machine.execUsetp o s
  | .upset o => Sys2Proof.Machine.execUpset o s
  | .usel o gc => Sys2Proof.Machine.execUsel o gc s
  | .ubfe o u => Sys2Proof.Machine.execUbfe o u s
  | .ubit g d a op sat => Sys2Proof.Machine.execUbit g d a op sat s
  | .umulh o u => Sys2Proof.Machine.execUmulh o u s
  | .usprRead g d n => Sys2Proof.Machine.execUsprRead g d n s
  | .usprWrite g a n => Sys2Proof.Machine.execUsprWrite g a n s
  | .ureadl g d va lane first => Sys2Proof.Machine.execUreadl g d va lane first s
  | .uld o => Sys2Proof.Machine.execUld o s
  | .ust o => Sys2Proof.Machine.execUst o s
  | .ucall g d off => Sys2Proof.Machine.execUcall g d off s
  | .uret g a => Sys2Proof.Machine.execUret g a s
  | .ujmpx g a b n => Sys2Proof.Machine.execUjmpx g a b n s
  | .barSync o => Sys2Proof.Machine.execBarSync o s
  | .barArrive o => Sys2Proof.Machine.execBarArrive o s
  | .tsleep g d a => Sys2Proof.Machine.execTsleep g d a s
  | .tbar g d a id => Sys2Proof.Machine.execTbar g d a id s
  | .utime g d sel => Sys2Proof.Machine.execUtime g d sel s
  | .launch g d a => Sys2Proof.Machine.execLaunch g d a s
  | .qbind g d a out n => Sys2Proof.Machine.execQbind g d a out n s
  | .sego o any => Sys2Proof.Machine.execSego o any s
  | .qwait g d a n => Sys2Proof.Machine.execQwait g d a n s
  | .qrel g d a n => Sys2Proof.Machine.execQrel g d a n s
  | .qstat g d sel n => Sys2Proof.Machine.execQstat g d sel n s
  | .secan g d a => Sys2Proof.Machine.execSecan g d a s
  | .mclaim g d wset count => Sys2Proof.Machine.execMclaim g d wset count s
  | .mrel g d a wset count => Sys2Proof.Machine.execMrel g d a wset count s
  | .mlds g a b len doff => Sys2Proof.Machine.execMlds g a b len doff s
  | .mldsQ g a b n len doff => Sys2Proof.Machine.execMldsQ g a b n len doff s
  | .mwld g a b planes fmt => Sys2Proof.Machine.execMwld g a b planes fmt s
  | .mma g a => Sys2Proof.Machine.execMma g a s
  | .mhad g a scale size fmt => Sys2Proof.Machine.execMhad g a scale size fmt s
  | .maccSt g a b rows cvt => Sys2Proof.Machine.execMaccSt g a b rows cvt s
  | .maccLd g a b rows cvt => Sys2Proof.Machine.execMaccLd g a b rows cvt s
  | .mzero g a => Sys2Proof.Machine.execMzero g a s
  | .mwait g d a => Sys2Proof.Machine.execMwait g d a s
  | .cbind g d a logs logsz => Sys2Proof.Machine.execCbind g d a logs logsz s
  | .cbindUnb g d a => Sys2Proof.Machine.execCbindUnb g d a s
  | .cflush g d a => Sys2Proof.Machine.execCflush g d a s
  | .trisub o count => Sys2Proof.Machine.execTrisub o count s
  | .mbindRx g d a m => Sys2Proof.Machine.execMbindRx g d a m s
  | .mbindOut g d a m inh => Sys2Proof.Machine.execMbindOut g d a m inh s
  | .frpub g d a m => Sys2Proof.Machine.execFrpub g d a m s
  | .cstart g d a => Sys2Proof.Machine.execCstart g d a s
  | .cwait o => Sys2Proof.Machine.execCwait o s
  | .cstat g d a sel => Sys2Proof.Machine.execCstat g d a sel s
  | .mfsr g d w n => Sys2Proof.Machine.execMfsr g d w n s
  | .mtsr g a w n => Sys2Proof.Machine.execMtsr g a w n s
  | .eret g => Sys2Proof.Machine.execEret g s
  | .tlbiPage g a b part => Sys2Proof.Machine.execTlbiPage g a b part s
  | .tlbiPart g part => Sys2Proof.Machine.execTlbiPart g part s
  | .tlbiAll g part => Sys2Proof.Machine.execTlbiAll g part s
  | .cinvIcache g part => Sys2Proof.Machine.execCinvIcache g part s
  | .cinvCcache g part => Sys2Proof.Machine.execCinvCcache g part s
  | .cinvL1 g part => Sys2Proof.Machine.execCinvL1 g part s
  | .wfi g => Sys2Proof.Machine.execWfi g s
  | .hirq g a part => Sys2Proof.Machine.execHirq g a part s
  | .ecall g d a code => Sys2Proof.Machine.execEcall g d a code s
  | .halt g => Sys2Proof.Machine.execHalt g s
  | .serviceCallDelivery => Sys2Proof.Machine.execServiceCallDelivery s
  | .starvationPromotion w port => Sys2Proof.Machine.execStarvationPromotion w port s
  | .rejoinDeadlock w => Sys2Proof.Machine.execRejoinDeadlock w s
  | .registerSpill w => Sys2Proof.Machine.execRegisterSpill w s
  | .registerRecall w => Sys2Proof.Machine.execRegisterRecall w s
  | .completionCountIncrement w l => Sys2Proof.Machine.execCompletionCountIncrement w l s
  | .gridRetire grid => Sys2Proof.Machine.execGridRetire grid s
  | .queueNotify fn q v => Sys2Proof.Machine.execQueueNotify fn q v s
  | .activeSlotClaim part q => Sys2Proof.Machine.execActiveSlotClaim part q s
  | .ringEntryRead part q => Sys2Proof.Machine.execRingEntryRead part q s
  | .dispatchDecision part => Sys2Proof.Machine.execDispatchDecision part s
  | .teamPlacement grid => Sys2Proof.Machine.execTeamPlacement grid s
  | .wholeCoreSave core => Sys2Proof.Machine.execWholeCoreSave core s
  | .coreRestore core => Sys2Proof.Machine.execCoreRestore core s
  | .killAndReplay w bin => Sys2Proof.Machine.execKillAndReplay w bin s
  | .recordCompleted r => Sys2Proof.Machine.execRecordCompleted r s
  | .gatheringDispatch r core => Sys2Proof.Machine.execGatheringDispatch r core s
  | .translationWalk part asid x => Sys2Proof.Machine.execTranslationWalk part asid x s
  | .faultRecordWrite fault => Sys2Proof.Machine.execFaultRecordWrite fault s
  | .faultReplyRetry fn seq => Sys2Proof.Machine.execFaultReplyRetry fn seq s
  | .faultReplyFatal fn seq => Sys2Proof.Machine.execFaultReplyFatal fn seq s
  | .mergingFill core line => Sys2Proof.Machine.execMergingFill core line s
  | .storeApply id => Sys2Proof.Machine.execStoreApply id s
  | .storeAcknowledgement id => Sys2Proof.Machine.execStoreAcknowledgement id s
  | .remoteAcknowledgement id => Sys2Proof.Machine.execRemoteAcknowledgement id s
  | .atomicAtHome id => Sys2Proof.Machine.execAtomicAtHome id s
  | .updateOnlyRecall core line => Sys2Proof.Machine.execUpdateOnlyRecall core line s
  | .hostMemoryAccess pa size write => Sys2Proof.Machine.execHostMemoryAccess pa size write s
  | .streamNop => Sys2Proof.Machine.execStreamNop s
  | .base index addr => Sys2Proof.Machine.execBase index addr s
  | .dim d count stride => Sys2Proof.Machine.execDim d count stride s
  | .tile rows rowBytes pitch => Sys2Proof.Machine.execTile rows rowBytes pitch s
  | .push q mask => Sys2Proof.Machine.execPush q mask s
  | .pull q mask => Sys2Proof.Machine.execPull q mask s
  | .gath q mask => Sys2Proof.Machine.execGath q mask s
  | .conv mode => Sys2Proof.Machine.execConv mode s
  | .loop d => Sys2Proof.Machine.execLoop d s
  | .next d => Sys2Proof.Machine.execNext d s
  | .sig addr => Sys2Proof.Machine.execSig addr s
  | .stop => Sys2Proof.Machine.execStop s
  | .listCancelled e p => Sys2Proof.Machine.execListCancelled e p s
  | .slotReady t core => Sys2Proof.Machine.execSlotReady t core s
  | .drainComplete t => Sys2Proof.Machine.execDrainComplete t s
  | .tileHandleRequest core => Sys2Proof.Machine.execTileHandleRequest core s
  | .matrixOpComplete core op => Sys2Proof.Machine.execMatrixOpComplete core op s
  | .rasterBinProcess draw bin => Sys2Proof.Machine.execRasterBinProcess draw bin s
  | .ptpSync src m => Sys2Proof.Machine.execPtpSync src m s
  | .holdoverEntry failover => Sys2Proof.Machine.execHoldoverEntry failover s
  | .delayReq => Sys2Proof.Machine.execDelayReq s
  | .mediaPacketReceive port pkt => Sys2Proof.Machine.execMediaPacketReceive port pkt s
  | .frameObjectClear flow k => Sys2Proof.Machine.execFrameObjectClear flow k s
  | .srdDeadline w => Sys2Proof.Machine.execSrdDeadline w s
  | .tsleepRelease w => Sys2Proof.Machine.execTsleepRelease w s
  | .frameCommit flow k => Sys2Proof.Machine.execFrameCommit flow k s
  | .mediaPacketSend flow => Sys2Proof.Machine.execMediaPacketSend flow s
  | .flitReceive link flit msg => Sys2Proof.Machine.execFlitReceive link flit msg s
  | .linkRetrain link up => Sys2Proof.Machine.execLinkRetrain link up s
  | .hopForward p => Sys2Proof.Machine.execHopForward p s
  | .hopAdd p => Sys2Proof.Machine.execHopAdd p s
  | .hopDeposit p => Sys2Proof.Machine.execHopDeposit p s
  | .hopMulticast p => Sys2Proof.Machine.execHopMulticast p s
  | .chunkSweep part handle run chunk => Sys2Proof.Machine.execChunkSweep part handle run chunk s
  | .handleWrite part handle words => Sys2Proof.Machine.execHandleWrite part handle words s
  | .tbarArrival group rank time => Sys2Proof.Machine.execTbarArrival group rank time s
  | .tbarListSend group time => Sys2Proof.Machine.execTbarListSend group time s
  | .tbarListReceipt group time ranks => Sys2Proof.Machine.execTbarListReceipt group time ranks s
  | .tbarRelease group time => Sys2Proof.Machine.execTbarRelease group time s
  | .tokenRefill stack => Sys2Proof.Machine.execTokenRefill stack s
  | .logicTemperatureSample temps => Sys2Proof.Machine.execLogicTemperatureSample temps s
  | .dramTemperatureSample stack reading => Sys2Proof.Machine.execDramTemperatureSample stack reading s
  | .refreshBlock vault group => Sys2Proof.Machine.execRefreshBlock vault group s
  | .quietModeAdjust watts => Sys2Proof.Machine.execQuietModeAdjust watts s
  | .verticalBusRetry vault fails x => Sys2Proof.Machine.execVerticalBusRetry vault fails x s
  | .machineCheckWindowRead fn => Sys2Proof.Machine.execMachineCheckWindowRead fn s
  | .lrepairWrite v => Sys2Proof.Machine.execLrepairWrite v s
  | .lrepairSelect v => Sys2Proof.Machine.execLrepairSelect v s
  | .laneMapApply x => Sys2Proof.Machine.execLaneMapApply x s
  | .ccrunStart who cc => Sys2Proof.Machine.execCcrunStart who cc s
  | .ccrunStop who cc => Sys2Proof.Machine.execCcrunStop who cc s
  | .wdogWrite cc v => Sys2Proof.Machine.execWdogWrite cc v s
  | .watchdogExpiry cc => Sys2Proof.Machine.execWatchdogExpiry cc s
  | .tick => Sys2Proof.Machine.execTick s
  | .intpClear cc v => Sys2Proof.Machine.execIntpClear cc v s
  | .svcrecRead cc => Sys2Proof.Machine.execSvcrecRead cc s
  | .svcrplAnswer cc v => Sys2Proof.Machine.execSvcrplAnswer cc v s
  | .svcrplAnswerCc cc v => Sys2Proof.Machine.execSvcrplAnswerCc cc v s
  | .sqctlHoldSet cc => Sys2Proof.Machine.execSqctlHoldSet cc s
  | .sqctlHoldClear cc => Sys2Proof.Machine.execSqctlHoldClear cc s
  | .sqctlSccWrite cc scc => Sys2Proof.Machine.execSqctlSccWrite cc scc s
  | .mapperQuiet => Sys2Proof.Machine.execMapperQuiet s
  | .arm cc operand => Sys2Proof.Machine.execArm cc operand s
  | .endw cc operand => Sys2Proof.Machine.execEndw cc operand s
  | .raise cc operand => Sys2Proof.Machine.execRaise cc operand s
  | .mailboxErase fn off len => Sys2Proof.Machine.execMailboxErase fn off len s
  | .mailboxProgram fn off len => Sys2Proof.Machine.execMailboxProgram fn off len s
  | .mailboxRead fn off len => Sys2Proof.Machine.execMailboxRead fn off len s
  | .mailboxCommandDone => Sys2Proof.Machine.execMailboxCommandDone s
  | .getVersion => Sys2Proof.Machine.execGetVersion s
  | .getCapabilities => Sys2Proof.Machine.execGetCapabilities s
  | .negotiateAlgorithms => Sys2Proof.Machine.execNegotiateAlgorithms s
  | .getDigests => Sys2Proof.Machine.execGetDigests s
  | .getCertificate slot off len => Sys2Proof.Machine.execGetCertificate slot off len s
  | .challenge slot nonce => Sys2Proof.Machine.execChallenge slot nonce s
  | .getMeasurements index signed nonce => Sys2Proof.Machine.execGetMeasurements index signed nonce s
  | .unsupportedSpdmRequest code => Sys2Proof.Machine.execUnsupportedSpdmRequest code s
  | .reset => Sys2Proof.Machine.execReset s
  | .hostWake => Sys2Proof.Machine.execHostWake s
  | .deepestSleepEntry => Sys2Proof.Machine.execDeepestSleepEntry s
  | .powerRemoval => Sys2Proof.Machine.execPowerRemoval s
  | .ptpAnnounce src m => Sys2Proof.Machine.execPtpAnnounce src m s
  | .flowDescriptorWrite flow words => Sys2Proof.Machine.execFlowDescriptorWrite flow words s
  | .queueContextWrite part q words => Sys2Proof.Machine.execQueueContextWrite part q words s
  | .partitionDescriptorWrite part words => Sys2Proof.Machine.execPartitionDescriptorWrite part words s
  | .remoteWriteReceive pa bytes => Sys2Proof.Machine.execRemoteWriteReceive pa bytes s
  | .hostDoorbell => Sys2Proof.Machine.execHostDoorbell s
  | .dtimePassesWch w => Sys2Proof.Machine.execDtimePassesWch w s

end Sys2Proof.Machine
end

