-- ==== Sys2Proof/Machine/Registers.lean ====
section
/-! DEFINITION. The registers of the PCIe functions by their offsets (R388, Table 22.8). -/

namespace Sys2Proof.Machine

/-- The queue whose notify register lies at an offset. -/
def notifyQueue (off : Nat) : Option Nat :=
  if 0x20000 ≤ off ∧ off < 0x22000 ∧ off % 8 = 0 then some ((off - 0x20000) / 8) else none

/-- What a read at an offset gives, and what it leaves: the machine-check window pops a record, of which a read past the window's
first byte gives the rest; offsets that Table 22.8 does not name, and the registers of function 0 in another function, read zero, as
does everything but the boot status word and the mailbox in the recovery state (R375). Neither the fault reply register nor a notify
register has a stated value when it is read: free. [DESIGN CHOICE, safe] (entry 109) -/
def Run.regValue (r : Run) (fn off : Nat) : Nat × Run :=
  let s := r.dev.sec
  let free := (Config.freeWord (r.dev.nonce * 2 ^ 32)).toNat
  if fn = 0 ∧ off = 0x300 then (s.bootStatus, r)
  else if s.recov then
    if fn ≠ 0 then (0, r)
    else if off = 0x400 then (s.mbstat, r)
    else if off = 0x408 then (s.mbOff, r)
    else if off = 0x40C then (s.mbLen, r)
    else if 0x10000 ≤ off ∧ off < 0x20000 then
      (ofBytes ((List.range (min 4 (0x20000 - off))).map (fun i => lookD s.window (off - 0x10000 + i) 0)), r)
    else (0, r)
  else if off = 0x1000 ∨ (notifyQueue off).isSome then (free, r)
  else if fn ≠ 0 then (0, r)
  else if off = 0x100 then (r.thermalStatus, r)
  else if 0x200 ≤ off ∧ off < 0x220 then
    match r.mcPop 0 with
    | (some m, r) => (m.word / 2 ^ (8 * (off - 0x200)), r)
    | (none, r) => (0, r)
  else (0, r)

/-- The host reads a register, also of a device that a thermal trip has stopped (R345). -/
def Run.regRead (r : Run) (fn off : Nat) : Run :=
  if r.dev.on || r.dev.power.trip then (r.regValue fn off).2.emit (.regRead fn off (r.regValue fn off).1) else r

/-- The host writes a register: the mailbox through function 0, in the recovery state alone; the fault reply register and the notify
registers of the function's partition, outside it, these once the queues are enabled (R373). -/
def Run.regWrite (r : Run) (fn off v : Nat) : Run :=
  if r.dev.sec.recov then
    if fn ≠ 0 then r
    else if off = 0x404 then r.mbCmdWrite fn (v % 2 ^ 32)
    else if off = 0x408 then r.modSec (fun s => { s with mbOff := v % 2 ^ 32 })
    else if off = 0x40C then r.modSec (fun s => { s with mbLen := v % 2 ^ 32 })
    else if 0x10000 ≤ off ∧ off < 0x20000 then r.windowWrite fn (off - 0x10000) (bytesOf 4 v)
    else r
  else if off = 0x1000 then
    match v % 4 with
    | 0 => r.replyRetry fn (fld v 32 32)
    | 1 => r.replyFatal fn (fld v 32 32)
    | _ => r
  else match notifyQueue off with
    | some q => if r.dev.sec.stage = 7 then r.notify fn q v else r
    | none => r

end Sys2Proof.Machine
end

