-- ==== Sys2Proof/Machine/Turn.lean ====
section
/-! DEFINITION. A turn of the machine: what moves next and the inputs that are no instruction; and how a program is placed
before the agent that fetches it. -/

namespace Sys2Proof

/-- A step that has no words: an event of the opcode table. -/
def Instr.isEvent (i : Instr) : Bool := (encode i).isNone && (encodeCommand i).isNone

end Sys2Proof

namespace Sys2Proof.Machine

/-- The state in which a move acts: its time has passed, in a device that has power, and it has left the agenda. -/
def State.begin (s : State) (m : Move) (ms : List Move) : State :=
  { (if s.dev.on then s.pass (Run.of s).clockMhz m.dc else s) with agenda := ms }

/-- Nothing issues: no power, deepest sleep, a thermal trip, or the recovery state, in which CC3 alone runs (R18, R345,
R375). -/
def State.silent (s : State) (a : Agent) : Bool :=
  !s.dev.on || (s.dev.sec.recov && (match a with
    | .cc 3 => false
    | _ => true))

/-! ### Errors that strike storage (R351, R352, R354) -/

/-- The contained nodes that have staged a line. -/
def Run.stagers (r : Run) (pa : Nat) : List Nat := (r.dev.sched.grids.filter (fun e => r.isStaged e.1 pa)).map (·.1)

/-- Requests on the crossbar that carry a unit of memory: stores that their home has not applied, loads and atomics. -/
def Run.crossing (r : Run) (pa : Nat) : List Nat :=
  let hit := fun (xs : List Nat) => xs.any (fun x => x / 8 == pa / 8)
  let ms := r.dev.ms
  (ms.stores.filter (fun e => e.2.gwct.isNone && hit (run e.2.pa e.2.bytes.length))).map (·.1) ++
    (ms.loads.filter (fun e => hit e.2.addrs)).map (·.1) ++
    (ms.atomics.filter (fun e => e.2.lanes.any (fun x => hit (run x.2.1 e.2.size)))).map (·.1)

def Run.crossStrike (r : Run) (pa : Nat) : Run :=
  let ids := (r.crossing pa).filter (fun k => r.pick (14 * 2 ^ 80 + k) 2 == 1)
  r.modMs (fun m => { m with xbad := ids.foldl addNew m.xbad })

/-- An uncorrectable error in memory, at a row of Table 24.1: in an 8-byte unit of L2 (row 0); on the crossbar, in data in transfer (row 2); in
a staged line of the stacked cache, whose other lines are clean copies (row 4); in a line of GDDR 7 (row 5). Of the requests on their
way on the crossbar that concern the unit, a free choice says which the error strikes. -/
def Run.strike (r : Run) (row pa : Nat) : Run :=
  if !isGddr pa then r
  else match row with
    | 0 => r.addPoison none 0 [pa]
    | 2 => r.crossStrike pa
    | 4 => (r.stagers pa).foldl (fun r g => r.addPoison (some g) 4 (lineUnits pa)) r
    | 5 => r.addPoison none 5 (lineUnits pa)
    | _ => r

/-- The same in a word of an L1 line: a clean copy, which holds no private word and no store still on its way, is dropped. -/
def Run.strikeL1 (r : Run) (core key k : Nat) : Run :=
  match r.lineAt core key with
  | none => r
  | some l =>
    let pending := r.dev.ms.stores.any (fun e => e.2.core == core && e.2.gwct.isNone && nkey e.2.node e.2.pa / 128 == key)
    if l.dirty = 0 && !pending then r.setL1 core (delM (r.l1 core) key)
    else if k < 32 then r.putLine core key { l with bad := putM l.bad k 0 } else r

/-- The same in a register of a lane of a warp, or in one of the warp's own. -/
def Run.strikeReg (r : Run) (w lane : Nat) (x : Res) : Run :=
  match x with
  | .v _ => if lane < 32 then r.modWarp w (fun y => y.hurt lane x false) else r
  | .p _ => if lane < 32 then r.modWarp w (fun y => y.hurt lane x false) else r
  | _ => r.modWarp w (fun y => y.hurt 32 x false)

/-- The same in an 8-byte unit of a frame object (R352). -/
def Run.strikeFrame (r : Run) (flow obj unit : Nat) : Run :=
  r.modFlows (fun m => modM m flow (fun x => { x with objs := modM x.objs obj (fun o => { o with bad := putM o.bad unit 0 }) }))

/-- The PCIe link reports an error (Table 24.1). -/
def Run.pcieError (r : Run) : Run := (r.report 0 6 0 0xFF noAddr).emit .pcieError

/-- L2 gives a line back to a memory whose poison unit is the line. -/
def Run.spreadLine (r : Run) (key : Nat) : Run :=
  let node := keyNode (key * 128)
  let pa := key * 128 % 2 ^ 48
  match r.lineRow node pa with
  | some row => r.addPoison node row (lineUnits pa)
  | none => r

/-- An error that nothing checks changes a byte (R354). -/
def Run.gap (r : Run) (g : Gap) : Run :=
  match g with
  | .mem pa b => if isGddr pa then r.poke pa b else r
  | .team key b => r.modMs (fun m => { m with team := putD m.team key b 0 })
  | .bank core key off b =>
    if off < 32768 then r.modCore core (fun c => { c with banks := modM c.banks key (fun x => { x with data := overlayM x.data off [b] }) })
    else r
  | .operand core off b => r.modCore core (fun c => { c with operand := putD c.operand off b 0 })
  | .pixel f obj off b => r.modFlows (fun m => modM m f (fun x => { x with
      objs := modM x.objs obj (fun o => if (lookM o.data off).isSome then { o with data := putM o.data off b } else o) }))
  | .chunk key rank off b => r.modFabric (fun f => { f with
      chunks := modM f.chunks key (fun c => { c with conts := modM c.conts rank (fun m => modM m off (fun _ => b)) }) })

/-- An error that a check has corrected, at a row that reports it: errors on links are excepted, at row 5 those that retry corrects, and
the other rows correct none (R351). -/
def Run.corrected (r : Run) (row part core addr : Nat) : Run :=
  if row = 0 ∨ row = 3 ∨ row = 4 ∨ row = 5 then r.report 4 row part core addr else r

/-! ### System software, the host and peers -/

/-- Distinct ranks of cards, at most 64 (R283). -/
def ranksOk (l : List Nat) : Bool := l.all (fun x => decide (x < 64)) && decide (l.foldl addNew [] = l)

/-- System software sets a timed-barrier group and this card's rank in it (R283, R293). -/
def Run.setGroup (r : Run) (g : Nat) (ranks : List Nat) (rank : Nat) : Run :=
  if ranksOk ranks && ranks.contains rank then
    r.modFabric (fun f => { f with groups := putM f.groups g { ranks := ranks, rank := rank, arrivals := [], lists := [] } })
  else r

/-- System software sets the fabric group of the card (R283). -/
def Run.setFabricGroup (r : Run) (cards : List Nat) : Run :=
  if ranksOk cards then r.modFabric (fun f => { f with fgroup := cards }) else r

/-- Memory of the host or of a peer card changes at its owner's hand; this device's own memory does not. -/
def Run.foreignWrite (r : Run) (pa : Nat) (bs : List Byte) : Run :=
  if (run pa bs.length).all (fun a => isHost a || isPeer a) then r.pokes pa bs else r

/-- The inputs that are neither an issue nor an event of the table. -/
def Run.input (r : Run) (a : Act) : Run :=
  match a with
  | .issue _ => r
  | .together _ _ => r
  | .event _ => r
  | .poison row pa => r.strike row pa
  | .teamPoison key => r.modMs (fun m => { m with teamPoison := putM m.teamPoison key 0 })
  | .corePoison c key => r.modCore c (fun x => { x with xpoison := putM x.xpoison key 0 })
  | .l1Poison core key k => r.strikeL1 core key k
  | .regPoison w l x => r.strikeReg w l x
  | .evictL2 key => r.spreadLine key
  | .gap g => r.gap g
  | .framePoison flow obj unit => r.strikeFrame flow obj unit
  | .pcieError => r.pcieError
  | .shadowOp core id k sign q => r.shadowOp core id k sign q
  | .shadowRec id k sign q => r.shadowRec id k sign q
  | .peerAck id => r.peerAck id
  | .stagePoison key => r.stageError key
  | .corrected row p c a => r.corrected row p c a
  | .groupSet g ranks rank => r.setGroup g ranks rank
  | .fabricGroup cards => r.setFabricGroup cards
  | .ptpSet domain port => r.modPtp (fun p => p.choose domain port)
  | .blow => r.blow
  | .regRead fn off => r.regRead fn off
  | .regWrite fn off v => r.regWrite fn off v
  | .commitError g line => r.commitError g line
  | .bringUp => r.bringUp
  | .hardware k => r.modSec (fun s => { s with hw := k })
  | .window fn off bs => r.windowWrite fn off bs
  | .doe bs => r.modSec (fun s => { s with doe := bs })
  | .foreign pa bs => r.foreignWrite pa bs
  | .wait => r

/-- System software of the device, which a device in the recovery state does not serve (R375). -/
def Act.software (a : Act) : Bool :=
  match a with
  | .groupSet _ _ _ => true
  | .fabricGroup _ => true
  | .ptpSet _ _ => true
  | _ => false

/-- Inputs that a device which does not run takes: what becomes of its hardware, and of memory that is not its own, and a read of its
registers. -/
def Act.always (a : Act) : Bool :=
  match a with
  | .hardware _ => true
  | .foreign _ _ => true
  | .regRead _ _ => true
  | _ => false

/-! ### Placing an instruction where it is fetched next -/

/-- The bytes of a leaf whose slot `k` holds the instruction of the three words in `bs`, with extension bit `x`; the other
slots keep their words, but for those that the three words cover. -/
def placeLeaf (old : List Byte) (k : Nat) (x : Bool) (bs : List Byte) : List Byte :=
  let ctl := wordAt old 0
  let ctl := (List.range 3).foldl (fun c i => if k + i ≤ 7 then c - bits c (4 * (k + i) - 4) 4 * 2 ^ (4 * (k + i) - 4) else c) (ctl % 2 ^ 28)
  let ctl := ctl + b2n x * 2 ^ (4 * k - 1)
  bytesOf 4 ctl ++ (old.take (4 * k)).drop 4 ++ bs ++ old.drop (4 * k + bs.length)

/-- Writes 32 bytes at a physical leaf. -/
def State.putLeaf (s : State) (pa : Nat) (bs : List Byte) : State :=
  { s with mem := s.mem.writes (bs.zipIdx.map (fun e => (pa + e.2, e.1))) }

/-- The agent is the one whose turn comes. -/
def State.turnTo (s : State) (a : Agent) : State :=
  { s with
    cur := { Issue.idle with agent := a }
    agenda := if s.agenda.isEmpty then [] else { dc := 0, upset := none, act := .issue a } :: s.agenda }

/-- The slot that three words fit into, at or before slot `k`. -/
def fitSlot (k : Nat) : Nat := if k ≤ 5 then max k 1 else 1

/-- CC3 in machine mode is to fetch the instruction at its pc; out of its ROM, which holds what it holds, it is moved to the first
bank of firmware memory. -/
def State.placeCc (s : State) (x : Bool) (bs : List Byte) : State :=
  let at' := (s.dev.sys.cc.get 3).pc.toNat
  let pc := if isReserved at' && !isFirmware at' then bankBase 0 + 4 else at'
  let k := fitSlot (slotNo pc)
  let pa := pc / 32 * 32
  let s := s.putLeaf pa (placeLeaf (s.mem.readN pa 32) k x bs)
  let cc := s.dev.sys.cc.modify 3 (fun c => { c with pc := BitVec.ofNat 64 (pa + 4 * k), mode := .machine })
  { s with dev := { s.dev with sys := { s.dev.sys with cc := cc, ccrun := s.dev.sys.ccrun ||| 8 } } }.turnTo (.cc 3)

/-- A split that can fetch already, and that no other split is served before: its instruction is replaced. -/
def State.placeWarp (s : State) (w l : Nat) (x : Bool) (bs : List Byte) : Option State :=
  match lookM s.dev.warps w with
  | none => none
  | some wp =>
    let r := Run.of s
    let lanes := wp.split l
    let pc := (nthD wp.lanes (lanes.headD 0) Lane.absent).pc.toNat
    let k := fitSlot (slotNo pc)
    let rivals := s.dev.warps.any (fun e => e.1 != w && e.2.core == wp.core && e.2.part == wp.part)
    if lanes.isEmpty || wp.spilled || !canonical pc || rivals then none
    else match r.xlate ((r.spaceOfGrid (r.gridOf wp)).ofWarp wp.core wp.part) .fetch false (pc / 32 * 32) with
      | .fail _ _ => none
      | .ok pa _ =>
        let s := s.putLeaf pa (placeLeaf (s.mem.readN pa 32) k x bs)
        let key := nkey (r.nodeOf (r.gridOf wp)) pa / 32
        let wp' := wp.onLanes lanes (fun _ y => { y with pc := BitVec.ofNat 64 (pc / 32 * 32 + 4 * k), wait := .none, turn := 0 })
        let core := r.core wp.core
        let dev := { s.dev with
          warps := putM s.dev.warps w wp'
          cores := putM s.dev.cores wp.core { core with icache := delM core.icache key } }
        some ({ s with dev := dev }.turnTo (.warp w l))

/-- The packet of a grid of one team of one warp, with its code at 0x2000000. -/
def probePacket : Packet :=
  { handler := 0, pre := [0, 0, 0, 0], bars := 0, pred := [], tbg := [], shedm := 0, precnt := 0, banks := 0, team := 0,
    priv := 16, regs := 14, coop := false, cont := false, shed := false, ovl := false, cls := 0, gang := 0, nz := 0, ny := 0,
    nx := 31, gz := 0, gy := 0, gx := 0, deadline := 0, colo := 0, param := 0, entry := 0x2000004, clean := true }

/-- Page tables in which the first 512 MiB of addresses are the first 512 MiB of memory. -/
def probeTables : List (Nat × Byte) :=
  (bytesOf 8 (1 + 2 ^ 9 + 0x101 * 2 ^ 16)).zipIdx.map (fun e => (0x1000000 + e.2, e.1)) ++
    (bytesOf 8 0x9F).zipIdx.map (fun e => (0x1010000 + e.2, e.1))

def probeQueue : Queue :=
  { v := true, err := false, cls := 0, logn := 4, ring := 0, ridx := 0, widx := 0, privb := 0x4000000, pshr := 16, schkd := 0,
    reca := 0x8000000, recsz := 16, asid := 0, root := 0x100, asv := true }

def probePart : Part :=
  { v := true, fring := 0, scsh := 0, eng := BitVec.allOnes 32, func := 0, groups := BitVec.allOnes 16, ranges := [(0, 36)],
    lease := 512 }

/-- A launch from outside: a partition, a queue, a grid of one team and one warp of 32 live threads on a core that holds no warp,
whose first instruction is the one given. -/
def State.launchProbe (s : State) (x : Bool) (bs : List Byte) : State :=
  let sc := s.dev.sched
  let c := ((List.range 128).find? (fun c => !s.dev.warps.any (fun e => e.2.core == c))).getD 0
  let g := sc.nextUid
  let t := g + 1
  let w := g + 2
  let leaf := placeLeaf (List.replicate 32 0) 1 x bs
  let s := { s with mem := s.mem.writes probeTables }.putLeaf 0x2000000 leaf
  let warp := Warp.start probePacket 0 c 0 t 0 (fun _ => true) 0x4000000 barsDefault
  let grid := { Grid.start probePacket 0 0 (some 0) 0 none 0 0 none with st := .running, nextTeam := 1 }
  let team := Team.start probePacket g 0 [c] probePacket.tbarDefault
  let core := (Run.of s).core c
  let sched := { sc with
    parts := putM sc.parts 0 probePart
    queues := putM sc.queues (qkey 0 0) probeQueue
    grids := putM sc.grids g grid
    teams := putM sc.teams t team
    tlb := []
    nextUid := g + 3 }
  let dev := { s.dev with
    on := true
    warps := putM s.dev.warps w warp
    cores := putM s.dev.cores c { core with icache := [] }
    sched := sched }
  { s with dev := dev }.turnTo (.warp w 0)

/-- The machine that is about to fetch and run the instruction whose words are `bs`. -/
def State.place (s : State) (x : Bool) (bs : List Byte) : State :=
  let i := match decodeBytes x bs with
    | .ok (i, _) => some i
    | .error _ => none
  let needsCc := match i with
    | some i => !i.warpMode .user && i.onCc
    | none => false
  if needsCc then s.placeCc x bs
  else match s.cur.agent, s.agenda with
    | .warp w l, [] => (s.placeWarp w l x bs).getD (s.launchProbe x bs)
    | _, _ => s.launchProbe x bs

end Sys2Proof.Machine
end

