-- ==== Sys2Proof/Machine/Step.lean ====
section
/-! DEFINITION. One step of the machine. -/

namespace Sys2Proof.Machine

/-- An agent's turn: it, or the split that is served before it, fetches and runs one instruction. -/
def stepIssue (s : State) (u : Option Upset) (a : Agent) : Host.Outcome State Fault Refusal :=
  if s.silent a then .next s else s.turn exec u a

/-- What a move does in the state in which its time has passed. -/
def stepAct (s : State) (u : Option Upset) (a : Act) : Host.Outcome State Fault Refusal :=
  match a with
  | .issue ag => stepIssue s u ag
  | .together w ls => .next (if s.silent (.warp w 0) then s else s.together exec w ls)
  | .event i => if i.isEvent && s.serves i then exec i s else .next s
  | a => if (s.dev.on || a.always) && !(s.dev.sec.recov && a.software) then act (fun r => r.input a) s else .next s

/-- The first move of the agenda; with none, the current agent goes on. -/
def stepMove (s : State) : Host.Outcome State Fault Refusal :=
  match s.agenda with
  | [] => stepIssue s none s.cur.agent
  | m :: ms => stepAct (s.begin m ms) m.upset m.act

/-- One step, after which threads in handlers whose conditions have come true are marked (R302). -/
def step (s : State) : Host.Outcome State Fault Refusal :=
  match stepMove s with
  | .next t => .next (t.observe exec)
  | o => o

/-- `s` about to fetch and run the instruction of `nbits` bits `w`, as the opcode table numbers them. -/
def State.withFetchWord (s : State) (nbits w : Nat) : State :=
  s.place (tableX nbits (w % 2 ^ 32)) (tableBytes nbits w)

end Sys2Proof.Machine
end

