-- ==== Sys2Proof/Safety.lean ====
section
/-! DEFINITION. The terms that statements use: a split that is about to issue, a control core and a list position likewise,
and what an instruction leaves as it was. -/

namespace Sys2Proof.Machine

/-- A step's outcome once the waits of threads in handlers have been looked at (R302). -/
def observed (o : Host.Outcome State Fault Refusal) : Host.Outcome State Fault Refusal :=
  match o with
  | .next t => .next (t.observe exec)
  | x => x

/-- No split is served before that of lane `l` of warp `w`: no other warp is in its core partition, and of its own warp's splits it has
waited longest (R29). -/
structure Unrivalled (s : State) (w l : Nat) (wp : Warp) : Prop where
  alone : ∀ e ∈ s.dev.warps, e.1 ≠ w → e.2.core = wp.core → e.2.part ≠ wp.part
  longest : wp.waitsLonger l = false

/-- The split of lane `l` of warp `w`, whose warp is `wp`, is the one that issues `i`, and R80's checks let it: the mode
may issue it, its encoding is legal here, no operand is read too early under a checking scoreboard, no result that it
needs is outstanding, and no register that it reads holds an error (R352). -/
structure Ready (s : State) (i : Instr) (w l : Nat) (wp : Warp) : Prop where
  agent : s.cur.agent = .warp w l
  warp : lookM s.dev.warps w = some wp
  split : wp.split l ≠ []
  here : wp.spilled = false
  mode : i.warpMode wp.mode = true
  legal : i.legalFor wp ((Run.of s).kernelFor i wp) = true
  chk : (wp.chk && underrun wp (wp.split l) i.use) = false
  sb : scoreboard wp (wp.split l) i.use = false
  sound : badRegs wp (wp.split l) i.use = false

/-- No lane of the warp has a result that stall counts do not yet cover (R70). -/
def Warp.calm (wp : Warp) : Prop := ∀ k, (nthD wp.lanes k Lane.absent).haz = []

/-- Control core `k` runs and is the one that issues `i`, which its mode and the encoding allow (R80, R387). -/
structure ReadyCc (s : State) (i : Instr) (k : Nat) : Prop where
  agent : s.cur.agent = .cc k
  core : k < 4
  runs : s.dev.sys.ccrun.getLsbD k = true
  mode : i.ccMode ((Run.of s).cc k).mode = true
  legal : i.wf = true
  here : i.onCc = true
  sys : i.sysCause (some k) ((Run.of s).cc k).mode = 0

/-- The list in position `p` of engine `e` is the one whose command is processed, and it is running. -/
structure ReadyList (s : State) (e p : Nat) (x : CmdList) : Prop where
  agent : s.cur.agent = .list e p
  list : lookM s.dev.lists (e * 16 + p) = some x
  runs : x.ready = true

/-- What the instruction sees of its split. -/
def State.env (s : State) (i : Instr) (w l : Nat) (wp : Warp) : Env := (Run.of s).envOf i w wp (wp.split l)

/-- The run in which a ready split's instruction takes effect: what it tells of its launch is known (R43). -/
def State.served (s : State) (i : Instr) (wp : Warp) : Run := (Run.of s).tellKernel i wp

/-- Lane `k` of warp `w` of a state. -/
def State.laneOf (s : State) (w k : Nat) : Lane :=
  match lookM s.dev.warps w with
  | some wp => nthD wp.lanes k Lane.absent
  | none => Lane.absent

/-- Lane register `n` of lane `k` of warp `w`. -/
def State.v (s : State) (w k n : Nat) : Word := lookD (s.laneOf w k).v n 0

/-- Predicate `n` of lane `k` of warp `w`: pt reads true. -/
def State.p (s : State) (w k n : Nat) : Bool := n == 15 || (s.laneOf w k).p.getLsbD n

/-- Uniform register `n` of warp `w`: sz reads zero. -/
def State.s (s : State) (w n : Nat) : Word :=
  match lookM s.dev.warps w with
  | some wp => wp.getS n
  | none => 0

/-- Uniform predicate `n` of warp `w`: gt reads true. -/
def State.g (s : State) (w n : Nat) : Bool :=
  n == 7 || (match lookM s.dev.warps w with
    | some wp => wp.g.getLsbD n
    | none => false)

/-- The lanes `ls` of warp `w` have gone on to the next slot and wait for nothing (R158). -/
def Past (s t : State) (w : Nat) (ls : List Nat) (words : Nat) : Prop :=
  ∀ k ∈ ls, (t.laneOf w k).pc = nextPc (s.laneOf w k).pc words ∧ (t.laneOf w k).wait = .none

/-- A core but for the use of its ports (R12, R69). -/
def Core.still (c : Core) : Core := { c with ports := [], fp64 := [] }

/-- A warp but for its lanes and what any issue moves: the cycles of its last issues and since when a port passes it over, the number
of its grants, promotions that are over, the exception flags still to come (R55), and the poison of registers that it has
written (R29, R30, R352). -/
def Warp.still (wp : Warp) : Warp :=
  { wp with lanes := [], promoted := [], issued := [], since := [], raising := [], turns := 0, bad := [] }

/-- A lane but for the hazards of uniform registers, which a write by another split ends (R72). -/
def Lane.still (l : Lane) : Lane := { l with haz := [] }

/-- Everything outside warp `w` is as it was, memory among it, but for the use of its core's ports. -/
structure FrameWarp (s t : State) (w : Nat) : Prop where
  clk : t.clk = s.clk
  mem : t.mem = s.mem
  agenda : t.agenda = s.agenda
  cur : { t.cur with ended := .ok } = { s.cur with ended := .ok }
  warps : ∀ k, k ≠ w → lookM t.dev.warps k = lookM s.dev.warps k
  cores : ∀ c, ((Run.of t).core c).still = ((Run.of s).core c).still
  dev : { t.dev with warps := [], cores := [], nonce := 0 } = { s.dev with warps := [], cores := [], nonce := 0 }

/-- The state after a ready split's instruction that has completed with run `r`: its issue entered (R25, R29, R70), its lanes at the
next slot, waiting for nothing. -/
def State.through (s : State) (i : Instr) (w l : Nat) (wp : Warp) (r : Run) : State :=
  finish s (((r.issued (s.env i w l wp) wp i s.cur.stall).advance (s.env i w l wp)).note .ok)

/-- The same for an instruction that has set program counters and waits itself. -/
def State.moved (s : State) (i : Instr) (w l : Nat) (wp : Warp) (r : Run) : State :=
  finish s ((r.issued (s.env i w l wp) wp i s.cur.stall).note .ok)

/-- A split's issue group has taken the port of its cycle, and nothing else has happened: its instruction faults (R12, R28). -/
def State.took (s : State) (i : Instr) (w l : Nat) (wp : Warp) : Run := (Run.of s).took (s.env i w l wp) wp i

/-- The state after a precise trap of a split's instruction, which has had no effect in any lane (R301). -/
def State.trapped (s : State) (i : Instr) (w l : Nat) (wp : Warp) (cause addr tlane : Nat) : State :=
  finish s (((s.took i w l wp).deliver w (wp.split l) cause addr tlane (s.env i w l wp).pc).note (.trap tlane))

/-- The state after a replayable fault of a split's instruction, met in lane `lane` (R301). -/
def State.faulted (s : State) (i : Instr) (w l : Nat) (wp : Warp) (va kind why lane : Nat) : State :=
  finish s (((s.took i w l wp).pageFault w (wp.split l) lane va kind why).note .fault)

/-- The state after an instruction of a split that has consumed poison (R352). -/
def State.checkedOut (s : State) (i : Instr) (w l : Nat) (wp : Warp) (row addr : Nat) : State :=
  finish s (((s.took i w l wp).machineCheck ((Run.of s).gridOf wp) wp.core 0x10 0 row addr).note .check)

/-- The numbers of Table 4.2 that name an identity value or a size, and what the thread of lane `k` reads there (Tables 2.1 and 4.2);
a relaunched warp is a team of its own (R228). -/
def identityTable (x : Grid) (tm : Team) (wp : Warp) (k : Nat) : List (Nat × Nat) :=
  let p := x.pkt
  let tidx := 32 * wp.wid + k
  let team := match wp.serial with
    | some n => [(0x06, n % 2 ^ 20), (0x07, 0), (0x08, 0), (0x12, 1)]
    | none => [(0x06, tm.idx % (p.gx + 1)), (0x07, tm.idx / (p.gx + 1) % (p.gy + 1)), (0x08, tm.idx / (p.gx + 1) / (p.gy + 1)),
               (0x12, 2 ^ p.gang)]
  team ++ [(0x00, k), (0x01, wp.wid), (0x02, tidx), (0x03, tidx % (p.nx + 1)), (0x04, tidx / (p.nx + 1) % (p.ny + 1)),
    (0x05, tidx / (p.nx + 1) / (p.ny + 1)), (0x09, wp.core), (0x0A, tm.cores.findIdx (fun c => c == wp.core)), (0x0B, x.depth),
    (0x0C, p.nx + 1), (0x0D, p.ny + 1), (0x0E, p.nz + 1), (0x0F, p.gx + 1), (0x10, p.gy + 1), (0x11, p.gz + 1), (0x13, wp.part),
    (0x16, wp.regs), (0x17, wp.privSize), (0x18, p.teamBytes)]

/-- The state after an instruction that waits; `r` holds what it has begun. -/
def State.waits (s : State) (w l : Nat) (wp : Warp) (r : Run) (y : Why) : State :=
  finish s ((r.onLanes w (wp.split l) (fun _ x => { x with wait := .ready y })).note .ok)

/-- What an instruction sees of control core `k`. -/
def State.envCc (s : State) (i : Instr) (k : Nat) : Env := (Run.of s).ccEnv i k

/-- The state after control core `k`'s instruction that has completed with run `r`. -/
def State.throughCc (s : State) (i : Instr) (k : Nat) (r : Run) : State :=
  finish s (r.modCc k (fun c => { c with
    pc := nextPc ((Run.of s).cc k).pc i.words, waiting := 0, ready := r.ccReady }))

/-- The same for an instruction that has set the program counter or the wait of its control core itself. -/
def State.movedCc (s : State) (k : Nat) (r : Run) : State :=
  finish s (r.modCc k (fun c => { c with ready := r.ccReady }))

/-- The state after a list's command that goes on to the next one. -/
def State.listNext (s : State) (l : Nat) (r : Run) : State := finish s (r.modList l (fun y => { y with pos := y.pos + 8 }))

/-- The canonical form of a state's memory. -/
def State.memOk (s : State) : Prop := s.mem.wf = true

/-! ### Instructions that compute one result -/

end Sys2Proof.Machine

namespace Sys2Proof

/-- The guard of an instruction that computes a result in each of its lanes and does nothing else. -/
def Instr.lanewise (i : Instr) : Option Nat :=
  match i with
  | .fadd o => some o.g
  | .fmul o => some o.g
  | .ffma o => some o.g
  | .pkadd o => some o.g
  | .pkmul o => some o.g
  | .pkfma o => some o.g
  | .dadd o => some o.g
  | .dmul o => some o.g
  | .dfma o => some o.g
  | .fmin o => some o.g
  | .fmax o => some o.g
  | .pkmnmx o => some o.g
  | .fsetp o => some o.g
  | .func o => some o.g
  | .flerp o => some o.g
  | .bysel o => some o.g
  | .iadd o => some o.g
  | .isub o => some o.g
  | .imul o => some o.g
  | .imad o => some o.g
  | .imin o => some o.g
  | .imax o => some o.g
  | .and o => some o.g
  | .or o => some o.g
  | .xor o => some o.g
  | .logt o => some o.g
  | .shl o => some o.g
  | .shr o => some o.g
  | .sar o => some o.g
  | .shf o => some o.g
  | .bfe o => some o.g
  | .bfi o => some o.g
  | .popc o => some o.g
  | .clz o => some o.g
  | .ctz o => some o.g
  | .brev o => some o.g
  | .iabs o => some o.g
  | .ineg o => some o.g
  | .isetp o => some o.g
  | .sel o => some o.g
  | .mov o => some o.g
  | .pset o => some o.g
  | .shfl o => some o.g
  | .matchw o => some o.g
  | .rnd g _ _ _ _ => some g
  | .cvt g _ _ _ => some g
  | .plnp g _ _ _ => some g
  | .plnu g _ _ _ => some g
  | .movi g _ _ _ => some g
  | .movu g _ _ _ => some g
  | .p2v g _ _ => some g
  | .v2p g _ _ => some g
  | _ => none

/-- The guard and the destination of an instruction that writes one uniform register and does nothing else. -/
def Instr.uniwise (i : Instr) : Option (Nat × Nat) :=
  match i with
  | .uadd o => some (o.g, o.d)
  | .usub o => some (o.g, o.d)
  | .umul o => some (o.g, o.d)
  | .uand o => some (o.g, o.d)
  | .uor o => some (o.g, o.d)
  | .uxor o => some (o.g, o.d)
  | .ushl o => some (o.g, o.d)
  | .ushr o => some (o.g, o.d)
  | .usar o => some (o.g, o.d)
  | .umin o => some (o.g, o.d)
  | .umax o => some (o.g, o.d)
  | .uminu o => some (o.g, o.d)
  | .umaxu o => some (o.g, o.d)
  | .umov o => some (o.g, o.d)
  | .umovi g d _ _ => some (g, d)
  | .usel o _ => some (o.g, o.d)
  | .ubfe o _ => some (o.g, o.d)
  | .ubit g d _ _ _ => some (g, d)
  | .umulh o _ => some (o.g, o.d)
  | _ => none

/-- The guard of an instruction that is executed once for its issuer under a uniform guard (R74, R77). -/
def Instr.uniGuard (i : Instr) : Option Nat :=
  match i with
  | .ubra g _ => some g
  | .ucall g _ _ => some g
  | .uret g _ => some g
  | .ujmpx g _ _ _ => some g
  | .barSync o => some o.g
  | .barArrive o => some o.g
  | .tsleep g _ _ => some g
  | .mfsr g _ _ _ => some g
  | .mtsr g _ _ _ => some g
  | .eret g => some g
  | .tlbiPage g _ _ _ => some g
  | .tlbiPart g _ => some g
  | .tlbiAll g _ => some g
  | .cinvIcache g _ => some g
  | .cinvCcache g _ => some g
  | .cinvL1 g _ => some g
  | .wfi g => some g
  | .halt g => some g
  | .hirq g _ _ => some g
  | .ecall g _ _ _ => some g
  | .cflush g _ _ => some g
  | .cbind g _ _ _ _ => some g
  | .cbindUnb g _ _ => some g
  | .usetp o => some o.g
  | .upset o => some o.g
  | .usprRead g _ _ => some g
  | .usprWrite g _ _ => some g
  | .ureadl g _ _ _ _ => some g
  | .uld o => some o.g
  | .ust o => some o.g
  | .utime g _ _ => some g
  | .mbindRx g _ _ _ => some g
  | .mbindOut g _ _ _ _ => some g
  | .frpub g _ _ _ => some g
  | .cstart g _ _ => some g
  | .cwait o => some o.g
  | .cstat g _ _ _ => some g
  | .tbar g _ _ _ => some g
  | .mclaim g _ _ _ => some g
  | .mrel g _ _ _ _ => some g
  | .mlds g _ _ _ _ => some g
  | .mldsQ g _ _ _ _ _ => some g
  | .mwld g _ _ _ _ => some g
  | .mhad g _ _ _ _ => some g
  | .maccSt g _ _ _ _ => some g
  | .maccLd g _ _ _ _ => some g
  | .mzero g _ => some g
  | .mwait g _ _ => some g
  | .mma g _ => some g
  | .launch g _ _ => some g
  | .qbind g _ _ _ _ => some g
  | .qwait g _ _ _ => some g
  | .qrel g _ _ _ => some g
  | .qstat g _ _ _ => some g
  | .sego o _ => some o.g
  | .secan g _ _ => some g
  | .trisub o _ => some o.g
  | i => i.uniwise.map (·.1)

end Sys2Proof

namespace Sys2Proof.Machine

/-- The fields of a lane that neither a result nor an issue touches. -/
def Lane.rest (l : Lane) : Lane :=
  { l with v := [], p := 0, pc := 0, wait := .none, haz := [], ready := 0, turn := 0, wrote := (0, []), bad := [] }

/-- What an instruction of `lanewise` does to the state besides the values of its results: its lanes go on to the next slot; lanes
outside the split, lanes whose guard is false, registers and predicates that are not its destinations, the uniform registers
and every other field of the warp are as they were, but for the flags that it raises; and nothing outside the warp moves. -/
structure LaneEffect (s t : State) (i : Instr) (g w l : Nat) (wp : Warp) : Prop where
  frame : FrameWarp s t w
  past : Past s t w (wp.split l) i.words
  others : ∀ k, k ∉ wp.split l → t.laneOf w k = s.laneOf w k
  regs : ∀ k n, Res.v n ∉ i.use.w → t.v w k n = s.v w k n
  preds : ∀ k n, Res.p n ∉ i.use.w → t.p w k n = s.p w k n
  guarded : ∀ k, (s.env i w l wp).p k g = false → ∀ n, t.v w k n = s.v w k n ∧ t.p w k n = s.p w k n
  lane : ∀ k, (t.laneOf w k).rest = (s.laneOf w k).rest
  warp : ∃ wp', lookM t.dev.warps w = some wp' ∧ (∃ fl, fl < 32 ∧ wp'.wst = wp.wst ||| word fl) ∧
    { wp'.still with wst := 0 } = { wp.still with wst := 0 }

/-- What an instruction of `uniwise` that a warp issues does besides the value of its result. -/
structure UniEffect (s t : State) (i : Instr) (d w l : Nat) (wp : Warp) : Prop where
  frame : FrameWarp s t w
  past : Past s t w (wp.split l) i.words
  others : ∀ k, k ∉ wp.split l → (t.laneOf w k).still = (s.laneOf w k).still
  lane : ∀ k, (t.laneOf w k).v = (s.laneOf w k).v ∧ (t.laneOf w k).p = (s.laneOf w k).p ∧ (t.laneOf w k).rest = (s.laneOf w k).rest
  regs : ∀ n, n ≠ d → t.s w n = s.s w n
  warp : ∃ wp', lookM t.dev.warps w = some wp' ∧ { wp'.still with s := [] } = { wp.still with s := [] }

/-- Control core `k` of a state. -/
def State.core (s : State) (k : Nat) : CtlCore := (Run.of s).cc k

/-- What an instruction of one uniform register does when control core `k` issues it, besides the value of its result. -/
structure CcEffect (s t : State) (i : Instr) (d k : Nat) : Prop where
  clk : t.clk = s.clk
  mem : t.mem = s.mem
  agenda : t.agenda = s.agenda
  cur : t.cur = s.cur
  dev : { t.dev with sys := s.dev.sys, nonce := 0 } = { s.dev with nonce := 0 }
  sys : { t.dev.sys with cc := s.dev.sys.cc } = s.dev.sys
  others : ∀ j, j < 4 → j ≠ k → t.core j = s.core j
  past : (t.core k).pc = nextPc (s.core k).pc i.words ∧ (t.core k).waiting = 0
  rest : { t.core k with s := [], pc := 0, waiting := 0, ready := 0 } = { s.core k with s := [], pc := 0, waiting := 0, ready := 0 }
  regs : ∀ n, n ≠ d → lookD (t.core k).s n 0 = lookD (s.core k).s n 0

/-- What an instruction that a warp issues leaves alone: everything outside the warp, lanes outside the split, every register
and predicate that it does not name as written, and the warp's other fields. -/
structure IssueFrame (s t : State) (i : Instr) (w l : Nat) (wp : Warp) : Prop where
  frame : FrameWarp s t w
  others : ∀ k, k ∉ wp.split l → (t.laneOf w k).still = (s.laneOf w k).still
  regs : ∀ k n, Res.v n ∉ i.use.w → t.v w k n = s.v w k n
  preds : ∀ k n, Res.p n ∉ i.use.w → t.p w k n = s.p w k n
  uregs : ∀ n, Res.s n ∉ i.use.w → t.s w n = s.s w n
  upreds : ∀ n, Res.g n ∉ i.use.w → t.g w n = s.g w n
  warp : ∃ wp', lookM t.dev.warps w = some wp' ∧ { wp'.still with s := [], g := 0 } = { wp.still with s := [], g := 0 }

/-- What VOTE, USETP and their like leave alone in a warp that issues them: everything but its lanes, its uniform registers
and its uniform predicates. -/
structure WarpOnly (s t : State) (i : Instr) (w l : Nat) (wp : Warp) : Prop where
  frame : FrameWarp s t w
  past : Past s t w (wp.split l) i.words
  others : ∀ k, k ∉ wp.split l → (t.laneOf w k).still = (s.laneOf w k).still
  warp : ∃ wp', lookM t.dev.warps w = some wp' ∧
    { wp'.still with s := [], g := 0, wst := 0, latch := none } = { wp.still with s := [], g := 0, wst := 0, latch := none }

end Sys2Proof.Machine
end

