-- ==== Sys2Proof/Certificates/Slice0/Obligations.lean ====
section
/-! DEFINITION. The statements for the provers. An issue is that of a `Ready` split, of a `ReadyCc` control core or of a
`ReadyList` list position; the hypotheses of a statement speak of the state and the operands alone. -/

open Sys2Proof Sys2Proof.Machine

/-! ### The machine: reset, memory, encodings, the step -/

/-- What reset leaves: CC3 alone runs, in machine mode (R365), and the registers that Tables 20.1, 20.2 and 26.1 give a reset value
hold it; the token pools are full (R341), DTIME is zero (R263), PTP is unlocked with PBASE, DBASE and RATE 0 (R263, R264) in
domain 127 (R265), and every flow descriptor holds the reset values of Table 17.3 (R268). -/
def Obligations.ResetGivesTheStatedValues : Prop :=
  let d := State.reset.dev
  let f := FlowDesc.reset
  State.reset.clk.dtime = 0 ∧ d.sys.ccrun = 8#4 ∧ d.warps = [] ∧
  (∀ k, k < 4 → let c := (Run.of State.reset).cc k
    c.mode = (if k = 3 then .machine else .supervisor) ∧ c.hbeat = 0 ∧ c.wdog = 0 ∧ c.intp = 0 ∧ c.busy = false ∧
      c.lpsel = 0) ∧
  d.sys.talw = 0x01000100 ∧ d.sys.tokrate = 9200 ∧ d.sys.qclk = 2300 ∧ d.sys.qpwr = 1200 ∧ d.sys.hold = false ∧
  d.sys.scc = 0 ∧ d.sys.hoptr = 0 ∧ d.power.tokens = [9200, 9200] ∧ d.ptp.st = .unlocked ∧ d.ptp.steps = 0 ∧
  (Run.of State.reset).leaseLen 0 = 512 ∧
  d.ptp.pbase = 0 ∧ d.ptp.dbase = 0 ∧ d.ptp.rate = 0 ∧ d.ptp.domain = 127 ∧ (Run.of State.reset).ptime = 0 ∧
  (∀ k, k < 512 → (Run.of State.reset).flow k = some Flow.reset) ∧
  f.en = false ∧ f.depth = 1 ∧ f.fden = 50 ∧ f.fnum = 1 ∧ f.fill = [64, 512, 512] ∧ f.pt = 96 ∧ f.offs = 0 ∧ f.buf = 0

/-- Memory's canonical form holds at reset (the form is the model's). -/
def Obligations.ResetMemoryIsCanonical : Prop :=
  State.reset.memOk

/-- Every step keeps memory's canonical form: addresses rising, no entry equal to what an unlisted byte reads as. -/
def Obligations.StepKeepsMemoryCanonical : Prop :=
  ∀ s t : State, s.memOk → step s = .next t → t.memOk

/-- DTIME never steps while power lasts (R263): no step sets it back, but one that removes power. It counts the core cycles that pass
at the clock in force, whole ns at a time, the rest being kept (R18); a move lets its own cycles pass first, and one that is
neither an issue nor a reset lets no more pass. -/
def Obligations.StepNeverMovesTimeBack : Prop :=
  (∀ s t : State, s.dev.on = true → step s = .next t →
    (∀ m ms, s.agenda = m :: ms → m.act ≠ .event .powerRemoval ∧ m.act ≠ .event .deepestSleepEntry) →
    s.clk.dtime ≤ t.clk.dtime) ∧
  (∀ (c : Clock) (mhz dc : Nat), 0 < mhz → let d := c.pass mhz dc
    d.cycles = c.cycles + dc ∧ d.sub < mhz ∧ d.dtime * mhz + d.sub = c.dtime * mhz + c.sub + 1000 * dc) ∧
  (∀ (s t : State) (m : Move) (ms : List Move), s.agenda = m :: ms → s.dev.on = true →
    (match m.act with
      | .issue _ => False
      | .together _ _ => False
      | .event i => i ≠ .powerRemoval ∧ i ≠ .deepestSleepEntry ∧ i ≠ .reset ∧ i ≠ .hostWake
      | _ => True) →
    step s = .next t → t.clk = s.clk.pass (Run.of s).clockMhz m.dc)

/-- Words that the manual writes out decode to the instructions they stand for (R73, R74, R78, R85, R95, R100), and so do two words
whose fields Table 6.4 lays out, a CVT to part 2 that inserts and does not saturate (R111). -/
def Obligations.WrittenWordsDecode : Prop :=
  decode { w := 0x78200104, x := some 0x00210000, l := none } =
    .ok (.iadd { g := 15, d := 0, a := 2, b := 4, x := some ⟨0, 1, false, false, false, false, true, 0⟩ }) ∧
  decode { w := 0x78204185, x := some 0x00220000, l := none } =
    .ok (.iadd { g := 15, d := 1, a := 3, b := 5, x := some ⟨0, 1, false, false, false, true, false, 0⟩ }) ∧
  decode { w := 0xF4FFFFFF, x := none, l := none } = .ok (.uor { g := 7, d := 255, a := 255, b := 255, lit := none }) ∧
  decode { w := 0x7B410280, x := some 0x00290004, l := none } =
    .ok (.shfl { g := 15, d := 4, a := 5, b := 0, x := some { mode := 2, k := true, pd := 2, imm := 4 } }) ∧
  decode { w := 0xFF080000, x := some 0x00010000, l := none } = .ok (.umovi 7 8 0x10000 false) ∧
  decode { w := 0x7DA50200, x := some 0x00300050, l := none } =
    .ok (.cvt 15 20 4 (.lx ⟨3, 0, 0, false, false, 0, 0, 2, true⟩)) ∧
  decode { w := 0, x := none, l := none } = .error .noMajor

/-- The encoder and the decoder agree on every well-formed instruction that has words (R73, R74) and on every well-formed stream
command (R196, Table 12.6). -/
def Obligations.EveryEncodingDecodesBack : Prop :=
  (∀ (i : Instr) (c : Code), i.wf = true → encode i = some c →
     decode c = .ok i ∧ c.w < 2 ^ 32 ∧ (∀ x ∈ c.x, x < 2 ^ 32) ∧ (∀ x ∈ c.l, x < 2 ^ 32)) ∧
  (∀ (i : Instr) (c : Nat), i.wf = true → encodeCommand i = some c → decodeCommand c = .ok i ∧ c < 2 ^ 64)

/-- A step runs the decoded instruction. A split that is served, whose program counter is canonical, translates, is valid and reads
no poison runs what its leaf's slot decodes to, with the slot's stall count, in the cycle and on the port of its issue; a control
core likewise, physically or from its ROM; a list position runs the command at its place; a move of the agenda passes its time first,
then issues or runs its event. Then the waits of threads in handlers are looked at (R302), which changes nothing in any other thread.
Which agent issues next is the agenda's, and CC3's ROM stands past firmware memory: the model's choices, entries 3 and 110. -/
def Obligations.StepRunsTheInstruction : Prop :=
  (∀ (s : State) (w l pa stall n : Nat) (rem : Bool) (wp : Warp) (i : Instr),
    let r := Run.of s
    let pc := (nthD wp.lanes ((wp.split l).headD 0) Lane.absent).pc.toNat
    let leaf := r.leafBytes wp.core (r.nodeOf (r.gridOf wp)) pa
    s.agenda = [] → s.cur.agent = .warp w l → s.silent (.warp w l) = false → lookM s.dev.warps w = some wp →
    Unrivalled s w l wp → wp.split l ≠ [] → wp.spilled = false → canonical pc = true →
    r.xlate ((r.spaceOfGrid (r.gridOf wp)).ofWarp wp.core wp.part) .fetch false (pc / 32 * 32) = .ok pa rem →
    pcValid pc = true → r.poisonRow (r.nodeOf (r.gridOf wp)) (run pa 32) = none →
    decodeLeaf leaf.1 (slotNo pc) = .ok (i, n, stall) →
    step s = observed (exec i ((issueState s leaf.2 (.warp w l) stall).inSlot i w l))) ∧
  (∀ (s : State) (k stall n : Nat) (i : Instr),
    let r := Run.of s
    let pc := (r.cc k).pc.toNat
    let leaf := r.homeRead none (pc / 32 * 32) 32
    s.agenda = [] → s.cur.agent = .cc k → s.silent (.cc k) = false → k < 4 → s.dev.sys.ccrun.getLsbD k = true →
    pcValid pc = true →
    (inRom k (pc / 32 * 32) = true → decodeLeaf (romLeaf (pc / 32 * 32)) (slotNo pc) = .ok (i, n, stall) →
      step s = observed (exec i ((issueState s r (.cc k) stall).ccSlot k))) ∧
    (inRom k (pc / 32 * 32) = false → (isReserved (pc / 32 * 32) = true → isFirmware (pc / 32 * 32) = true) →
      r.poisoned none (run (pc / 32 * 32) 32) = false → decodeLeaf leaf.1 (slotNo pc) = .ok (i, n, stall) →
      step s = observed (exec i ((issueState s leaf.2 (.cc k) stall).ccSlot k)))) ∧
  (∀ (s : State) (e p : Nat) (x : CmdList) (bs : List Byte) (r' : Run) (i : Instr),
    let r := Run.of s
    s.agenda = [] → s.silent (.list e p) = false → ReadyList s e p x →
    r.rowRead ((r.spaceOfGrid x.grid).ofStack ((e * 16 + p) / 256)) (r.nodeOf x.grid) x.pos 8 = .ok (bs, r') →
    decodeCommand (ofBytes bs) = .ok i →
    step s = observed (exec i (issueState s r' (.list e p) 0))) ∧
  (∀ (s : State) (m : Move) (ms : List Move) (i : Instr),
    s.agenda = m :: ms → m.act = .event i → i.isEvent = true → (s.begin m ms).serves i = true →
    step s = observed (exec i (s.begin m ms))) ∧
  (∀ (s : State) (m : Move) (ms : List Move) (a : Agent),
    s.agenda = m :: ms → m.act = .issue a → step s = observed (stepIssue (s.begin m ms) m.upset a)) ∧
  (∀ s : State, (s.observe exec).clk = s.clk ∧ (s.observe exec).mem = s.mem ∧ ∀ w k,
    ((s.laneOf w k).rwait.fickle = false → (s.observe exec).laneOf w k = s.laneOf w k) ∧
    { (s.observe exec).laneOf w k with rwait := .none } = { s.laneOf w k with rwait := .none })

/-! ### Checks and traps -/

/-- R80's order on a compute core: a warp whose registers are away does not issue; then the mode (cause 0x0B), the encoding (cause
0x01) and a stall underrun (cause 0x08), each precise, trap before anything else is looked at; a split that needs an outstanding
result waits; a register that the instruction reads and that holds an error is consumed by it, a machine check (R352). On a control
core: the mode, then the encoding (R307, R387). What SCHK judges, in every lane of the split, and that a consumed
error is recorded without an address are the model's choices, entries 94 and 31. -/
def Obligations.ChecksComeBeforeTheEffect : Prop :=
  (∀ (s : State) (i : Instr) (w l : Nat) (wp : Warp), encode i ≠ none → s.cur.agent = .warp w l →
     lookM s.dev.warps w = some wp → wp.split l ≠ [] →
     let r := Run.of s
     let e := s.env i w l wp
     let traps := fun (c : Nat) => exec i s = .next (s.trapped i w l wp c 0 e.lead)
     let legal := i.legalFor wp ((Run.of s).kernelFor i wp)
     let early := wp.chk && underrun wp (wp.split l) i.use
     (wp.spilled = true → exec i s = .next (finish s r)) ∧
     (wp.spilled = false → i.warpMode wp.mode = false → traps 0x0B) ∧
     (wp.spilled = false → i.warpMode wp.mode = true → legal = false → traps 0x01) ∧
     (wp.spilled = false → i.warpMode wp.mode = true → legal = true → early = true → traps 0x08) ∧
     (wp.spilled = false → i.warpMode wp.mode = true → legal = true → early = false →
       scoreboard wp (wp.split l) i.use = true →
       exec i s = .next (s.waits w l wp (Run.of s) .scoreboard)) ∧
     (wp.spilled = false → i.warpMode wp.mode = true → legal = true → early = false →
       scoreboard wp (wp.split l) i.use = false → badRegs wp (wp.split l) i.use = true →
       exec i s = .next (s.checkedOut i w l wp (badRow wp (wp.split l) i.use) noAddr))) ∧
  (∀ (s : State) (i : Instr) (k : Nat), encode i ≠ none → s.cur.agent = .cc k → k < 4 →
     s.dev.sys.ccrun.getLsbD k = true →
     let r := Run.of s
     let low := !i.ccMode (r.cc k).mode || i.sysCause (some k) (r.cc k).mode == 0x0B
     let bad := !(i.wf && i.onCc && i.sysCause (some k) (r.cc k).mode == 0)
     (low = true → exec i s = .next (finish s (r.ccTrap k 0x0B 0 (r.cc k).pc))) ∧
     (low = false → bad = true → exec i s = .next (finish s (r.ccTrap k 0x01 0 (r.cc k).pc))))

/-- A uniform instruction under a false guard only goes to the next slot, on a split and on a control core (R74, R77). -/
def Obligations.FalseGuardSkipsUniform : Prop :=
  (∀ (s : State) (i : Instr) (w l g : Nat) (wp : Warp), i.uniGuard = some g → Ready s i w l wp →
    (s.env i w l wp).ug g = false → exec i s = .next (s.through i w l wp (s.served i wp))) ∧
  (∀ (s : State) (i : Instr) (k g : Nat), i.uniGuard = some g → ReadyCc s i k →
    (s.envCc i k).ug g = false → exec i s = .next (s.throughCc i k (Run.of s)))

/-- What the delivery of a trap leaves in its warp (R302): the saved registers and predicates, the mode, every live lane at TVEC with
the place where it stood in RPC, its registers as they were; lanes of no live thread unchanged. A trap in handler mode ends the
grid as a handler fault, one with TVEC 0 as an unhandled trap (R303). -/
def Obligations.TrapEntryOfAWarp : Prop :=
  (∀ (r : Run) (w cause addr tlane : Nat) (mask : List Nat) (epc : DWord) (wp : Warp), r.warp w = some wp →
     wp.mode = .user → wp.tvec ≠ 0 →
     ∃ x, (r.deliver w mask cause addr tlane epc).warp w = some x ∧ x.mode = .handler ∧ x.tcause = word cause ∧
       x.tepc = epc ∧ x.tlane = tlane ∧ x.taddr = BitVec.ofNat 64 addr ∧ x.tmask = maskOf mask ∧ x.gsave = wp.g ∧
       x.g = wp.g ∧ x.s = wp.s ∧ x.wst = wp.wst ∧ x.lanes.length = wp.lanes.length ∧
       (∀ (k : Nat) (y : Lane), wp.lanes[k]? = some y → y.isLive = true → ∃ z, x.lanes[k]? = some z ∧ z.pc = wp.tvec ∧
         z.rpc = y.pc ∧
         z.wait = .none ∧ z.v = y.v ∧ z.p = y.p ∧ z.st = .live) ∧
       (∀ (k : Nat) (y : Lane), wp.lanes[k]? = some y → y.isLive = false → x.lanes[k]? = some y)) ∧
  (∀ (r : Run) (w cause addr tlane : Nat) (mask : List Nat) (epc : DWord) (wp : Warp), r.warp w = some wp →
     (wp.mode = .handler →
       r.deliver w mask cause addr tlane epc = r.endGrid (r.gridOf wp) 5 cause epc.toNat tlane) ∧
     (wp.mode ≠ .handler → wp.tvec = 0 →
       r.deliver w mask cause addr tlane epc = r.endGrid (r.gridOf wp) 6 cause epc.toNat tlane))

/-- TRAP completes and then traps, cause 0x09 with its number in TADDR and the next slot in TEPC; BKPT traps before it, cause 0x0A;
TLANE is the lowest thread whose guard is true, and with none both only go on (R164, Table 20.4). -/
def Obligations.TrapAndBkptEnterTheHandler : Prop :=
  ∀ (s : State) (w l g n : Nat) (wp : Warp),
    (Ready s (.trap g n) w l wp →
      let e := s.env (.trap g n) w l wp
      ((e.on g) ≠ [] → wp.mode = .user → wp.tvec ≠ 0 → ∃ t x, exec (.trap g n) s = .next t ∧
        lookM t.dev.warps w = some x ∧ x.mode = .handler ∧ x.tcause = 9 ∧ x.taddr = BitVec.ofNat 64 n ∧
        x.tepc = nextPc e.pc 1 ∧ x.tlane = (e.on g).headD 0 ∧ x.tmask = maskOf (wp.split l) ∧ t.mem = s.mem) ∧
      ((e.on g) = [] → exec (.trap g n) s = .next (s.through (.trap g n) w l wp (s.served (.trap g n) wp)))) ∧
    (Ready s (.bkpt g) w l wp →
      let e := s.env (.bkpt g) w l wp
      ((e.on g) ≠ [] → wp.mode = .user → wp.tvec ≠ 0 → ∃ t x, exec (.bkpt g) s = .next t ∧
        lookM t.dev.warps w = some x ∧ x.mode = .handler ∧ x.tcause = 10 ∧ x.taddr = 0 ∧ x.tepc = e.pc ∧
        x.tlane = (e.on g).headD 0 ∧ x.tmask = maskOf (wp.split l) ∧ t.mem = s.mem) ∧
      ((e.on g) = [] → exec (.bkpt g) s = .next (s.through (.bkpt g) w l wp (s.served (.bkpt g) wp))))

/-- ERET restores what the trap saved (R304, R307): on a warp the mode, g0 to g6, the live lanes of TMASK at TEPC and every other live
lane at its RPC with the wait it had; on a control core the mode of PMODE[0], with PMODE[1] clear, at TEPC. A TEPC that R66 and
R158 reject is cause 0x03. A warp's ERET waits for a page of TEPC that is not resident, a control core checks its TEPC at the ERET as
a warp does, and a reply that CC3 has written to its own ECALL reaches sd at the ERET: the model's choices, entries 125, 26 and 128. -/
def Obligations.EretReturnsFromTheHandler : Prop :=
  (∀ (s : State) (w l g : Nat) (wp : Warp), Ready s (.eret g) w l wp → (s.env (.eret g) w l wp).ug g = true →
    let r := s.served (.eret g) wp
    let e := s.env (.eret g) w l wp
    (∀ y, r.targetPage e wp.tepc.toNat = some y →
      exec (.eret g) s = .next (s.faulted (.eret g) w l wp wp.tepc.toNat 3 y e.lead)) ∧
    (r.targetPage e wp.tepc.toNat = none → r.targetOk e wp.tepc.toNat = true →
      exec (.eret g) s = .next (s.moved (.eret g) w l wp
        ((((r.modWarp w Warp.leaveHandler).rjnCheck w).barCheck w).fatalNow w))) ∧
    (r.targetPage e wp.tepc.toNat = none → r.targetOk e wp.tepc.toNat = false →
      exec (.eret g) s = .next (s.trapped (.eret g) w l wp 3 wp.tepc.toNat e.lead))) ∧
  (∀ wp : Warp, wp.leaveHandler.mode = .user ∧ wp.leaveHandler.g = wp.gsave ∧
    ∀ (k : Nat) (y : Lane), wp.lanes[k]? = some y → y.isLive = true → ∃ z, wp.leaveHandler.lanes[k]? = some z ∧ z.v = y.v ∧
      z.p = y.p ∧
      z.rwait = .none ∧ (inMask wp.tmask k = true → z.pc = wp.tepc ∧ z.wait = .none) ∧
      (inMask wp.tmask k = false → z.pc = y.rpc ∧ z.wait = y.rwait)) ∧
  (∀ (s : State) (k g : Nat), ReadyCc s (.eret g) k → (s.envCc (.eret g) k).ug g = true →
    let r := Run.of s
    (r.slotOk (s.envCc (.eret g) k) (r.cc k).tepc.toNat = true → ∃ t, exec (.eret g) s = .next t ∧
      ((Run.of t).cc k).pc = (r.cc k).tepc ∧ ((Run.of t).cc k).busy = false ∧
      ((Run.of t).cc k).mode = (if (r.cc k).prev then .machine else .supervisor) ∧ t.mem = s.mem ∧
      (k ≠ 3 → ((Run.of t).cc k).s = (r.cc k).s ∧ ((Run.of t).cc k).calls = (r.cc k).calls) ∧
      (∀ x v, k = 3 → (r.cc k).calls = [x] → x.sent = true → x.reply = some v → x.sd < 192 →
        lookD ((Run.of t).cc k).s x.sd 0 = v ∧ ((Run.of t).cc k).calls = [])) ∧
    (r.slotOk (s.envCc (.eret g) k) (r.cc k).tepc.toNat = false →
      exec (.eret g) s = .next (finish s (r.ccTrap k 3 (r.cc k).tepc.toNat (r.cc k).pc))))

/-- A trap on a control core saves the mode, sets PMODE[1] and enters its handler in supervisor mode, CC3's in machine mode; one taken
while PMODE[1] is set halts the core and sets INTP[7] of CC3 (R307). -/
def Obligations.TrapOfAControlCore : Prop :=
  ∀ (r : Run) (k cause addr : Nat) (epc : DWord), k < 4 →
    ((r.cc k).busy = false → let c := (r.ccTrap k cause addr epc).cc k
      c.tcause = word cause ∧ c.tepc = epc ∧ c.taddr = BitVec.ofNat 64 addr ∧ c.busy = true ∧
      c.prev = ((r.cc k).mode == .machine) ∧ c.mode = (if k = 3 then .machine else .supervisor) ∧
      c.pc = entryPc (r.cc k).tvec ∧ c.s = (r.cc k).s ∧ c.g = (r.cc k).g ∧
      (r.ccTrap k cause addr epc).dev.sys.ccrun = r.dev.sys.ccrun) ∧
    ((r.cc k).busy = true → let d := (r.ccTrap k cause addr epc).dev
      d.sys.ccrun.getLsbD k = false ∧ ((r.ccTrap k cause addr epc).cc 3).intp.getLsbD 7 = true)

/-! ### Lane arithmetic -/

/-- Every instruction of `lanewise` completes, and only writes the results of its own lanes (R82, R103). -/
def Obligations.LanewiseCompletes : Prop :=
  ∀ (s : State) (i : Instr) (g w l : Nat) (wp : Warp), i.lanewise = some g → Ready s i w l wp →
    ∃ t, exec i s = .next t ∧ LaneEffect s t i g w l wp

/-- IADD and ISUB (R85): modulo 2^32 with carry or borrow in and out, or clamped to the type that U selects. IMUL and IMAD (R85): the
low or the high word of the product of the type that U selects, and c added to it. -/
def Obligations.IntegerSumsAndProducts : Prop :=
  (∀ (s : State) (w l : Nat) (wp : Warp) (o : LOp IExt), Ready s (.iadd o) w l wp →
    ∃ t, exec (.iadd o) s = .next t ∧ LaneEffect s t (.iadd o) o.g w l wp ∧
      ∀ k ∈ (s.env (.iadd o) w l wp).on o.g,
        let x := (s.env (.iadd o) w l wp).v k o.a
        let y := (s.env (.iadd o) w l wp).srcY o true k
        let ci := if o.ext.ci ∧ (s.env (.iadd o) w l wp).p k o.ext.q = true then 1 else 0
        (o.ext.m = false → (t.v w k o.d).toNat = (x.toNat + y.toNat + ci) % 2 ^ 32) ∧
        (o.ext.m = true → o.ext.u = true → (t.v w k o.d).toNat = min (2 ^ 32 - 1) (x.toNat + y.toNat)) ∧
        (o.ext.m = true → o.ext.u = false → (t.v w k o.d).toInt = max (-2 ^ 31) (min (2 ^ 31 - 1) (x.toInt + y.toInt))) ∧
        (o.ext.co = true → o.ext.q < 12 → t.p w k o.ext.q = decide (2 ^ 32 ≤ x.toNat + y.toNat + ci)) ∧
        (o.ext.co = false → ∀ n, t.p w k n = s.p w k n)) ∧
  (∀ (s : State) (w l : Nat) (wp : Warp) (o : LOp IExt), Ready s (.isub o) w l wp →
    ∃ t, exec (.isub o) s = .next t ∧ LaneEffect s t (.isub o) o.g w l wp ∧
      ∀ k ∈ (s.env (.isub o) w l wp).on o.g,
        let x := (s.env (.isub o) w l wp).v k o.a
        let y := (s.env (.isub o) w l wp).srcY o true k
        let ci := if o.ext.ci ∧ (s.env (.isub o) w l wp).p k o.ext.q = true then 1 else 0
        (o.ext.m = false → ((t.v w k o.d).toNat : Int) = ((x.toNat : Int) - y.toNat - ci) % 2 ^ 32) ∧
        (o.ext.m = true → o.ext.u = true → (t.v w k o.d).toNat = x.toNat - y.toNat) ∧
        (o.ext.m = true → o.ext.u = false → (t.v w k o.d).toInt = max (-2 ^ 31) (min (2 ^ 31 - 1) (x.toInt - y.toInt))) ∧
        (o.ext.co = true → o.ext.q < 12 → t.p w k o.ext.q = decide (x.toNat < y.toNat + ci)) ∧
        (o.ext.co = false → ∀ n, t.p w k n = s.p w k n)) ∧
  (∀ (s : State) (w l : Nat) (wp : Warp) (o : LOp IExt), Ready s (.imul o) w l wp →
    ∃ t, exec (.imul o) s = .next t ∧ ∀ k ∈ (s.env (.imul o) w l wp).on o.g,
      let x := (s.env (.imul o) w l wp).v k o.a
      let y := (s.env (.imul o) w l wp).srcY o true k
      (o.ext.m = false → (t.v w k o.d).toNat = x.toNat * y.toNat % 2 ^ 32) ∧
      (o.ext.m = true → o.ext.u = true → (t.v w k o.d).toNat = x.toNat * y.toNat / 2 ^ 32) ∧
      (o.ext.m = true → o.ext.u = false → (t.v w k o.d).toInt = x.toInt * y.toInt / 2 ^ 32)) ∧
  (∀ (s : State) (w l : Nat) (wp : Warp) (o : LXOp IExt), Ready s (.imad o) w l wp →
    ∃ t, exec (.imad o) s = .next t ∧ ∀ k ∈ (s.env (.imad o) w l wp).on o.g,
      let x := (s.env (.imad o) w l wp).v k o.a
      let y := if o.x.k then immOf o.x true else (s.env (.imad o) w l wp).v k o.b
      let c := (s.env (.imad o) w l wp).v k o.x.c
      (o.x.m = false → (t.v w k o.d).toNat = (x.toNat * y.toNat + c.toNat) % 2 ^ 32) ∧
      (o.x.m = true → o.x.u = true → (t.v w k o.d).toNat = (x.toNat * y.toNat / 2 ^ 32 + c.toNat) % 2 ^ 32) ∧
      (o.x.m = true → o.x.u = false →
        ((t.v w k o.d).toNat : Int) = (x.toInt * y.toInt / 2 ^ 32 + c.toNat) % 2 ^ 32))

/-- Shifts by a count that is any 32-bit number, and the funnel shift (R85). LOGT looks each bit up, BFE and BFI take and put a field,
and POPC, CLZ, CTZ and BREV count and turn bits (R85, R86). -/
def Obligations.ShiftsAndBitOperations : Prop :=
  (∀ (s : State) (w l : Nat) (wp : Warp) (o : LOp IExt), Ready s (.shl o) w l wp →
    ∃ t, exec (.shl o) s = .next t ∧ ∀ k ∈ (s.env (.shl o) w l wp).on o.g,
      let x := (s.env (.shl o) w l wp).v k o.a
      let n := ((s.env (.shl o) w l wp).srcY o false k).toNat
      (n < 32 → (t.v w k o.d).toNat = x.toNat * 2 ^ n % 2 ^ 32) ∧ (32 ≤ n → t.v w k o.d = 0)) ∧
  (∀ (s : State) (w l : Nat) (wp : Warp) (o : LOp IExt), Ready s (.shr o) w l wp →
    ∃ t, exec (.shr o) s = .next t ∧ ∀ k ∈ (s.env (.shr o) w l wp).on o.g,
      let x := (s.env (.shr o) w l wp).v k o.a
      let n := ((s.env (.shr o) w l wp).srcY o false k).toNat
      (n < 32 → (t.v w k o.d).toNat = x.toNat / 2 ^ n) ∧ (32 ≤ n → t.v w k o.d = 0)) ∧
  (∀ (s : State) (w l : Nat) (wp : Warp) (o : LOp IExt), Ready s (.sar o) w l wp →
    ∃ t, exec (.sar o) s = .next t ∧ ∀ k ∈ (s.env (.sar o) w l wp).on o.g,
      let x := (s.env (.sar o) w l wp).v k o.a
      let n := ((s.env (.sar o) w l wp).srcY o false k).toNat
      (t.v w k o.d).toInt = x.toInt / 2 ^ min n 31) ∧
  (∀ (s : State) (w l : Nat) (wp : Warp) (o : LOp IExt), Ready s (.shf o) w l wp →
    ∃ t, exec (.shf o) s = .next t ∧ ∀ k ∈ (s.env (.shf o) w l wp).on o.g,
      let x := (s.env (.shf o) w l wp).v k o.a
      let n := min ((s.env (.shf o) w l wp).srcY o false k).toNat 32
      let c := (s.env (.shf o) w l wp).srcC o k
      (t.v w k o.d).toNat = if o.ext.m then (c.toNat * 2 ^ 32 + x.toNat) * 2 ^ n / 2 ^ 32 % 2 ^ 32
        else (c.toNat * 2 ^ 32 + x.toNat) / 2 ^ n % 2 ^ 32) ∧
  (∀ (s : State) (w l : Nat) (wp : Warp) (o : LOp IExt), Ready s (.logt o) w l wp →
    ∃ t, exec (.logt o) s = .next t ∧ ∀ k ∈ (s.env (.logt o) w l wp).on o.g, ∀ j, j < 32 →
      let e := s.env (.logt o) w l wp
      let lut := (o.x.map (fun x => x.imm)).getD 0xD8
      (t.v w k o.d).getLsbD j = bitOf lut (boolN ((e.v k o.a).getLsbD j) + 2 * boolN ((e.v k o.b).getLsbD j) +
        4 * boolN ((e.srcC o k).getLsbD j))) ∧
  (∀ (s : State) (w l : Nat) (wp : Warp) (o : LOp IExt), Ready s (.bfe o) w l wp →
    ∃ t, exec (.bfe o) s = .next t ∧ ∀ k ∈ (s.env (.bfe o) w l wp).on o.g, ∀ j, j < 32 →
      let x := (s.env (.bfe o) w l wp).v k o.a
      let y := ((s.env (.bfe o) w l wp).srcY o false k).toNat
      let pos := y % 256
      let len := min (y / 256 % 256) 32
      let bitAt := fun (n : Nat) => if n < 32 then x.getLsbD n else !o.ext.u && x.getLsbD 31
      (t.v w k o.d).getLsbD j = (if len = 0 then false else if j < len then bitAt (pos + j)
        else !o.ext.u && bitAt (pos + len - 1))) ∧
  (∀ (s : State) (w l : Nat) (wp : Warp) (o : LOp IExt), Ready s (.bfi o) w l wp →
    ∃ t, exec (.bfi o) s = .next t ∧ ∀ k ∈ (s.env (.bfi o) w l wp).on o.g, ∀ j, j < 32 →
      let e := s.env (.bfi o) w l wp
      let y := (e.srcY o false k).toNat
      let pos := y % 256
      let len := min (y / 256 % 256) 32
      (t.v w k o.d).getLsbD j = (if pos ≤ j ∧ j < pos + len then (e.v k o.a).getLsbD (j - pos)
        else (e.srcC o k).getLsbD j)) ∧
  (∀ (s : State) (w l : Nat) (wp : Warp) (o : L2Op Bool), Ready s (.popc o) w l wp →
    ∃ t, exec (.popc o) s = .next t ∧ ∀ k ∈ (s.env (.popc o) w l wp).on o.g,
      (t.v w k o.d).toNat = ((List.range 32).filter (fun j => ((s.env (.popc o) w l wp).v k o.a).getLsbD j)).length) ∧
  (∀ (s : State) (w l : Nat) (wp : Warp) (o : L2Op Bool), Ready s (.clz o) w l wp →
    ∃ t, exec (.clz o) s = .next t ∧ ∀ k ∈ (s.env (.clz o) w l wp).on o.g,
      let x := (s.env (.clz o) w l wp).v k o.a
      (t.v w k o.d).toNat ≤ 32 ∧ x.toNat < 2 ^ (32 - (t.v w k o.d).toNat) ∧
        ((t.v w k o.d).toNat < 32 → 2 ^ (31 - (t.v w k o.d).toNat) ≤ x.toNat)) ∧
  (∀ (s : State) (w l : Nat) (wp : Warp) (o : L2Op Bool), Ready s (.ctz o) w l wp →
    ∃ t, exec (.ctz o) s = .next t ∧ ∀ k ∈ (s.env (.ctz o) w l wp).on o.g,
      let x := (s.env (.ctz o) w l wp).v k o.a
      (t.v w k o.d).toNat ≤ 32 ∧ (∀ j, j < (t.v w k o.d).toNat → x.getLsbD j = false) ∧
        ((t.v w k o.d).toNat < 32 → x.getLsbD (t.v w k o.d).toNat = true)) ∧
  (∀ (s : State) (w l : Nat) (wp : Warp) (o : L2Op Bool), Ready s (.brev o) w l wp →
    ∃ t, exec (.brev o) s = .next t ∧ ∀ k ∈ (s.env (.brev o) w l wp).on o.g, ∀ j, j < 32 →
      (t.v w k o.d).getLsbD j = ((s.env (.brev o) w l wp).v k o.a).getLsbD (31 - j))

/-- SEL, major 0x13 (R89): the selector is p[Q] in the LX form and B[3:0], with B[6:4] zero, in the LR form, whose other source is the
destination; pt selects va. -/
def Obligations.SelectFollowsItsPredicate : Prop :=
  ∀ (s : State) (w l : Nat) (wp : Warp) (o : LOp IExt), Ready s (.sel o) w l wp →
    (o.x = none → o.b < 16) ∧ (∀ c, encode (.sel o) = some c → fld c.w 21 6 = 0x13) ∧
    ∃ t, exec (.sel o) s = .next t ∧ LaneEffect s t (.sel o) o.g w l wp ∧
      ∀ k ∈ (s.env (.sel o) w l wp).on o.g,
        let e := s.env (.sel o) w l wp
        (∀ x, o.x = some x → t.v w k o.d = (if e.p k x.q then e.v k o.a else if x.k then
          (if x.u then BitVec.ofNat 32 x.imm else (BitVec.ofNat 16 x.imm).signExtend 32) else e.v k o.b)) ∧
        (o.x = none → t.v w k o.d = (if e.p k o.b then e.v k o.a else e.v k o.d)) ∧
        (∀ x, o.x = some x → x.q = 15 → t.v w k o.d = e.v k o.a) ∧ (o.x = none → o.b = 15 → t.v w k o.d = e.v k o.a)

/-- ISETP, PSET, P2V and V2P (R87, R90, R91): predicates compared, combined and moved; pt discards. -/
def Obligations.PredicatesComparedAndMoved : Prop :=
  (∀ (s : State) (w l : Nat) (wp : Warp) (o : SetpOp ISetpExt), Ready s (.isetp o) w l wp →
    ∃ t, exec (.isetp o) s = .next t ∧ LaneEffect s t (.isetp o) o.g w l wp ∧
      ∀ k ∈ (s.env (.isetp o) w l wp).on o.g,
        let e := s.env (.isetp o) w l wp
        (o.x = none → o.pd < 12 → t.p w k o.pd = cmpI o.cmp (e.v k o.a).toInt (e.v k o.b).toInt) ∧
        (∀ x, o.x = some x →
          let y := if x.k then (if x.u then word x.imm else wordOfInt (sx x.imm 16)) else e.v k o.b
          let c := cmpI o.cmp (valU x.u (e.v k o.a)) (valU x.u y)
          (o.pd < 12 → t.p w k o.pd = comb x.comb c (e.p k x.pc)) ∧
          (x.pe < 12 → t.p w k x.pe = comb x.comb (!c) (e.p k x.pc)))) ∧
  (∀ (s : State) (w l : Nat) (wp : Warp) (o : PsetOp), Ready s (.pset o) w l wp →
    ∃ t, exec (.pset o) s = .next t ∧ ∀ k ∈ (s.env (.pset o) w l wp).on o.g,
      let e := s.env (.pset o) w l wp
      let u := comb o.op (e.p k o.pa != o.na) (e.p k o.pb != o.nb)
      o.pd < 12 → t.p w k o.pd = (match o.x with
        | none => u
        | some (pc, nc, op2) => comb op2 u (e.p k pc != nc))) ∧
  (∀ (s : State) (w l g d : Nat) (x : Option Nat) (wp : Warp), Ready s (.p2v g d x) w l wp →
    ∃ t, exec (.p2v g d x) s = .next t ∧ ∀ k ∈ (s.env (.p2v g d x) w l wp).on g, ∀ j, j < 32 →
      (t.v w k d).getLsbD j = (decide (j < 12) && bitOf (x.getD 4095) j && ((s.env (.p2v g d x) w l wp).lane k).p.getLsbD j)) ∧
  (∀ (s : State) (w l g a : Nat) (x : Option Nat) (wp : Warp), Ready s (.v2p g a x) w l wp →
    ∃ t, exec (.v2p g a x) s = .next t ∧ ∀ k ∈ (s.env (.v2p g a x) w l wp).on g, ∀ j, j < 12 →
      t.p w k j = (if bitOf (x.getD 4095) j then ((s.env (.v2p g a x) w l wp).v k a).getLsbD j else s.p w k j))

/-- SHFL reads its source lane where that lane takes part, and its own value elsewhere; MATCH compares the participants (R94, R95,
R98). VOTE and REDW (R96, R97): every participant, and once the uniform destination, receives the one result; with no participant
nothing is written. REDW's floating operations combine the tree of R57, which holds a leaf for each participant. -/
def Obligations.CrossLaneResults : Prop :=
  (∀ (s : State) (w l : Nat) (wp : Warp) (o : LOp ShflExt), Ready s (.shfl o) w l wp →
    ∃ t, exec (.shfl o) s = .next t ∧ LaneEffect s t (.shfl o) o.g w l wp ∧
      ∀ k ∈ (s.env (.shfl o) w l wp).on o.g,
        let e := s.env (.shfl o) w l wp
        let n : Nat := match o.x with
          | some x => if x.k then x.imm else (e.v k o.b).toNat
          | none => (e.v k o.b).toNat
        let j : Int := match o.x.map (fun x => x.mode) with
          | some 1 => (k : Int) - n
          | some 2 => (k : Int) + n
          | some 3 => ((k ^^^ n : Nat) : Int)
          | _ => n
        (∀ src, src ∈ e.on o.g → (src : Int) = j → t.v w k o.d = e.v src o.a ∧
          (∀ x, o.x = some x → x.pd < 12 → t.p w k x.pd = true)) ∧
        ((∀ src, src ∈ e.on o.g → (src : Int) ≠ j) → t.v w k o.d = e.v k o.a ∧
          (∀ x, o.x = some x → x.pd < 12 → t.p w k x.pd = false))) ∧
  (∀ (s : State) (w l : Nat) (wp : Warp) (o : MatchOp), Ready s (.matchw o) w l wp →
    ∃ t, exec (.matchw o) s = .next t ∧ ∀ k ∈ (s.env (.matchw o) w l wp).on o.g,
      let e := s.env (.matchw o) w l wp
      let val := fun n => if (o.x.map (fun x => x.1)).getD false then e.v2 n o.a else (e.v n o.a).toNat
      let all := ∀ n ∈ e.on o.g, val n = val k
      (o.all = false → ∀ j, j < 32 → ((t.v w k o.d).getLsbD j = true ↔ j ∈ e.on o.g ∧ val j = val k)) ∧
      (o.all = true → all → t.v w k o.d = maskOf (e.on o.g)) ∧ (o.all = true → ¬ all → t.v w k o.d = 0) ∧
      (∀ b pd, o.all = true → o.x = some (b, pd) → pd < 12 → (t.p w k pd = true ↔ all))) ∧
  (∀ (s : State) (w l : Nat) (wp : Warp) (o : VoteOp), Ready s (.vote o) w l wp →
    ∃ t, exec (.vote o) s = .next t ∧ WarpOnly s t (.vote o) w l wp ∧
      let e := s.env (.vote o) w l wp
      let b := fun k => e.p k o.pa != o.neg
      (o.sub = 3 → (∀ k ∈ e.on o.g, ∀ j, j < 32 → ((t.v w k o.d).getLsbD j = true ↔ j ∈ e.on o.g ∧ b j = true)) ∧
        (∀ gd sd, o.x = some (gd, sd) → sd < 192 → e.on o.g ≠ [] → ∀ j, j < 32 →
          ((t.s w sd).getLsbD j = true ↔ j ∈ e.on o.g ∧ b j = true))) ∧
      (o.sub = 0 → o.d < 12 → ∀ k ∈ e.on o.g, (t.p w k o.d = true ↔ ∀ j ∈ e.on o.g, b j = true)) ∧
      (o.sub = 1 → o.d < 12 → ∀ k ∈ e.on o.g, (t.p w k o.d = true ↔ ∃ j ∈ e.on o.g, b j = true)) ∧
      (o.sub = 2 → o.d < 12 → ∀ k ∈ e.on o.g, (t.p w k o.d = true ↔ ∀ i ∈ e.on o.g, ∀ j ∈ e.on o.g, b i = b j)) ∧
      (∀ gd sd, o.x = some (gd, sd) → gd < 7 → e.on o.g ≠ [] →
        (o.sub = 0 → (t.g w gd = true ↔ ∀ j ∈ e.on o.g, b j = true)) ∧
        (o.sub = 1 → (t.g w gd = true ↔ ∃ j ∈ e.on o.g, b j = true)) ∧
        (o.sub = 2 → (t.g w gd = true ↔ ∀ i ∈ e.on o.g, ∀ j ∈ e.on o.g, b i = b j))) ∧
      (e.on o.g = [] → (∀ k n, t.v w k n = s.v w k n ∧ t.p w k n = s.p w k n) ∧ ∀ n, t.s w n = s.s w n ∧ t.g w n = s.g w n)) ∧
  (∀ (s : State) (w l : Nat) (wp : Warp) (o : RedwOp), Ready s (.redw o) w l wp →
    ∃ t, exec (.redw o) s = .next t ∧ WarpOnly s t (.redw o) w l wp ∧
      let e := s.env (.redw o) w l wp
      let vs := (e.on o.g).map (fun k => e.v k o.a)
      (o.op = 0 → ∀ k ∈ e.on o.g, t.v w k o.d = vs.foldl (fun a b => a + b) 0) ∧
      (o.op = 1 → ∀ k ∈ e.on o.g, t.v w k o.d ∈ vs ∧ ∀ x ∈ vs, (t.v w k o.d).toInt ≤ x.toInt) ∧
      (o.op = 2 → ∀ k ∈ e.on o.g, t.v w k o.d ∈ vs ∧ ∀ x ∈ vs, x.toInt ≤ (t.v w k o.d).toInt) ∧
      (o.op = 3 → ∀ k ∈ e.on o.g, t.v w k o.d ∈ vs ∧ ∀ x ∈ vs, (t.v w k o.d).toNat ≤ x.toNat) ∧
      (o.op = 4 → ∀ k ∈ e.on o.g, t.v w k o.d ∈ vs ∧ ∀ x ∈ vs, x.toNat ≤ (t.v w k o.d).toNat) ∧
      (o.op = 5 → ∀ k ∈ e.on o.g, ∀ j, j < 32 → ((t.v w k o.d).getLsbD j = true ↔ ∀ x ∈ vs, x.getLsbD j = true)) ∧
      (o.op = 6 → ∀ k ∈ e.on o.g, ∀ j, j < 32 → ((t.v w k o.d).getLsbD j = true ↔ ∃ x ∈ vs, x.getLsbD j = true)) ∧
      (o.op = 7 → ∀ k ∈ e.on o.g, t.v w k o.d = vs.foldl (fun a b => a ^^^ b) 0) ∧
      (8 ≤ o.op → let m := Rm.of ((o.x.map (fun x => x.1)).getD 0)
        let two := fun (a b : Word) => word (if o.op = 8 then fAdd Fmt.f32 m a.toNat b.toNat
          else fMinMax Fmt.f32 (o.op != 9) a.toNat b.toNat).bits
        ∃ node : Nat → Nat → Option Word,
          (∀ j, j < 32 → node 0 j = if j ∈ e.on o.g then some (e.v j o.a) else none) ∧
          (∀ n j, n < 5 → j < 2 ^ (4 - n) → node (n + 1) j = (match node n (2 * j), node n (2 * j + 1) with
            | some a, some b => some (two a b)
            | some a, none => some a
            | none, b => b)) ∧
          ∀ k ∈ e.on o.g, node 5 0 = some (t.v w k o.d)) ∧
      (∀ rm sd, o.x = some (rm, sd) → sd < 192 → ∀ k ∈ e.on o.g, t.s w sd = t.v w k o.d) ∧
      (e.on o.g = [] → (∀ k n, t.v w k n = s.v w k n ∧ t.p w k n = s.p w k n) ∧ ∀ n, t.s w n = s.s w n ∧ t.g w n = s.g w n))

/-- FADD, FMUL and FFMA write the rounded FP32 result of their operands, a NaN operand giving the canonical NaN; FMIN and FMAX, FP32
and FP64, write the lesser and the greater operand bit for bit, -0 below +0, the other one where one is NaN, and the canonical NaN
where both are (R53, R106, R107). -/
def Obligations.FloatResults : Prop :=
  (∀ (s : State) (w l : Nat) (wp : Warp) (o : LOp FExt), Ready s (.fadd o) w l wp →
    ∃ t, exec (.fadd o) s = .next t ∧ LaneEffect s t (.fadd o) o.g w l wp ∧
      ∀ k ∈ (s.env (.fadd o) w l wp).on o.g,
        let e := s.env (.fadd o) w l wp
        let x := signOp 32 o.fext.sa (e.v k o.a).toNat
        let y := e.fB o k
        t.v w k o.d = word (fAdd Fmt.f32 (Rm.of o.fext.rm) x y).bits ∧
        ((decodeF Fmt.f32 x).isNan = true ∨ (decodeF Fmt.f32 y).isNan = true → t.v w k o.d = 0x7FC00000)) ∧
  (∀ (s : State) (w l : Nat) (wp : Warp) (o : LOp FExt), Ready s (.fmul o) w l wp →
    ∃ t, exec (.fmul o) s = .next t ∧ LaneEffect s t (.fmul o) o.g w l wp ∧
      ∀ k ∈ (s.env (.fmul o) w l wp).on o.g,
        let e := s.env (.fmul o) w l wp
        let x := signOp 32 o.fext.sa (e.v k o.a).toNat
        let y := e.fB o k
        t.v w k o.d = word (fMul Fmt.f32 (Rm.of o.fext.rm) x y).bits ∧
        ((decodeF Fmt.f32 x).isNan = true ∨ (decodeF Fmt.f32 y).isNan = true → t.v w k o.d = 0x7FC00000)) ∧
  (∀ (s : State) (w l : Nat) (wp : Warp) (o : LOp FExt), Ready s (.ffma o) w l wp →
    ∃ t, exec (.ffma o) s = .next t ∧ LaneEffect s t (.ffma o) o.g w l wp ∧
      ∀ k ∈ (s.env (.ffma o) w l wp).on o.g,
        let e := s.env (.ffma o) w l wp
        let x := signOp 32 o.fext.sa (e.v k o.a).toNat
        let y := e.fB o k
        let c := signOp 32 o.fext.sc (e.v k o.cReg).toNat
        t.v w k o.d = word (fFma Fmt.f32 (Rm.of o.fext.rm) x y c).bits ∧
        ((decodeF Fmt.f32 x).isNan = true ∨ (decodeF Fmt.f32 y).isNan = true ∨ (decodeF Fmt.f32 c).isNan = true →
          t.v w k o.d = 0x7FC00000)) ∧
  (∀ (s : State) (w l : Nat) (wp : Warp) (o : LOp FExt) (mx : Bool) (i : Instr), i = (if mx then .fmax o else .fmin o) →
    Ready s i w l wp → ∃ t, exec i s = .next t ∧ LaneEffect s t i o.g w l wp ∧ ∀ k ∈ (s.env i w l wp).on o.g,
      let e := s.env i w l wp
      let wide := o.fext.ft == 1
      let fmt := if wide then Fmt.f64 else Fmt.f32
      let x := if wide then signOp 64 o.fext.sa (e.v2 k o.a) else signOp 32 o.fext.sa (e.v k o.a).toNat
      let y := if wide then signOp 64 o.fext.sb (e.v2 k o.b) else e.fB o k
      let res := (t.v w k o.d).toNat + (if wide then 2 ^ 32 * (t.v w k (o.d + 1)).toNat else 0)
      let a := decodeF fmt x
      let b := decodeF fmt y
      let less := ltV a b = true ∨ (eqV a b = true ∧ a.isNeg = true ∧ b.isNeg = false)
      (a.isNan = false → b.isNan = false →
        (less → res = if mx then y else x) ∧ (¬ less → res = if mx then x else y)) ∧
      (a.isNan = true → b.isNan = false → res = y) ∧ (a.isNan = false → b.isNan = true → res = x) ∧
      (a.isNan = true → b.isNan = true → res = if wide then 0x7FF8000000000000 else 0x7FC00000))

/-! ### Uniform arithmetic, votes, special registers -/

/-- Every instruction of `uniwise` completes on a split and on a control core, and only writes its one uniform register (R74, R77,
R99, R387). -/
def Obligations.UniwiseCompletes : Prop :=
  (∀ (s : State) (i : Instr) (g d w l : Nat) (wp : Warp), i.uniwise = some (g, d) → Ready s i w l wp →
     ∃ t, exec i s = .next t ∧ UniEffect s t i d w l wp ∧ ((s.env i w l wp).ug g = false → t.s w d = s.s w d)) ∧
  (∀ (s : State) (i : Instr) (g d k : Nat), i.uniwise = some (g, d) → ReadyCc s i k →
     ∃ t, exec i s = .next t ∧ CcEffect s t i d k ∧
       ((s.envCc i k).ug g = false → lookD (t.core k).s d 0 = lookD (s.core k).s d 0))

/-- Results of the uniform majors and sub-majors (R77, R86, R99, R100), on a split and on a control core; sz reads zero and discards.
USETP and UPSET write one uniform predicate, gt discarding. -/
def Obligations.UniformResults : Prop :=
  let result := fun (i : Instr) (g d : Nat) (f : Env → Word → Prop) =>
    (∀ (s : State) (w l : Nat) (wp : Warp), Ready s i w l wp → (s.env i w l wp).ug g = true → ∃ t, exec i s = .next t ∧
      (d < 192 → f (s.env i w l wp) (t.s w d)) ∧ (d = 255 → ∀ n, t.s w n = s.s w n)) ∧
    (∀ (s : State) (k : Nat), ReadyCc s i k → (s.envCc i k).ug g = true → ∃ t, exec i s = .next t ∧
      (d < 192 → f (s.envCc i k) (lookD (t.core k).s d 0)) ∧ (d = 255 → (t.core k).s = (s.core k).s))
  (∀ o : UOp, ∀ p ∈ ([
      (.uadd o, fun x y t => t.toNat = (x.toNat + y.toNat) % 2 ^ 32),
      (.usub o, fun x y t => (t.toNat : Int) = ((x.toNat : Int) - y.toNat) % 2 ^ 32),
      (.umul o, fun x y t => t.toNat = x.toNat * y.toNat % 2 ^ 32),
      (.uand o, fun x y t => ∀ j, t.getLsbD j = (x.getLsbD j && y.getLsbD j)),
      (.uor o, fun x y t => ∀ j, t.getLsbD j = (x.getLsbD j || y.getLsbD j)),
      (.uxor o, fun x y t => ∀ j, t.getLsbD j = (x.getLsbD j != y.getLsbD j)),
      (.ushl o, fun x y t => t.toNat = if 32 ≤ y.toNat then 0 else x.toNat * 2 ^ y.toNat % 2 ^ 32),
      (.ushr o, fun x y t => t.toNat = if 32 ≤ y.toNat then 0 else x.toNat / 2 ^ y.toNat),
      (.usar o, fun x y t => t.toInt = x.toInt / 2 ^ min y.toNat 31),
      (.umin o, fun x y t => t.toInt = min x.toInt y.toInt),
      (.umax o, fun x y t => t.toInt = max x.toInt y.toInt),
      (.uminu o, fun x y t => t.toNat = min x.toNat y.toNat),
      (.umaxu o, fun x y t => t.toNat = max x.toNat y.toNat),
      (.umov o, fun _ y t => t = y),
      (.umulh o true, fun x y t => t.toNat = x.toNat * y.toNat / 2 ^ 32),
      (.umulh o false, fun x y t => t.toInt = x.toInt * y.toInt / 2 ^ 32)] : List (Instr × (Word → Word → Word → Prop))),
    result p.1 o.g o.d (fun e => p.2 (e.us o.a) (e.uB o.b o.lit))) ∧
  (∀ (o : UOp) (gc : Nat), result (.usel o gc) o.g o.d (fun e t => t = if e.ug gc then e.us o.a else e.uB o.b o.lit)) ∧
  (∀ (o : UOp) (u : Bool), result (.ubfe o u) o.g o.d (fun e t => ∀ j, j < 32 →
    let x := e.us o.a
    let y := (e.uB o.b o.lit).toNat
    let pos := y % 256
    let len := min (y / 256 % 256) 32
    let bitAt := fun (n : Nat) => if n < 32 then x.getLsbD n else !u && x.getLsbD 31
    t.getLsbD j = (if len = 0 then false else if j < len then bitAt (pos + j) else !u && bitAt (pos + len - 1)))) ∧
  (∀ (g d a : Nat) (sat : Bool), ∀ p ∈ ([
      (0, fun x t => t.toNat = ((List.range 32).filter (fun j => x.getLsbD j)).length),
      (1, fun x t => t.toNat ≤ 32 ∧ x.toNat < 2 ^ (32 - t.toNat) ∧ (t.toNat < 32 → 2 ^ (31 - t.toNat) ≤ x.toNat)),
      (2, fun x t => t.toNat ≤ 32 ∧ (∀ j, j < t.toNat → x.getLsbD j = false) ∧ (t.toNat < 32 → x.getLsbD t.toNat = true)),
      (3, fun x t => ∀ j, j < 32 → t.getLsbD j = x.getLsbD (31 - j)),
      (4, fun x t => (sat = true → x = 0x80000000 → t = 0x7FFFFFFF) ∧ (sat = false ∨ x ≠ 0x80000000 →
        (t.toNat : Int) = max x.toInt (-x.toInt))),
      (5, fun x t => (sat = true → x = 0x80000000 → t = 0x7FFFFFFF) ∧ (sat = false ∨ x ≠ 0x80000000 →
        (t.toNat : Int) = (-x.toInt) % 2 ^ 32))] : List (Nat × (Word → Word → Prop))),
    result (.ubit g d a p.1 sat) g d (fun e => p.2 (e.us a))) ∧
  (∀ (g d imm : Nat) (lit : Bool), result (.umovi g d imm lit) g d (fun _ t =>
    (lit = true → t.toNat = imm) ∧ (lit = false → t = (BitVec.ofNat 23 imm).signExtend 32))) ∧
  (∀ (s : State) (w l : Nat) (wp : Warp) (o : USetpOp), Ready s (.usetp o) w l wp →
    (s.env (.usetp o) w l wp).ug o.g = true → ∃ t, exec (.usetp o) s = .next t ∧ WarpOnly s t (.usetp o) w l wp ∧
      let e := s.env (.usetp o) w l wp
      (o.gd < 7 → t.g w o.gd = comb o.comb (cmpI o.cmp (valU o.u (e.us o.a)) (valU o.u (e.uB o.b o.lit))) (e.ug o.gc)) ∧
      (∀ n, n ≠ o.gd → t.g w n = s.g w n) ∧ (∀ n, t.s w n = s.s w n)) ∧
  (∀ (s : State) (w l : Nat) (wp : Warp) (o : UPsetOp), Ready s (.upset o) w l wp →
    (s.env (.upset o) w l wp).ug o.g = true → ∃ t, exec (.upset o) s = .next t ∧ WarpOnly s t (.upset o) w l wp ∧
      let e := s.env (.upset o) w l wp
      (o.gd < 7 → t.g w o.gd = comb o.op (e.ug o.ga != o.na) (e.ug o.gb != o.nb)) ∧
      (∀ n, n ≠ o.gd → t.g w n = s.g w n) ∧ (∀ n, t.s w n = s.s w n))

/-- NOP, the word 0xF4FF_FFFF, issues on port U and changes no state: the split, or the control core, is past it (R78). -/
def Obligations.NopChangesNothing : Prop :=
  let nop := Instr.uor { g := 7, d := 255, a := 255, b := 255, lit := none }
  decode { w := 0xF4FFFFFF, x := none, l := none } = .ok nop ∧ nop.ports = [3] ∧
  (∀ (s : State) (w l : Nat) (wp : Warp), Ready s nop w l wp → ∃ t, exec nop s = .next t ∧
    UniEffect s t nop 255 w l wp ∧ (∀ n, t.s w n = s.s w n) ∧ (∀ n, t.g w n = s.g w n)) ∧
  (∀ (s : State) (k : Nat), ReadyCc s nop k → ∃ t, exec nop s = .next t ∧ CcEffect s t nop 255 k ∧
    (t.core k).s = (s.core k).s)

/-- SPR and USPR read every number of Table 4.2, USPR a per-thread value for the split's lowest lane, and CLKHI what a read of CLKLO by
the same thread, or by the same warp through USPR, has latched; UREADL, TNOW and UTIME read what the manual says they read (R23, R63,
R93, R101, R102, R266, R267). USPR clears flags of WST by writing ones, and those that an instruction still under way raises end set
(R55). UREADL waits for no fixed-latency result of its own split, and does not read what another split writes in its cycle; a clear
of WST takes effect in the cycle of its issue: the model's choices, entries 123 and 122. -/
def Obligations.SpecialRegistersAndClocks : Prop :=
  (∀ (s : State) (w l g d n : Nat) (wp : Warp), Ready s (.spr g d n) w l wp → ∃ t, exec (.spr g d n) s = .next t ∧
    WarpOnly s t (.spr g d n) w l wp ∧ ∀ k ∈ (s.env (.spr g d n) w l wp).on g,
      (∀ x tm, (Run.of s).grid ((Run.of s).gridOf wp) = some x → (Run.of s).team wp.team = some tm →
        ∀ p ∈ identityTable x tm wp k, n = p.1 → (t.v w k d).toNat = p.2 % 2 ^ 32) ∧
      (n = 0x14 → ∀ j, j < 32 → ((t.v w k d).getLsbD j = true ↔ (s.laneOf w j).isLive = true)) ∧
      (n = 0x15 → t.v w k d = maskOf (wp.split l)) ∧ (n = 0x20 → t.v w k d = wp.wst) ∧
      (n = 0x21 → (t.v w k d).toNat = s.clk.cycles % 2 ^ 32 ∧ (t.laneOf w k).latch = some (hi32 s.clk.cycles)) ∧
      (n = 0x22 → t.v w k d = clkHi s.clk.cycles (s.laneOf w k).latch ∧ (t.laneOf w k).latch = none)) ∧
  (∀ (s : State) (w l g d n : Nat) (wp : Warp), Ready s (.usprRead g d n) w l wp →
    (s.env (.usprRead g d n) w l wp).ug g = true → ∃ t, exec (.usprRead g d n) s = .next t ∧
      WarpOnly s t (.usprRead g d n) w l wp ∧ (∀ j, j ≠ d → t.s w j = s.s w j) ∧ (d < 192 →
        (∀ x tm, (Run.of s).grid ((Run.of s).gridOf wp) = some x → (Run.of s).team wp.team = some tm →
          ∀ p ∈ identityTable x tm wp ((wp.split l).headD 0), n = p.1 → (t.s w d).toNat = p.2 % 2 ^ 32) ∧
        (n = 0x14 → ∀ j, j < 32 → ((t.s w d).getLsbD j = true ↔ (s.laneOf w j).isLive = true)) ∧
        (n = 0x15 → t.s w d = maskOf (wp.split l)) ∧ (n = 0x20 → t.s w d = wp.wst) ∧
        (n = 0x21 → (t.s w d).toNat = s.clk.cycles % 2 ^ 32) ∧ (n = 0x22 → t.s w d = clkHi s.clk.cycles wp.latch)) ∧
      ∃ x, lookM t.dev.warps w = some x ∧ (n = 0x21 → x.latch = some (hi32 s.clk.cycles)) ∧ (n = 0x22 → x.latch = none) ∧
        (n ≠ 0x21 → n ≠ 0x22 → x.latch = wp.latch)) ∧
  (∀ (s : State) (w l g a n : Nat) (wp : Warp), Ready s (.usprWrite g a n) w l wp →
    (s.env (.usprWrite g a n) w l wp).ug g = true → ∃ t x, exec (.usprWrite g a n) s = .next t ∧
      lookM t.dev.warps w = some x ∧
      (∀ b, b < 32 → (x.wst.getLsbD b = true ↔
        (wp.wst.getLsbD b = true ∧ ¬ (b < 5 ∧ ((s.env (.usprWrite g a n) w l wp).us a).getLsbD b = true)) ∨
        (b < 5 ∧ ∃ f ∈ wp.raising, s.clk.cycles < f.1 ∧ bitOf f.2 b = true))) ∧
      WarpOnly s t (.usprWrite g a n) w l wp ∧ ∀ j, t.s w j = s.s w j) ∧
  (∀ (s : State) (w l g d va lane : Nat) (first : Bool) (wp : Warp), Ready s (.ureadl g d va lane first) w l wp →
    (s.env (.ureadl g d va lane first) w l wp).ug g = true →
    let k := if first then (wp.split l).headD 0 else lane
    let before := if k ∈ wp.split l then none else (s.laneOf w k).before s.clk.cycles va
    (before = none → Res.v va ∉ (s.laneOf w k).busy → ∃ t, exec (.ureadl g d va lane first) s = .next t ∧
      (d < 192 → t.s w d = s.v w k va) ∧ UniEffect s t (.ureadl g d va lane first) d w l wp) ∧
    (before = none → Res.v va ∈ (s.laneOf w k).busy →
      exec (.ureadl g d va lane first) s = .next (s.waits w l wp (Run.of s) .scoreboard)) ∧
    (∀ x, before = some x → ∃ t, exec (.ureadl g d va lane first) s = .next t ∧
      (d < 192 → t.s w d = x) ∧ UniEffect s t (.ureadl g d va lane first) d w l wp)) ∧
  (∀ (s : State) (w l g d sel : Nat) (wp : Warp), Ready s (.tnow g d sel) w l wp → ∃ t, exec (.tnow g d sel) s = .next t ∧
    WarpOnly s t (.tnow g d sel) w l wp ∧ ∀ k ∈ (s.env (.tnow g d sel) w l wp).on g,
      let now := if sel = 0 then s.clk.dtime else (Run.of s).ptime
      (t.v w k d).toNat = now % 2 ^ 32 ∧ (t.v w k (d + 1)).toNat = now / 2 ^ 32 % 2 ^ 32) ∧
  (∀ (s : State) (w l g d sel : Nat) (wp : Warp), Ready s (.utime g d sel) w l wp →
    (s.env (.utime g d sel) w l wp).ug g = true → ∃ t, exec (.utime g d sel) s = .next t ∧
      WarpOnly s t (.utime g d sel) w l wp ∧
      let now := if sel = 0 then s.clk.dtime else (Run.of s).ptime
      (sel ≠ 2 → d + 1 < 192 → (t.s w d).toNat = now % 2 ^ 32 ∧ (t.s w (d + 1)).toNat = now / 2 ^ 32 % 2 ^ 32) ∧
      (sel = 2 → d < 192 → (t.s w d).toNat = s.dev.ptp.status % 2 ^ 32))

/-! ### Control flow and barriers -/

/-- BRA, BRX and CALL (R158 to R160): lanes whose guard is true go to their targets, the others to the next slot; CALL writes its
return address there; a target that R66 and R158 reject is cause 0x03 of the lowest such lane. UBRA, UCALL, URET and UJMPX (R161)
move the whole split, or the control core; UJMPX takes entry min(s[B], LIMIT) of its table. A target on a page that is not resident
is a page fault of the branch, since R66's check needs its leaf: the model's choice, entry 125. -/
def Obligations.BranchesGoToTheirTargets : Prop :=
  (∀ (s : State) (w l g : Nat) (off : Int) (wp : Warp), Ready s (.bra g off) w l wp →
    let e := s.env (.bra g off) w l wp
    let r := s.served (.bra g off) wp
    let ok := r.targetOk e (relTarget e.pc off)
    let page := r.targetPage e (relTarget e.pc off)
    (page = none ∧ ok = true ∨ e.on g = [] → ∃ t, exec (.bra g off) s = .next t ∧ IssueFrame s t (.bra g off) w l wp ∧
      ∀ k ∈ wp.split l, (t.laneOf w k).wait = .none ∧ (t.laneOf w k).pc =
        (if k ∈ e.on g then BitVec.ofNat 64 (relTarget e.pc off) else nextPc e.pc 1)) ∧
    (∀ y, page = some y → e.on g ≠ [] →
      exec (.bra g off) s = .next (s.faulted (.bra g off) w l wp (relTarget e.pc off) 3 y ((e.on g).headD 0))) ∧
    (page = none → ok = false → e.on g ≠ [] →
      exec (.bra g off) s = .next (s.trapped (.bra g off) w l wp 3 (relTarget e.pc off) ((e.on g).headD 0)))) ∧
  (∀ (s : State) (w l g a : Nat) (lit : Option Nat) (wp : Warp), Ready s (.brx g a lit) w l wp →
    let e := s.env (.brx g a lit) w l wp
    let r := s.served (.brx g a lit) wp
    let target := fun k => inWindow e.pc (e.v k a + word (lit.getD 0))
    ((∀ k ∈ e.on g, r.targetPage e (target k) = none ∧ r.targetOk e (target k) = true) → ∃ t, exec (.brx g a lit) s = .next t ∧
      IssueFrame s t (.brx g a lit) w l wp ∧ ∀ k ∈ wp.split l, (t.laneOf w k).wait = .none ∧ (t.laneOf w k).pc =
        (if k ∈ e.on g then BitVec.ofNat 64 (target k) else nextPc e.pc e.words)) ∧
    (∀ k, (e.on g).find? (fun k => (r.targetPage e (target k)).isSome || !r.targetOk e (target k)) = some k →
      (∀ y, r.targetPage e (target k) = some y →
        exec (.brx g a lit) s = .next (s.faulted (.brx g a lit) w l wp (target k) 3 y k)) ∧
      (r.targetPage e (target k) = none → exec (.brx g a lit) s = .next (s.trapped (.brx g a lit) w l wp 3 (target k) k)))) ∧
  (∀ (s : State) (w l g d : Nat) (off : Int) (wp : Warp), Ready s (.call g d off) w l wp →
    let e := s.env (.call g d off) w l wp
    let r := s.served (.call g d off) wp
    r.targetPage e (relTarget e.pc off) = none → r.targetOk e (relTarget e.pc off) = true →
    ∃ t, exec (.call g d off) s = .next t ∧ IssueFrame s t (.call g d off) w l wp ∧
      ∀ k ∈ e.on g, (t.laneOf w k).pc = BitVec.ofNat 64 (relTarget e.pc off) ∧
        t.v w k d = word (nextPc e.pc e.words).toNat) ∧
  (∀ (s : State) (w l g : Nat) (off : Int) (wp : Warp), Ready s (.ubra g off) w l wp →
    let e := s.env (.ubra g off) w l wp
    let r := s.served (.ubra g off) wp
    e.ug g = true →
    let page := r.targetPage e (relTarget e.pc off)
    (∀ y, page = some y →
      exec (.ubra g off) s = .next (s.faulted (.ubra g off) w l wp (relTarget e.pc off) 3 y e.lead)) ∧
    (page = none → r.targetOk e (relTarget e.pc off) = true → ∃ t, exec (.ubra g off) s = .next t ∧
      IssueFrame s t (.ubra g off) w l wp ∧
      ∀ k ∈ wp.split l, (t.laneOf w k).pc = BitVec.ofNat 64 (relTarget e.pc off) ∧ (t.laneOf w k).wait = .none) ∧
    (page = none → r.targetOk e (relTarget e.pc off) = false →
      exec (.ubra g off) s = .next (s.trapped (.ubra g off) w l wp 3 (relTarget e.pc off) e.lead))) ∧
  (∀ (s : State) (w l g d : Nat) (off : Int) (wp : Warp), Ready s (.ucall g d off) w l wp →
    let e := s.env (.ucall g d off) w l wp
    let r := s.served (.ucall g d off) wp
    e.ug g = true → r.targetPage e (relTarget e.pc off) = none → r.targetOk e (relTarget e.pc off) = true →
    ∃ t, exec (.ucall g d off) s = .next t ∧ IssueFrame s t (.ucall g d off) w l wp ∧
      (d < 192 → t.s w d = word (nextPc e.pc e.words).toNat) ∧
      ∀ k ∈ wp.split l, (t.laneOf w k).pc = BitVec.ofNat 64 (relTarget e.pc off) ∧ (t.laneOf w k).wait = .none) ∧
  (∀ (s : State) (w l g a : Nat) (wp : Warp), Ready s (.uret g a) w l wp →
    let e := s.env (.uret g a) w l wp
    let target := inWindow e.pc (e.us a)
    let r := s.served (.uret g a) wp
    e.ug g = true → r.targetPage e target = none → r.targetOk e target = true →
    ∃ t, exec (.uret g a) s = .next t ∧ IssueFrame s t (.uret g a) w l wp ∧
      ∀ k ∈ wp.split l, (t.laneOf w k).pc = BitVec.ofNat 64 target ∧ (t.laneOf w k).wait = .none) ∧
  (∀ (s : State) (w l g a b n : Nat) (wp : Warp), Ready s (.ujmpx g a b n) w l wp →
    let e := s.env (.ujmpx g a b n) w l wp
    let r := s.served (.ujmpx g a b n) wp
    let base := inWindow e.pc (e.us a)
    let target := pcOfSlot (slotOf base + min (e.us b).toNat n)
    let good := pcValid base && r.slotOk e base
    e.ug g = true → r.targetPage e base = none →
    (good = true → r.targetPage e target = none → r.targetOk e target = true →
      ∃ t, exec (.ujmpx g a b n) s = .next t ∧ IssueFrame s t (.ujmpx g a b n) w l wp ∧
        ∀ k ∈ wp.split l, (t.laneOf w k).pc = BitVec.ofNat 64 target ∧ (t.laneOf w k).wait = .none) ∧
    (good = false → exec (.ujmpx g a b n) s = .next (s.trapped (.ujmpx g a b n) w l wp 3 base e.lead))) ∧
  (∀ (s : State) (k g : Nat) (off : Int), ReadyCc s (.ubra g off) k →
    let e := s.envCc (.ubra g off) k
    e.ug g = true → (Run.of s).targetOk e (relTarget e.pc off) = true →
    ∃ t, exec (.ubra g off) s = .next t ∧ (t.core k).pc = BitVec.ofNat 64 (relTarget e.pc off) ∧
      (t.core k).s = (s.core k).s ∧ t.mem = s.mem)

/-- RJN (R162): lanes whose guard is true wait for the lanes of the mask, the others go on; where every lane of the mask waits there
too, or holds no live thread, all of them are released at once with true. When every live thread of a warp waits at an RJN that
cannot be released, each goes on with false and RJD is set (R163). -/
def Obligations.RejoinsWaitForTheirMask : Prop :=
  (∀ (s : State) (w l g pd : Nat) (m : RjnMask) (wp : Warp), Ready s (.rjn g pd m) w l wp →
     let e := s.env (.rjn g pd m) w l wp
     let wait := fun (k : Nat) => Wait.rjn (e.rjnMask k m) pd s.clk.cycles e.words
     exec (.rjn g pd m) s = .next (s.moved (.rjn g pd m) w l wp
       (((s.served (.rjn g pd m) wp).onLanes w (wp.split l) (fun k y =>
         if (e.on g).contains k then { y with wait := wait k } else { y with pc := nextPc e.pc e.words,
                                                                             wait := .none })).rjnCheck w)) ∧
     ((∀ k ∈ e.on g, ∀ j ∈ lanesOf (e.rjnMask k m), j ∈ e.on g ∨ (s.laneOf w j).isLive = false) →
       ∃ t, exec (.rjn g pd m) s = .next t ∧ t.mem = s.mem ∧ ∀ k ∈ e.on g,
         (t.laneOf w k).pc = nextPc e.pc e.words ∧ (t.laneOf w k).wait = .none ∧ (pd < 12 → t.p w k pd = true) ∧
         (∀ n, t.v w k n = s.v w k n))) ∧
  (∀ (s : State) (w : Nat) (wp : Warp), lookM s.dev.warps w = some wp → wp.rjnDead = true → wp.rjte = false →
     ∃ t x, exec (.rejoinDeadlock w) s = .next t ∧ lookM t.dev.warps w = some x ∧ x.wst = wp.wst ||| 0x100 ∧
       FrameWarp s t w ∧ ∀ k ∈ wp.liveLanes, ∀ m pd since n, (s.laneOf w k).wait = .rjn m pd since n →
         (t.laneOf w k).wait = .none ∧ (t.laneOf w k).pc = nextPc (s.laneOf w k).pc n ∧ (pd < 12 → t.p w k pd = false))

/-- EXIT (R41, R164): its threads wait as a release at the scope, the others go on; when the release has ended the thread is exited,
its team's count rises, and what waited for it is judged again. -/
def Obligations.ThreadsExit : Prop :=
  (∀ (s : State) (w l g scope : Nat) (wp : Warp), Ready s (.exit g scope) w l wp →
    (scope < 3 ∨ (Run.of s).nodeOf ((Run.of s).gridOf wp) = none) →
    let e := s.env (.exit g scope) w l wp
    ∃ t, exec (.exit g scope) s = .next t ∧ IssueFrame s t (.exit g scope) w l wp ∧ ∀ k ∈ wp.split l,
      (k ∈ e.on g → (t.laneOf w k).wait = .exit scope ∧ (t.laneOf w k).pc = e.pc) ∧
      (k ∉ e.on g → (t.laneOf w k).wait = .none ∧ (t.laneOf w k).pc = nextPc e.pc 1)) ∧
  (∀ (s : State) (w l scope : Nat) (wp : Warp) (r : Run), lookM s.dev.warps w = some wp →
    (s.laneOf w l).isLive = true → (s.laneOf w l).wait = .exit scope → (Run.of s).release w wp [l] scope = (true, r) →
    exec (.completionCountIncrement w l) s = .next (finish s (r.threadDone w l .exited)))

/-- BAR (R165 to R167): a split of members arrives, as a release at the level's scope, and its phase is judged; .sync waits for it and
.arrive goes on. Where every live member of a warp barrier has arrived, its waiting threads go on. A grid barrier of a grid that
is not cooperative is cause 0x14; one at team or grid level in a continuation kernel is cause 0x01, whatever its guard (R43, R79). -/
def Obligations.BarriersCollectTheirMembers : Prop :=
  (∀ (s : State) (w l : Nat) (o : BarOp) (sync : Bool) (wp : Warp) (x : Grid) (i : Instr),
    i = (if sync then .barSync o else .barArrive o) → Ready s i w l wp →
    let e := s.env i w l wp
    let r := s.served i wp
    let new := r.barNew e o
    let go := fun (r : Run) => s.moved i w l wp (((r.barArrive e o new).onLanes w (wp.split l) (fun _ y =>
      if sync then { y with wait := .bar o.level o.id } else { y with pc := nextPc e.pc e.words, wait := .none })).barCheck w)
    e.ug o.g = true → r.grid e.grid = some x →
    (o.level = 2 → x.pkt.coop = false → exec i s = .next (s.trapped i w l wp 0x14 o.id e.lead)) ∧
    ((o.level = 2 → x.pkt.coop = true) → (o.level = 1 ∨ o.id < 4) → r.barMember e o = true →
      (new = [] → exec i s = .next (go r)) ∧
      (∀ r', new ≠ [] → r.release w e.wp new o.level = (true, r') → exec i s = .next (go r')))) ∧
  (∀ (s : State) (w l : Nat) (o : BarOp) (sync : Bool) (wp : Warp) (i : Instr),
    i = (if sync then .barSync o else .barArrive o) → s.cur.agent = .warp w l → lookM s.dev.warps w = some wp →
    wp.split l ≠ [] → wp.spilled = false → o.level ≠ 0 → (Run.of s).kernelFor i wp = some true →
    exec i s = .next (s.trapped i w l wp 1 0 (s.env i w l wp).lead)) ∧
  (∀ (s : State) (w l : Nat) (o : BarOp) (wp : Warp), Ready s (.barSync o) w l wp → o.level = 0 → o.id < 4 →
    let e := s.env (.barSync o) w l wp
    e.ug o.g = true →
    (s.served (.barSync o) wp).barMember e o = true →
    (∀ k ∈ wp.split l, (Run.of s).laneLoads w k = false) →
    (∀ k ∈ wp.liveLanes, inMask (nthD wp.wbarMem o.id 0) k = true →
      k ∈ wp.split l ∨ inMask (lookD wp.wbar o.id 0) k = true) →
    ∃ t, exec (.barSync o) s = .next t ∧ t.mem = s.mem ∧ ∀ k ∈ wp.split l,
      (t.laneOf w k).wait = .none ∧ (t.laneOf w k).pc = nextPc e.pc e.words)

/-- TSLEEP (R168): a time already past gives 1 at once; another waits, and goes on with 0 when PTIME reaches it. A split does not issue
before the stall count of its last instruction is over (R25). One that asks for its port gives way to a warp of its core partition that
is ahead of it and that no other is ahead of, or to a split of its own warp served longer ago (R29). A warp that has been ready on a
port for 4,096 cycles is served ahead of its class (R30), and its registers move to the backing tier and back (R33, R34), back only
where the 2,048 words of its partition leave room (R32): nothing else of it changes; a warp whose threads wait for nothing of R33's list
does not move. The order of two warps of one class, and the round place and the stall of a merged split, are the model's choices,
entries 12 and 120. -/
def Obligations.SleepServiceAndResidency : Prop :=
  (∀ (s : State) (w l g d a : Nat) (wp : Warp), Ready s (.tsleep g d a) w l wp →
    let e := s.env (.tsleep g d a) w l wp
    e.ug g = true →
    (e.us2 a ≤ (Run.of s).ptime → ∃ t, exec (.tsleep g d a) s = .next t ∧ UniEffect s t (.tsleep g d a) d w l wp ∧
      (d < 192 → t.s w d = 1)) ∧
    ((Run.of s).ptime < e.us2 a → ∃ t, exec (.tsleep g d a) s = .next t ∧ FrameWarp s t w ∧
      ∀ k ∈ wp.split l, (t.laneOf w k).wait = .tsleep d (e.us2 a) ∧ (t.laneOf w k).pc = (s.laneOf w k).pc)) ∧
  (∀ (s : State) (w k d time : Nat) (wp : Warp), lookM s.dev.warps w = some wp → (s.laneOf w k).isLive = true →
    (s.laneOf w k).wait = .tsleep d time → time ≤ (Run.of s).ptime → ∃ t, exec (.tsleepRelease w) s = .next t ∧
      (t.laneOf w k).wait = .none ∧ (t.laneOf w k).pc = nextPc (s.laneOf w k).pc 2 ∧ (d < 192 → t.s w d = 0) ∧
      FrameWarp s t w ∧ ∀ j n, t.v w j n = s.v w j n) ∧
  (∀ (s : State) (i : Instr) (w l k : Nat) (wp : Warp), lookM s.dev.warps w = some wp → k ∈ wp.split l →
    s.clk.cycles ≤ (s.inSlot i w l).clk.cycles ∧ (s.laneOf w k).ready ≤ (s.inSlot i w l).clk.cycles ∧
    ∀ r : Run, lookM r.dev.warps w = some wp → ((s.through i w l wp r).laneOf w k).ready = r.clk.cycles + s.cur.stall) ∧
  (∀ (s t : State) (i : Instr) (w l w' l' : Nat) (wp : Warp), lookM s.dev.warps w = some wp →
    s.fetch (.warp w l) = .instr t i → s.grantee exec w l = (w', l') →
    let p := (t.slotOf i w l).2
    let rival := fun (e : Nat × Warp) => e.1 ≠ w ∧ e.2.core = wp.core ∧ e.2.part = wp.part
    let offers := fun (e : Nat × Warp) => ∃ k, (s.upTo (t.slotOf i w l).1).offer exec e.1 e.2 p = some k
    (w' = w → wp.turnOf l' ≤ wp.turnOf l ∧
      ∀ e ∈ s.dev.warps, rival e → offers e → (Run.of s).ahead p e.2 wp = false) ∧
    (w' ≠ w → ∃ x, (w', x) ∈ s.dev.warps ∧ rival (w', x) ∧ (Run.of s).ahead p x wp = true ∧
      ∀ e ∈ s.dev.warps, rival e → offers e → (Run.of s).ahead p e.2 x = false)) ∧
  (∀ (s : State) (w port since : Nat) (wp : Warp), lookM s.dev.warps w = some wp → port < 4 →
    nthD wp.since port none = some since → ∃ t, exec (.starvationPromotion w port) s = .next t ∧ FrameWarp s t w ∧
      lookM t.dev.warps w =
        some (if since + 4096 ≤ s.clk.cycles then { wp with promoted := addNew wp.promoted port } else wp)) ∧
  (∀ (s : State) (w port since : Nat) (wp : Warp), lookM s.dev.warps w = some wp → port < 4 →
    ((∀ l ∈ wp.heads, s.readyOn exec w port l = false) → nthD (s.readySince exec w wp) port none = none) ∧
    ((∃ l ∈ wp.heads, s.readyOn exec w port l = true ∧ wp.stallEnd l ≤ s.clk.cycles) → wp.spilled = false →
      s.shares w wp = true → nthD wp.since port none = some since → since ≤ s.clk.cycles →
      nthD (s.readySince exec w wp) port none = some since)) ∧
  (∀ (s : State) (w : Nat) (wp : Warp), lookM s.dev.warps w = some wp →
    let moves := !((Run.of s).core wp.core).offline && wp.lanes.all (fun y => !y.isLive || y.wait.mayMove)
    ∃ t, exec (.registerSpill w) s = .next t ∧ FrameWarp s t w ∧
      lookM t.dev.warps w = some (if moves then { wp with spilled := true } else wp)) ∧
  (∀ (s : State) (w : Nat) (wp : Warp), lookM s.dev.warps w = some wp →
    let fits := decide ((Run.of s).onDie wp.core wp.part + wp.regs ≤ 2048)
    ∃ t, exec (.registerRecall w) s = .next t ∧ FrameWarp s t w ∧
      lookM t.dev.warps w = some (if wp.spilled && fits then { wp with spilled := false } else wp))

/-! ### Memory instructions -/

/-- LD and LDP (R129 to R133): once every participating lane's location is checked and none has to wait, each lane takes its bytes
from where the location lies or asks for the fills it needs. A word of team memory that LD reads and ST writes (R37, R131): the
register takes the four bytes, lowest first; the bytes take the register's; nothing else of team memory and nothing of physical
memory changes. That a load waits in the state for its fills is the model's form, entry 16. -/
def Obligations.LoadsIssue : Prop :=
  (∀ (s : State) (w l : Nat) (o : MemOp) (wp : Warp) (ls : List (Nat × Loc)), Ready s (.ld o) w l wp →
    let e := s.env (.ld o) w l wp
    let r := s.served (.ld o) wp
    let node := r.nodeOf e.grid
    checked 0 ((e.on o.g).map (fun l => (l, r.locOf e o .load l))) = .ok ls →
    (o.ord = 1 → 3 ≤ o.scope → node = none) → ls.any (fun x => r.laneAcq w x.1) = false → anyNotReady ls = false →
    r.overlaps e node ls = false → (o.poll && r.pollWaits e node ls) = false →
    r.anyBad e node (fun _ => tyBytes o.ty) o.poll ls = none →
    exec (.ld o) s = .next (s.through (.ld o) w l wp (ls.foldl (fun r x => r.loadAt e node o.poll
      { lane := some x.1, who := [x.1], dst := o.d, size := tyBytes o.ty, sext := o.ty == 1 || o.ty == 3, field := none,
        hint := o.rd, inv := o.inv, acq := o.ord == 1 } x.2) r))) ∧
  (∀ (s : State) (w l : Nat) (o : LdpOp) (wp : Warp) (ls : List (Nat × Loc)), Ready s (.ldp o) w l wp →
    let e := s.env (.ldp o) w l wp
    let r := s.served (.ldp o) wp
    let node := r.nodeOf e.grid
    checked 0 ((e.on o.g).map (fun l => (l, r.packedLoc e o l))) = .ok ls →
    ls.any (fun x => r.laneAcq w x.1) = false → anyNotReady ls = false → r.overlaps e node ls = false →
    r.anyBad e node (fun l => (packed (e.v l o.vb).toNat (o.ty + 1)).2.1) false ls = none →
    exec (.ldp o) s = .next (s.through (.ldp o) w l wp (ls.foldl (fun r x =>
      let p := packed (e.v x.1 o.vb).toNat (o.ty + 1)
      r.loadAt e node false
        { lane := some x.1, who := [x.1], dst := o.d, size := p.2.1, sext := o.sgn, field := some (p.2.2, o.ty + 1),
          hint := o.rd, inv := o.inv, acq := false } x.2) r))) ∧
  (∀ (s : State) (w l k : Nat) (o : MemOp) (wp : Warp), Ready s (.ld o) w l wp → o.space = .team → o.ty = 4 →
    let e := s.env (.ld o) w l wp
    let a := ux ((e.v k o.a).toNat + o.off) 32
    let x := (Run.of s).teamGeom e.grid
    e.on o.g = [k] → a % 4 = 0 → teamOk x.1 x.2 a 4 = true → s.dev.ms.teamPoison = [] → (Run.of s).laneAcq w k = false →
    (o.ord = 1 → 3 ≤ o.scope → (Run.of s).nodeOf e.grid = none) → ∃ t, exec (.ld o) s = .next t ∧
      t.v w k o.d = word (ofBytes ((Run.of s).treadN wp.team a 4)) ∧ t.dev.ms = s.dev.ms ∧
      IssueFrame s t (.ld o) w l wp ∧ Past s t w (wp.split l) (Instr.ld o).words) ∧
  (∀ (s : State) (w l k : Nat) (o : MemOp) (wp : Warp), Ready s (.st o) w l wp → o.space = .team → o.ty = 4 → o.ord ≠ 2 →
    let e := s.env (.st o) w l wp
    let a := ux ((e.v k o.a).toNat + o.off) 32
    let x := (Run.of s).teamGeom e.grid
    e.on o.g = [k] → a % 4 = 0 → teamOk x.1 x.2 a 4 = true → (Run.of s).storeWaits e [k] = false →
    ∃ t, exec (.st o) s = .next t ∧ (Run.of t).treadN wp.team a 4 = bytesOf 4 (e.v k o.d).toNat ∧ t.mem = s.mem ∧
      (∀ team b, tkey team b < tkey wp.team a ∨ tkey wp.team a + 4 ≤ tkey team b →
        (Run.of t).tread team b = (Run.of s).tread team b) ∧
      (∀ j n, t.v w j n = s.v w j n) ∧ Past s t w (wp.split l) (Instr.st o).words)

/-- ST (R125, R131): a plain or releasing store whose lanes are checked, whose threads' earlier loads are there and whose release has
completed puts its bytes at the checked locations; a store to global memory is then on its way, and one lane's store leaves every
byte of memory as it was until its home applies it. That a store waits in the state for its home is the model's form, entry 16. -/
def Obligations.StoresIssue : Prop :=
  (∀ (s : State) (w l : Nat) (o : MemOp) (wp : Warp) (ls : List (Nat × Loc)), Ready s (.st o) w l wp →
    let e := s.env (.st o) w l wp
    let r := s.served (.st o) wp
    let on := e.on o.g
    let dem := anyRemote ls || (o.ord == 2 && decide (3 ≤ o.scope))
    let done := fun (r : Run) => s.through (.st o) w l wp ((ls.foldl (fun r x =>
      r.storeAt e x.1 o.rd (bytesOf (tyBytes o.ty) (ofWords (e.vs x.1 o.d (tyRegs o.ty)))) x.2) r).join r.dev.ms.nextId)
    checked 1 (on.map (fun l => (l, r.locOf e o .store l))) = .ok ls → on ≠ [] → anyNotReady ls = false →
    (dem = true → r.nodeOf e.grid = none) →
    (o.ord ≠ 2 → r.storeWaits e on = false → exec (.st o) s = .next (done r)) ∧
    (∀ r', o.ord = 2 → r.release w e.wp on o.scope = (true, r') → r'.storeWaits e on = false →
      exec (.st o) s = .next (done r'))) ∧
  (∀ (s : State) (w l k pa : Nat) (rem : Bool) (o : MemOp) (wp : Warp), Ready s (.st o) w l wp → o.space = .global →
    o.ord ≠ 2 → let e := s.env (.st o) w l wp
    let r := s.served (.st o) wp
    let ea := ux (e.v2 k o.a + o.off) 64
    e.on o.g = [k] → ea % tyBytes o.ty = 0 → canonical ea = true →
    r.xlate (r.spaceAt e) .store false ea = .ok pa rem → r.nodeOf e.grid = none →
    r.storeWaits e [k] = false → s.dev.ms.l1 = [] →
    ∃ t id st, exec (.st o) s = .next t ∧ t.mem = s.mem ∧ lookM t.dev.ms.stores id = some st ∧ st.pa = pa ∧
      st.bytes = bytesOf (tyBytes o.ty) (ofWords (e.vs k o.d (tyRegs o.ty))) ∧ st.gwct = none ∧ st.remote = rem ∧
      (∀ j n, t.v w j n = s.v w j n ∧ t.p w j n = s.p w j n) ∧ (∀ n, t.s w n = s.s w n ∧ t.g w n = s.g w n) ∧
      Past s t w (wp.split l) (Instr.st o).words)

/-- A global address whose bits [63:52] are not zero is cause 0x12 of the lowest lane that faults, with the address in TADDR;
alignment is judged first (R118, R130). -/
def Obligations.NonCanonicalAddressFaults : Prop :=
  (∀ (s : State) (w l k : Nat) (pre post : List Nat) (o : MemOp) (wp : Warp), Ready s (.ld o) w l wp → o.space = .global →
    let e := s.env (.ld o) w l wp
    let r := s.served (.ld o) wp
    let ea := ux (e.v2 k o.a + o.off) 64
    e.on o.g = pre ++ k :: post → (∀ j ∈ pre, ∃ x, r.locOf e o .load j = .ok x) → ea % tyBytes o.ty = 0 → 2 ^ 52 ≤ ea →
    exec (.ld o) s = .next (s.trapped (.ld o) w l wp 0x12 ea k)) ∧
  (∀ (s : State) (w l k : Nat) (pre post : List Nat) (o : MemOp) (wp : Warp), Ready s (.st o) w l wp → o.space = .global →
    let e := s.env (.st o) w l wp
    let r := s.served (.st o) wp
    let ea := ux (e.v2 k o.a + o.off) 64
    e.on o.g = pre ++ k :: post → (∀ j ∈ pre, ∃ x, r.locOf e o .store j = .ok x) → ea % tyBytes o.ty = 0 → 2 ^ 52 ≤ ea →
    exec (.st o) s = .next (s.trapped (.st o) w l wp 0x12 ea k)) ∧
  (∀ (s : State) (w l k : Nat) (pre post : List Nat) (o : AtomOp) (wp : Warp), Ready s (.atom o) w l wp → o.team = false →
    let e := s.env (.atom o) w l wp
    let r := s.served (.atom o) wp
    let ea := ux (e.v2 k o.a + o.off) 64
    e.on o.g = pre ++ k :: post → (∀ j ∈ pre, ∃ x, r.atomLoc e o .atomic (atomBytes o.ty) j = .ok x) →
    ea % atomBytes o.ty = 0 → 2 ^ 52 ≤ ea →
    exec (.atom o) s = .next (s.trapped (.atom o) w l wp 0x12 ea k)) ∧
  (∀ (s : State) (w l : Nat) (o : UMemOp) (wp : Warp), Ready s (.uld o) w l wp → o.cst = false →
    let e := s.env (.uld o) w l wp
    e.ug o.g = true → e.uaddr o % (4 * 2 ^ o.width) = 0 → 2 ^ 52 ≤ e.uaddr o →
    exec (.uld o) s = .next (s.trapped (.uld o) w l wp 0x12 (e.uaddr o) e.lead))

/-- A private access that does not lie within 0 to PRIVSZ - 1 is the precise fault 0x05, even with PRIVSZ zero: TADDR takes the offset
of the lowest-numbered faulting lane and TLANE that lane (R120). -/
def Obligations.PrivateLimitFaults : Prop :=
  (∀ (s : State) (w l k : Nat) (pre post : List Nat) (o : MemOp) (wp : Warp), Ready s (.ld o) w l wp → o.space = .priv →
    let e := s.env (.ld o) w l wp
    let r := s.served (.ld o) wp
    let off := ux ((e.v k o.a).toNat + o.off) 32
    e.on o.g = pre ++ k :: post → (∀ j ∈ pre, ∃ x, r.locOf e o .load j = .ok x) → off % tyBytes o.ty = 0 →
    wp.privSize < off + tyBytes o.ty →
    exec (.ld o) s = .next (s.trapped (.ld o) w l wp 5 off k)) ∧
  (∀ (s : State) (w l k : Nat) (pre post : List Nat) (o : MemOp) (wp : Warp), Ready s (.st o) w l wp → o.space = .priv →
    let e := s.env (.st o) w l wp
    let r := s.served (.st o) wp
    let off := ux ((e.v k o.a).toNat + o.off) 32
    e.on o.g = pre ++ k :: post → (∀ j ∈ pre, ∃ x, r.locOf e o .store j = .ok x) → off % tyBytes o.ty = 0 →
    wp.privSize < off + tyBytes o.ty →
    exec (.st o) s = .next (s.trapped (.st o) w l wp 5 off k)) ∧
  (∀ (s : State) (w l k : Nat) (pre post : List Nat) (o : CctlOp) (wp : Warp) (i : Instr),
    i = .cctlInv o ∨ i = .cctlWb o → Ready s i w l wp → o.priv = true →
    let e := s.env i w l wp
    let r := s.served i wp
    let off := ux ((e.v k o.a).toNat + o.off) 32
    e.on o.g = pre ++ k :: post → (∀ j ∈ pre, ∃ x, r.cctlLoc e o j = .ok x) → wp.privSize < off + 1 →
    exec i s = .next (s.trapped i w l wp 5 off k))

/-- ATOM, RED and CAS (R134 to R137): on team memory lane by lane at once; on global memory a RED of a mergeable operation becomes an
update-only partial and every other request goes to its home; each only after what its order asks for. The partial and the request
are the model's forms, entries 15 and 16. -/
def Obligations.AtomicsIssue : Prop :=
  ∀ (s : State) (w l n : Nat) (i : Instr) (o : AtomOp) (red cas : Bool) (b c : Nat → Nat) (wp : Warp) (ls : List (Nat × Loc)),
    let e := s.env i w l wp
    let r := s.served i wp
    let on := e.on o.g
    let node := r.nodeOf e.grid
    (i = .atom o ∧ red = false ∧ cas = false ∧ n = atomBytes o.ty ∧ b = (fun l => e.num l o.b (atomRegs o.ty)) ∧ c = (fun _ => 0)) ∨
      (i = .red o ∧ red = true ∧ cas = false ∧ n = atomBytes o.ty ∧ b = (fun l => e.num l o.b (atomRegs o.ty)) ∧ c = (fun _ => 0)) ∨
      (i = .cas o ∧ red = false ∧ cas = true ∧ n = 4 * 2 ^ o.op ∧ b = (fun l => e.num l o.b (2 ^ o.op)) ∧
        c = (fun l => e.num l o.c (2 ^ o.op))) →
    Ready s i w l wp →
    checked (if red then 1 else 2) (on.map (fun l => (l, r.atomLoc e o (if red then .store else .atomic) n l))) = .ok ls →
    on ≠ [] → ((anyRemote ls || (o.ord != 0 && decide (3 ≤ o.scope))) = true → node = none) →
    let merge := red && !anyRemote ls && atomPartial o.op
    let req : Atomic :=
      { core := wp.core, warp := w, grid := e.grid, acq := o.ord == 1 || o.ord == 3, node := none, team := false,
        cas := cas, red := red, op := o.op, ty := if cas then 0 else o.ty, size := n, dst := o.d, lanes := [],
        remote := false }
    let sent := fun (r : Run) =>
      let r := r.atomTeam e red cas o.op (if cas then 0 else o.ty) n o.d b c (teamOf ls)
      if globOf ls = [] then r
      else if merge then (globOf ls).foldl (fun r x => r.redL1 e o.op (if cas then 0 else o.ty) x.2.1 (b x.1)) r
      else r.atomSend e req b c (globOf ls)
    let free := fun (r : Run) => r.storeWaits e on = false ∧
      (merge = true → (globOf ls).any (fun x => r.lineBusy wp.core (nkey (r.nodeOf e.grid) x.2.1 / 128)) = false) ∧
      (red = false → (teamOf ls).findSome? (fun x => r.tpoisonRow wp.team x.2 n) = none)
    (o.ord ≠ 2 → o.ord ≠ 3 → free r → exec i s = .next (s.through i w l wp (sent r))) ∧
    (∀ r', o.ord = 2 ∨ o.ord = 3 → r.release w e.wp on o.scope = (true, r') → r'.nodeOf e.grid = node → free r' →
      exec i s = .next (s.through i w l wp (sent r')))

/-- FENCE (R139): once its release has completed, when it is one, and the loads before it, when it acquires, its threads go on; until
then they wait. CCTL (R140, Table 7.8): .pf asks for fills, .pf2 has no effect of its own, .inv drops global copies, .wb writes
private lines back, and .invall drops every global line of the core. That .inv and .wb are checked as loads is the model's choice,
entry 30. -/
def Obligations.FencesAndCacheControl : Prop :=
  (∀ (s : State) (w l g scope : Nat) (i : Instr) (rel acq : Bool) (wp : Warp),
     (i = .fenceAcq g scope ∧ rel = false ∧ acq = true) ∨ (i = .fenceRel g scope ∧ rel = true ∧ acq = false) ∨
       (i = .fenceAr g scope ∧ rel = true ∧ acq = true) ∨ (i = .fenceSc g scope ∧ rel = true ∧ acq = true) →
     Ready s i w l wp →
     let e := s.env i w l wp
     let r := s.served i wp
     let on := e.on g
     let loads := fun (r : Run) => acq && on.any (fun l => r.laneLoads w l)
     (3 ≤ scope → r.nodeOf e.grid = none) → on ≠ [] →
     (rel = false → loads r = false → exec i s = .next (s.through i w l wp r)) ∧
     (∀ r', rel = true → r.release w e.wp on scope = (true, r') → loads r' = false →
       exec i s = .next (s.through i w l wp r')) ∧
     (∀ r', rel = true → r.release w e.wp on scope = (false, r') →
       exec i s = .next (s.waits w l wp r' .fence))) ∧
  (∀ (s : State) (w l : Nat) (o : CctlOp) (wp : Warp), Ready s (.cctlPf o) w l wp →
    let e := s.env (.cctlPf o) w l wp
    let r := s.served (.cctlPf o) wp
    (o.priv = false → exec (.cctlPf o) s = .next (s.through (.cctlPf o) w l wp ((r.cctlLines e o).foldl (fun r k =>
      r.modMs (fun m => { m with fills := m.fills ++ [(wp.core, k, o.rd)] })) r))) ∧
    (o.priv = true → exec (.cctlPf o) s = .next (s.through (.cctlPf o) w l wp ((r.cctlLines e o).foldl (fun r k =>
      r.privFill w wp.core (k * 128) o.rd) r)))) ∧
  (∀ (s : State) (w l : Nat) (o : CctlOp) (wp : Warp), Ready s (.cctlPf2 o) w l wp →
    exec (.cctlPf2 o) s = .next (s.through (.cctlPf2 o) w l wp (s.served (.cctlPf2 o) wp))) ∧
  (∀ (s : State) (w l : Nat) (o : CctlOp) (wp : Warp) (ls : List (Nat × Loc)), Ready s (.cctlInv o) w l wp →
    let e := s.env (.cctlInv o) w l wp
    let r := s.served (.cctlInv o) wp
    checked 0 ((e.on o.g).map (fun l => (l, r.cctlLoc e o l))) = .ok ls →
    exec (.cctlInv o) s = .next (s.through (.cctlInv o) w l wp ((r.cctlLines e o).foldl (fun r k =>
      if o.priv then r else r.dropGlobal wp.core k) r))) ∧
  (∀ (s : State) (w l : Nat) (o : CctlOp) (wp : Warp) (ls : List (Nat × Loc)), Ready s (.cctlWb o) w l wp →
    let e := s.env (.cctlWb o) w l wp
    let r := s.served (.cctlWb o) wp
    checked 0 ((e.on o.g).map (fun l => (l, r.cctlLoc e o l))) = .ok ls →
    exec (.cctlWb o) s = .next (s.through (.cctlWb o) w l wp ((r.cctlLines e o).foldl (fun r k =>
      if o.priv then r.writeBack wp.core k else r) r))) ∧
  (∀ (s : State) (w l : Nat) (o : CctlOp) (wp : Warp), Ready s (.cctlInvall o) w l wp →
    let e := s.env (.cctlInvall o) w l wp
    e.on o.g ≠ [] → ∃ t, exec (.cctlInvall o) s = .next t ∧ (∀ k ln, lookM ((Run.of t).l1 wp.core) k = some ln →
      ln.lease = .priv) ∧ lookD t.dev.ms.partials wp.core [] = [] ∧ Past s t w (wp.split l) (Instr.cctlInvall o).words)

/-- ULD and UST (R122, R141, R387): a control core reads and writes physical memory at once, and changes no other byte of it; a
split's ULD.c reads from the launch's parameters, its ULD.g is one load and its UST one store of the split. A control core's releasing
store waits until its earlier stores are visible at device scope, and a load or a store of it is remembered for that (R125, R145,
R387). That a control core's access ends at once, and that no control core writes the bank of one that runs, are the model's choices,
entries 26 and 136. -/
def Obligations.UniformLoadsAndStores : Prop :=
  (∀ (s : State) (k : Nat) (o : UMemOp), ReadyCc s (.uld o) k → let e := s.envCc (.uld o) k
    let n := 4 * 2 ^ o.width
    e.ug o.g = true → (Run.of s).ccLoc (s.core k).mode false (e.uaddr o) n = none → s.dev.ms.partials = [] → s.dev.ms.poison = [] →
    ∃ t, exec (.uld o) s = .next t ∧ t.mem = s.mem ∧ (t.core k).pc = nextPc (s.core k).pc (Instr.uld o).words ∧
      (o.width = 0 → o.d < 192 → lookD (t.core k).s o.d 0 = word (ofBytes (s.mem.readN (e.uaddr o) 4))) ∧
      (∀ m, Res.s m ∉ (Instr.uld o).use.w → m < 192 → lookD (t.core k).s m 0 = lookD (s.core k).s m 0)) ∧
  (∀ (s : State) (k : Nat) (o : UMemOp), ReadyCc s (.ust o) k → let e := s.envCc (.ust o) k
    let n := 4 * 2 ^ o.width
    e.ug o.g = true → (Run.of s).ccLoc (s.core k).mode true (e.uaddr o) n = none →
    (o.ord = true → (Run.of s).ccReleased k = false → exec (.ust o) s = .next (finish s (Run.of s))) ∧
    ((o.ord = true → (Run.of s).ccReleased k = true) → s.dev.ms.partials = [] → s.memOk →
    ∃ t, exec (.ust o) s = .next t ∧ (t.core k).wch = max (s.core k).wch ((Run.of s).gwctOf (e.uaddr o)) ∧
      t.mem.readN (e.uaddr o) n = bytesOf n (ofWords (e.uss o.d (2 ^ o.width))) ∧
      (∀ a, a < e.uaddr o ∨ e.uaddr o + n ≤ a → t.mem.read a = s.mem.read a) ∧
      (t.core k).pc = nextPc (s.core k).pc (Instr.ust o).words ∧ (t.core k).s = (s.core k).s)) ∧
  (∀ (s : State) (w l : Nat) (o : UMemOp) (wp : Warp) (loc : Loc), Ready s (.uld o) w l wp → o.cst = false →
    let e := s.env (.uld o) w l wp
    let r := s.served (.uld o) wp
    let n := 4 * 2 ^ o.width
    e.ug o.g = true → r.globLoc (r.spaceAt e) .load (e.uaddr o) n = .ok loc →
    (o.ord = true → 3 ≤ o.scope → r.nodeOf e.grid = none) → (wp.split l).any (fun l => r.laneAcq w l) = false →
    r.overlaps e (r.nodeOf e.grid) ((wp.split l).map (fun k => (k, loc))) = false →
    r.anyBad e (r.nodeOf e.grid) (fun _ => n) false [(e.lead, loc)] = none →
    exec (.uld o) s = .next (s.through (.uld o) w l wp (r.loadAt e (r.nodeOf e.grid) false
      { lane := none, who := wp.split l, dst := o.d, size := n, sext := false, field := none, hint := 0, inv := false,
        acq := o.ord } loc))) ∧
  (∀ (s : State) (w l : Nat) (o : UMemOp) (wp : Warp) (x : Grid) (pas : List Nat) (rem : Bool), Ready s (.uld o) w l wp →
    o.cst = true → let e := s.env (.uld o) w l wp
    let r := s.served (.uld o) wp
    let n := 4 * 2 ^ o.width
    let off := ux ((if o.a = 255 then 0 else (e.us o.a).toNat : Nat) + o.off) 64
    let va := (x.pkt.param + off) % 2 ^ 64
    e.ug o.g = true → r.grid e.grid = some x → off + n ≤ 65536 → canonical va = true →
    r.xlateN (r.spaceAt e) .load false va n = .ok (pas, rem) → r.poisonRow (r.nodeOf e.grid) pas = none →
    let got := r.constBytes wp.core e.grid (r.nodeOf e.grid) pas
    exec (.uld o) s = .next (s.through (.uld o) w l wp (got.2.putSs e o.d (wordsOf (n / 4) (ofBytes got.1))))) ∧
  (∀ (s : State) (w l pa : Nat) (rem : Bool) (o : UMemOp) (wp : Warp), Ready s (.ust o) w l wp →
    let e := s.env (.ust o) w l wp
    let r := s.served (.ust o) wp
    let n := 4 * 2 ^ o.width
    let done := fun (r : Run) => s.through (.ust o) w l wp (r.storeGlob wp.core w e.grid (wp.split l) (r.nodeOf e.grid) 0 pa rem
      (bytesOf n (ofWords (e.uss o.d (2 ^ o.width)))))
    e.ug o.g = true → r.globLoc (r.spaceAt e) .store (e.uaddr o) n = .ok (.glob (run pa n) rem) →
    (o.ord = false → (rem = true → r.nodeOf e.grid = none) → r.storeWaits e (wp.split l) = false →
      exec (.ust o) s = .next (done r)) ∧
    (∀ r', o.ord = true → (rem = true ∨ 3 ≤ o.scope → r.nodeOf e.grid = none) →
      r.release w e.wp (wp.split l) o.scope = (true, r') → r'.storeWaits e (wp.split l) = false →
      exec (.ust o) s = .next (done r')))

/-! ### System registers, control cores, service records -/

/-- MFSR and MTSR (R298, R299, R310): what is read goes to the uniform register or pair and nothing else changes, but that SVCREC pops
its record; what is written goes to the named register, clamped or masked as Table 20.1 has it. A write of CCRUN that starts a core is
a device-scope release (R380). -/
def Obligations.SystemRegisters : Prop :=
  (∀ (s : State) (w l g d n : Nat) (wide : Bool) (wp : Warp), let i := Instr.mfsr g d wide n
    Ready s i w l wp → let e := s.env i w l wp
    let r := s.served i wp
    e.ug g = true → exec i s = .next (s.through i w l wp
      (r.putSw e d wide (e.wp.sysGet (r.leaseLen ((r.partOfCore e.wp.core).getD 0)) n)))) ∧
  (∀ (s : State) (k g d n : Nat) (wide : Bool), let i := Instr.mfsr g d wide n
    ReadyCc s i k → let e := s.envCc i k
    let r := Run.of s
    e.ug g = true →
    (n ≠ 0x05A → exec i s = .next (s.throughCc i k (r.putSw e d wide (r.ccGet k n)))) ∧
    (n = 0x05A → exec i s = .next (s.throughCc i k ((r.svcPop k).2.putSw e d wide (r.svcPop k).1)))) ∧
  (∀ (s : State) (w l g a n : Nat) (wide : Bool) (wp : Warp), let i := Instr.mtsr g a wide n
    Ready s i w l wp → let e := s.env i w l wp
    e.ug g = true → exec i s = .next (s.through i w l wp ((s.served i wp).modWarp w
      (fun x => x.sysSet s.clk.cycles n (if wide then e.us2 a else (e.us a).toNat) wide)))) ∧
  (∀ (s : State) (k g a n : Nat) (wide : Bool), let i := Instr.mtsr g a wide n
    ReadyCc s i k → let e := s.envCc i k
    let v := if wide then e.us2 a else (e.us a).toNat
    let waits := n = 0x054 ∧ (Run.of s).ccStarts v = true ∧ (Run.of s).ccReleased k = false
    e.ug g = true → (waits → exec i s = .next (finish s (Run.of s))) ∧
    (¬ waits → exec i s = .next (s.movedCc k (((Run.of s).modCc k (fun c => { c with pc := nextPc e.pc 2,
                                                                                     waiting := 0 })).ccSet k n v wide)))) ∧
  (∀ (r : Run) (k v : Nat) (wide : Bool), k < 4 →
    let at' := fun (n : Nat) => r.ccSet k n v wide
    (at' 0x031).dev.sys.tokrate = min 9200 (v % 2 ^ 14) ∧
    (at' 0x032).dev.sys.qclk = max 500 (min 2300 (v % 2 ^ 32)) ∧
    (at' 0x033).dev.sys.qpwr = max 300 (min 1200 (v % 2 ^ 32)) ∧
    (at' 0x051).dev.sys.fwslot = v % 2 ∧ ((at' 0x050).cc k).hbeat = word v ∧ ((at' 0x021).cc k).lpsel = v % 8 ∧
    ((at' 0x052).cc k).wdog = v % 2 ^ 32 ∧
    (∀ j, j < 8 → ((at' 0x055).cc k).intp.getLsbD j = ((r.cc k).intp.getLsbD j && !v.testBit j)) ∧
    (wide = true → ((at' 0x006).cc k).tvec = BitVec.ofNat 64 v) ∧
    (wide = false → ((at' 0x006).cc k).tvec.toNat = (r.cc k).tvec.toNat / 2 ^ 32 * 2 ^ 32 + v % 2 ^ 32) ∧
    (∀ p x, r.part (r.cc k).lpsel = some p → (at' 0x020).part (r.cc k).lpsel = some x →
      x.lease = max 64 (min 8192 (v % 2 ^ 32))))

/-- TLBI, CINV, WFI and HALT (R311, R312, R321): TLBI removes the translations it names and completes once the earlier accesses are
performed, else its core waits; WFI goes on while INTP is not zero; HALT clears the core's CCRUN bit. HIRQ sends the partition's
function an MSI-X message, a warp's after a system-scope release, a control core's once its stores are visible at device scope; a
message number of 2,048 or more, or a partition that is not valid, is cause 0x07. ECALL of CC3 in machine mode is answered at once,
and code 0 with 0; a control core's is a release, then waits for CC3, and one that a watchdog took out of its wait finds the reply or
the record that it left, which no other ECALL of the core takes (R307); a warp's queues a record and waits for the reply (R313, R314).
What TLBI waits for and when code 0 is answered are the model's choices, entries 38 and 33. -/
def Obligations.ControlCoreInstructions : Prop :=
  (∀ (s : State) (k g part : Nat) (i : Instr) (sel : Tlb → Bool) (who : Option Nat), ReadyCc s i k →
    let e := s.envCc i k
    ((∃ a b, i = .tlbiPage g a b part ∧ canonical (e.us2 a) = true ∧ ((Run.of s).part part).isSome = true ∧ who = some part ∧
        sel = (fun t => t.part == part && t.asid == (e.us b).toNat % 4096 && e.us2 a / 2 ^ t.span == t.vpn)) ∨
      (i = .tlbiPart g part ∧ ((Run.of s).part part).isSome = true ∧ who = some part ∧ sel = (fun t => t.part == part)) ∨
      (i = .tlbiAll g part ∧ who = none ∧ sel = (fun _ => true))) →
    e.ug g = true →
    let r := ((Run.of s).modSched (fun x => { x with tlb := x.tlb.filter (fun t => !sel t) })).cleanCores who
    let id := if (s.core k).waiting = 4 then (s.core k).wtime else s.dev.ms.nextId
    (r.older who id = false → exec i s = .next (s.throughCc i k r)) ∧
    (r.older who id = true →
      exec i s = .next (s.movedCc k (r.modCc k (fun c => { c with waiting := 4, wtime := id }))))) ∧
  (∀ (s : State) (k g a b part : Nat), ReadyCc s (.tlbiPage g a b part) k → let e := s.envCc (.tlbiPage g a b part) k
    e.ug g = true →
    (canonical (e.us2 a) = false →
      exec (.tlbiPage g a b part) s = .next (finish s ((Run.of s).ccTrap k 0x12 (e.us2 a) e.pc))) ∧
    (canonical (e.us2 a) = true → (Run.of s).part part = none →
      exec (.tlbiPage g a b part) s = .next (s.throughCc (.tlbiPage g a b part) k (Run.of s)))) ∧
  (∀ (s : State) (k g part : Nat), ReadyCc s (.tlbiPart g part) k → (s.envCc (.tlbiPart g part) k).ug g = true →
    (Run.of s).part part = none →
    exec (.tlbiPart g part) s = .next (s.throughCc (.tlbiPart g part) k (Run.of s))) ∧
  (∀ (s : State) (k g part : Nat), ReadyCc s (.cinvIcache g part) k → (s.envCc (.cinvIcache g part) k).ug g = true →
    ∃ t, exec (.cinvIcache g part) s = .next t ∧ t.mem = s.mem ∧
      (t.core k).pc = nextPc (s.core k).pc (Instr.cinvIcache g part).words ∧
      ∀ p c, (Run.of s).part part = some p → c < 128 → p.groups.getLsbD (c / 8) = true →
        ((Run.of t).core c).icache = [] ∧ ((Run.of t).core c).ccache = ((Run.of s).core c).ccache) ∧
  (∀ (s : State) (k g part : Nat), ReadyCc s (.cinvCcache g part) k → (s.envCc (.cinvCcache g part) k).ug g = true →
    ∃ t, exec (.cinvCcache g part) s = .next t ∧ t.mem = s.mem ∧
      (t.core k).pc = nextPc (s.core k).pc (Instr.cinvCcache g part).words ∧
      ∀ p c, (Run.of s).part part = some p → c < 128 → p.groups.getLsbD (c / 8) = true →
        ((Run.of t).core c).ccache = [] ∧ ((Run.of t).core c).icache = ((Run.of s).core c).icache) ∧
  (∀ (s : State) (k g part : Nat), ReadyCc s (.cinvL1 g part) k → (s.envCc (.cinvL1 g part) k).ug g = true →
    exec (.cinvL1 g part) s = .next (s.throughCc (.cinvL1 g part) k ((Run.of s).onCores part Run.invAll))) ∧
  (∀ (s : State) (k g : Nat), ReadyCc s (.wfi g) k → (s.envCc (.wfi g) k).ug g = true →
    ((s.core k).intp ≠ 0 → exec (.wfi g) s = .next (s.throughCc (.wfi g) k (Run.of s))) ∧
    ((s.core k).intp = 0 → ∃ t, exec (.wfi g) s = .next t ∧ t.mem = s.mem ∧
      t.core k = { s.core k with waiting := 1, ready := (Run.of s).ccReady })) ∧
  (∀ (s : State) (k g : Nat), ReadyCc s (.halt g) k → (s.envCc (.halt g) k).ug g = true → ∃ t, exec (.halt g) s = .next t ∧
    t.dev.sys.ccrun.getLsbD k = false ∧ (∀ j, j < 4 → j ≠ k → t.dev.sys.ccrun.getLsbD j = s.dev.sys.ccrun.getLsbD j) ∧
    (t.core k).s = (s.core k).s ∧ (t.core k).pc = nextPc (s.core k).pc 2 ∧ (∀ j, j < 4 → j ≠ k → t.core j = s.core j) ∧
    t.mem = s.mem) ∧
  (∀ (s : State) (k g a part : Nat), ReadyCc s (.hirq g a part) k → let e := s.envCc (.hirq g a part) k
    let r := Run.of s
    let v := (e.us a).toNat
    e.ug g = true →
    (∀ x, r.part part = some x → v < 2048 → r.ccReleased k = false → exec (.hirq g a part) s = .next (finish s r)) ∧
    (∀ x, r.part part = some x → v < 2048 → r.ccReleased k = true →
      exec (.hirq g a part) s = .next (s.throughCc (.hirq g a part) k (r.emit (.msix x.func v)))) ∧
    (∀ x, r.part part = some x → 2048 ≤ v → exec (.hirq g a part) s = .next (finish s (r.ccTrap k 7 v e.pc))) ∧
    (r.part part = none → exec (.hirq g a part) s = .next (finish s (r.ccTrap k 7 part e.pc)))) ∧
  (∀ (s : State) (w l g a part : Nat) (wp : Warp) (x : Part), Ready s (.hirq g a part) w l wp →
    let e := s.env (.hirq g a part) w l wp
    let r := s.served (.hirq g a part) wp
    let v := (e.us a).toNat
    e.ug g = true → r.part ((r.partOfCore wp.core).getD 0) = some x →
    (2048 ≤ v → exec (.hirq g a part) s = .next (s.trapped (.hirq g a part) w l wp 7 v e.lead)) ∧
    (∀ r', v < 2048 → r.nodeOf e.grid = none → r.release w e.wp everyLane 4 = (true, r') →
      exec (.hirq g a part) s = .next (s.through (.hirq g a part) w l wp (r'.emit (.msix x.func v))))) ∧
  (∀ (s : State) (k g d a code : Nat), ReadyCc s (.ecall g d a code) k → let e := s.envCc (.ecall g d a code) k
    let r := Run.of s
    e.ug g = true →
    (k = 3 → (s.core k).mode = .machine →
      exec (.ecall g d a code) s = .next (s.throughCc (.ecall g d a code) k (r.putS e d 0xFFFFFFFF))) ∧
    (¬(k = 3 ∧ (s.core k).mode = .machine) → r.ccReleased k = false → exec (.ecall g d a code) s = .next (finish s r)) ∧
    (¬(k = 3 ∧ (s.core k).mode = .machine) → r.ccReleased k = true →
      (code = 0 → exec (.ecall g d a code) s = .next (s.throughCc (.ecall g d a code) k (r.putS e d 0))) ∧
      (∀ x v, code ≠ 0 → (s.core k).call = some x → x.reply = some v →
        exec (.ecall g d a code) s = .next (s.throughCc (.ecall g d a code) k (r.modCc k (fun c => c.endCall x v)))) ∧
      (∀ x, code ≠ 0 → (s.core k).call = some x → x.reply = none → ∃ t, exec (.ecall g d a code) s = .next t ∧ t.mem = s.mem ∧
        t.core k = { s.core k with waiting := 3, wsd := d, ready := r.ccReady }) ∧
      (code ≠ 0 → (s.core k).call = none → ∃ t, exec (.ecall g d a code) s = .next t ∧ t.mem = s.mem ∧
        (t.core k).waiting = 3 ∧ (t.core k).pc = (s.core k).pc ∧ (t.core k).s = (s.core k).s ∧
        { pc := (s.core k).pc, deep := (s.core k).busy, operand := (e.us a).toNat, code := code, sd := d, sent := false,
          reply := none } ∈ (t.core k).calls ∧
        (∀ y ∈ (s.core k).calls, y.reply = none ∨ y.deep ≠ (s.core k).busy → y ∈ (t.core k).calls)))) ∧
  (∀ (s : State) (w l g d a code n : Nat) (wp : Warp) (r' : Run), Ready s (.ecall g d a code) w l wp →
    let e := s.env (.ecall g d a code) w l wp
    let r := s.served (.ecall g d a code) wp
    let part := (r.partOfCore wp.core).getD 0
    e.ug g = true → r.release w e.wp (wp.split l) 2 = (true, r') →
    (code = 0 → exec (.ecall g d a code) s = .next (s.through (.ecall g d a code) w l wp (r'.putS e d 0))) ∧
    (code ≠ 0 → r'.dev.sys.freeTicket part = some n →
    let rec' : Svc := ⟨part, n, code, (e.us a).toNat, wp.core, wp.wid, w, false⟩
    let q := r'.modSys (fun x => { x with svc := x.svc ++ [rec'] })
    exec (.ecall g d a code) s = .next (s.moved (.ecall g d a code) w l wp (((q.intp q.dev.sys.scc 5).onLanes w (wp.split l)
      (fun _ y => { y with wait := .ecall n d })).modWarp w (fun x => x.await d 1)))))

/-- The steps of control cores and service records (R298, R307, R308, R314, R378 to R380): delivery of a call enters CC3's handler
with cause 0x15; a read of SVCREC pops the oldest record and latches its source; answers, starts and stops, watchdogs, ticks,
doorbells and SQCTL do what their registers say. Ticks and watchdogs as two steps are the model's choice, entry 32. -/
def Obligations.ServiceRecordsAndControlSteps : Prop :=
  (∀ (s : State) (k : Nat) (x : CcCall), (s.core 3).busy = false → s.dev.sys.ccrun.getLsbD 3 = true → k < 4 →
    (Run.of s).callDue k = some x → (∀ j, j < k → (Run.of s).callDue j = none) →
    ∃ t, exec .serviceCallDelivery s = .next t ∧ { x with sent := true } ∈ (t.core k).calls ∧ (t.core 3).tcause = 0x15 ∧
      (t.core 3).taddr = BitVec.ofNat 64 (callAddr k x.operand x.code) ∧ (t.core 3).mode = .machine ∧ (t.core 3).busy = true ∧
      (t.core 3).pc = entryPc (s.core 3).tvec ∧
      (t.core 3).tepc = (if k = 3 then nextPc (s.core 3).pc 2 else (s.core 3).pc) ∧ t.mem = s.mem) ∧
  (∀ (s : State) (k : Nat) (x : Svc), k < 4 → s.dev.sys.svc.find? (fun y => !y.popped) = some x →
    ((Run.of s).svcPop k).1 = 2 ^ 63 + x.part * 2 ^ 60 + x.ticket * 2 ^ 50 + x.code * 2 ^ 32 + x.operand ∧
    ∃ t, exec (.svcrecRead k) s = .next t ∧ (t.core k).svcsrc = word (x.core * 65536 + x.wid) ∧
      t.dev.sys.svc = s.dev.sys.svc.map (fun y =>
        if y.part = x.part ∧ y.ticket = x.ticket then { y with popped := true } else y)) ∧
  (∀ (s : State) (k v : Nat) (x : Svc) (wp : Warp), k < 4 → bitOf v 63 = false →
    s.dev.sys.svc.find? (fun y => y.popped && y.part == fld v 60 3 && y.ticket == fld v 50 10) = some x →
    lookM s.dev.warps x.warp = some wp → ∃ t, exec (.svcrplAnswer k v) s = .next t ∧
      t.dev.sys.svc = s.dev.sys.svc.filter (fun y => !(y.part == fld v 60 3 && y.ticket == fld v 50 10)) ∧
      lookM t.dev.warps x.warp = some (wp.ecallDone s.clk.cycles (fld v 50 10) (v % 2 ^ 32)) ∧ t.mem = s.mem) ∧
  (∀ (s : State) (k v : Nat) (x : CcCall), k < 4 → bitOf v 63 = true → (s.core k).mode = .machine →
    let j := fld v 32 2
    (s.core j).asked = some x →
    ((s.core j).waiting = 3 → (s.core j).call = some x → ∃ t, exec (.svcrplAnswerCc k v) s = .next t ∧
      x ∉ (t.core j).calls ∧ (t.core j).waiting = 0 ∧ (t.core j).pc = nextPc (s.core j).pc 2 ∧
      (x.sd < 192 → lookD (t.core j).s x.sd 0 = word v)) ∧
    (¬ ((s.core j).waiting = 3 ∧ (s.core j).call = some x) → ∃ t, exec (.svcrplAnswerCc k v) s = .next t ∧
      { x with reply := some (word v) } ∈ (t.core j).calls ∧ (t.core j).s = (s.core j).s ∧ (t.core j).pc = (s.core j).pc)) ∧
  (∀ (s : State) (k j : Nat), (Run.of s).mayRun k = true → j < 4 →
    (s.dev.sys.ccrun.getLsbD j = false → (Run.of s).ccReleased k = true → ∃ t, exec (.ccrunStart k j) s = .next t ∧
      t.dev.sys.ccrun.getLsbD j = true ∧
      (t.core j).mode = .supervisor ∧ (t.core j).pc = entryPc (s.core j).tvec ∧ (t.core j).hbeat = 0) ∧
    (s.dev.sys.ccrun.getLsbD j = true → ∃ t, exec (.ccrunStop k j) s = .next t ∧ t.dev.sys.ccrun.getLsbD j = false ∧
      (t.core j).s = (s.core j).s ∧ (t.core j).calls = [])) ∧
  (∀ (s : State) (k v : Nat), k < 4 →
    (∃ t, exec (.wdogWrite k v) s = .next t ∧ (t.core k).wdog = v % 2 ^ 32) ∧
    (∃ t, exec (.intpClear k v) s = .next t ∧ (∀ j, j < 8 →
      (t.core k).intp.getLsbD j = ((s.core k).intp.getLsbD j && !v.testBit j))) ∧
    (s.dev.sys.ccrun.getLsbD k = true → (s.core k).wdog = 1 → (s.core k).busy = false →
      ∃ t, exec (.watchdogExpiry k) s = .next t ∧ (t.core k).tcause = 0x13 ∧ (t.core k).wdog = 0 ∧
        (t.core k).pc = entryPc (s.core k).tvec ∧
        (t.core k).tepc = (if (s.core k).waiting = 1 then nextPc (s.core k).pc 2 else (s.core k).pc)) ∧
    (∃ t, exec .tick s = .next t ∧ (t.core k).intp.getLsbD 0 = true ∧ (t.core k).s = (s.core k).s ∧
      (t.core k).wdog = (if s.dev.sys.ccrun.getLsbD k = true ∧ 1 < (s.core k).wdog then (s.core k).wdog - 1
        else (s.core k).wdog)) ∧
    (∃ t, exec (.sqctlHoldSet k) s = .next t ∧ t.dev.sys.hold = true ∧ (s.dev.sys.hold = false → t.dev.sys.quiet = false)) ∧
    (∃ t, exec (.sqctlHoldClear k) s = .next t ∧ t.dev.sys.hold = false ∧ t.dev.sys.quiet = false) ∧
    (∃ t, exec (.sqctlSccWrite k v) s = .next t ∧ t.dev.sys.scc = v % 4) ∧
    (s.dev.sys.scc < 4 → ∃ t, exec .hostDoorbell s = .next t ∧ (t.core s.dev.sys.scc).intp.getLsbD 4 = true))

/-! ### Quires and stream engines -/

/-- The quire instructions (R188 to R192): QBIND's statuses and the empty quire that it binds; QWAIT answers 0 for a usable slot, 1
for a broken quire, and waits otherwise; QREL empties an in-quire slot and fills an out-quire slot, or answers 1; QSTAT reads; an
unbound number is cause 0x0D. -/
def Obligations.QuireInstructions : Prop :=
  (∀ (s : State) (w l g d a n : Nat) (out : Bool) (wp : Warp), let i := Instr.qbind g d a out n
    Ready s i w l wp → let e := s.env i w l wp
    let r := s.served i wp
    e.ug g = true →
    let q := r.qbind wp.core wp.team e.grid n out (e.us a).toNat (e.us (a + 1)).toNat (e.us (a + 2)).toNat (e.us (a + 3)).toNat
    exec i s = .next (s.through i w l wp (q.2.putS e d (word q.1)))) ∧
  (∀ (r : Run) (core team g n base size cnt win : Nat) (out : Bool),
    let q := r.qbind core team g n out base size cnt win
    (∀ x, r.quire core team n = some x → x.idle = false → q.1 = 4 ∧ q.2 = r) ∧
    (r.quire core team n = none → cnt = 0 → q.1 = 1 ∧ q.2.quire core team n = none) ∧
    (q.1 = 0 → q.2.quire core team n = some (Quire.start base size cnt win out) ∧ base % 128 = 0 ∧ size % 128 = 0 ∧
      1 ≤ win ∧ win ≤ cnt)) ∧
  (∀ (s : State) (w l g d a n : Nat) (wp : Warp), let i := Instr.qwait g d a n
    Ready s i w l wp → let e := s.env i w l wp
    let r := s.served i wp
    let k := (e.us a).toNat
    e.ug g = true →
    (r.quire wp.core wp.team n = none → exec i s = .next (s.trapped i w l wp 0x0D n e.lead)) ∧
    (∀ q, r.quire wp.core wp.team n = some q →
      (q.usable k = true ∨ e.met = true → exec i s = .next (s.through i w l wp (r.putS e d 0))) ∧
      (q.usable k = false → e.met = false → q.broken = true → exec i s = .next (s.through i w l wp (r.putS e d 1))) ∧
      (q.usable k = false → e.met = false → q.broken = false → exec i s = .next (s.waits w l wp (Run.of s) .quire)))) ∧
  (∀ (s : State) (w l g d a n : Nat) (wp : Warp), let i := Instr.qrel g d a n
    Ready s i w l wp → let e := s.env i w l wp
    let r := s.served i wp
    let k := (e.us a).toNat
    let rel := fun (r : Run) => s.through i w l wp
      ((r.modQuire wp.core wp.team n (fun q => q.release k)).putS e d 0)
    e.ug g = true →
    (r.quire wp.core wp.team n = none → exec i s = .next (s.trapped i w l wp 0x0D n e.lead)) ∧
    (∀ q, r.quire wp.core wp.team n = some q →
      (q.releasable k = false → exec i s = .next (s.through i w l wp (r.putS e d 1))) ∧
      (q.releasable k = true → q.out = false → exec i s = .next (rel r)) ∧
      (∀ r', q.releasable k = true → q.out = true → r.release w e.wp (wp.split l) 1 = (true, r') →
        exec i s = .next (rel r')))) ∧
  (∀ (q : Quire) (k : Nat),
    (q.out = false → (q.release k).slot k = 0 ∧ (q.release k).c = q.c + 1 ∧ (q.release k).f = q.f) ∧
    (q.out = true → (q.release k).slot k = 2 ∧ (q.release k).f = q.f + 1 ∧ (q.release k).c = q.c) ∧
    (∀ j, j % q.count ≠ k % q.count → (q.release k).slot j = q.slot j)) ∧
  (∀ (s : State) (w l g d sel n : Nat) (wp : Warp), let i := Instr.qstat g d sel n
    Ready s i w l wp → let e := s.env i w l wp
    let r := s.served i wp
    e.ug g = true →
    (r.quire wp.core wp.team n = none → exec i s = .next (s.through i w l wp (r.putS e d 0))) ∧
    (∀ q, r.quire wp.core wp.team n = some q → exec i s = .next (s.through i w l wp (r.putS e d (word (q.stat sel))))))

/-- The commands of a running list (R195 to R200): each goes on to the next command, but for NEXT, which returns to its loop's body
while the count is not reached; DIM and LOOP abort inside their own loop; fills and drains start with their bytes. That the bytes are
taken at the start is the model's choice, entry 27. -/
def Obligations.StreamCommands : Prop :=
  ∀ (s : State) (e p : Nat) (x : CmdList), ReadyList s e p x →
    let l := e * 16 + p
    let r := Run.of s
    let past := fun (r : Run) => (.next (s.listNext l r) : Host.Outcome State Fault Refusal)
    let bad := fun (c : Nat) => (.next (finish s (r.listAbort l c ((x.pos - x.first) / 8))) : Host.Outcome State Fault Refusal)
    exec .streamNop s = past r ∧
    (∀ idx addr, (Instr.base idx addr).wf = true → exec (.base idx addr) s = past (r.modList l (fun y =>
      if idx then { y with indexbase := addr } else { y with database := addr }))) ∧
    (∀ d count stride, (Instr.dim d count stride).wf = true →
      (x.isOpen d = true → exec (.dim d count stride) s = bad 0x13) ∧
      (x.isOpen d = false → exec (.dim d count stride) s = past (r.modList l (fun y => { y with
        count := setNth y.count d count, stride := setNth y.stride d stride, idx := setNth y.idx d 0 })))) ∧
    (∀ rows rb pitch, (Instr.tile rows rb pitch).wf = true →
      exec (.tile rows rb pitch) s = past (r.modList l (fun y => { y with tile := some (rows, rb, pitch) }))) ∧
    (∀ mode, (Instr.conv mode).wf = true → exec (.conv mode) s = past (r.modList l (fun y => { y with conv := mode }))) ∧
    (∀ d, (Instr.loop d).wf = true →
      (x.isOpen d = true → exec (.loop d) s = bad 0x13) ∧
      (x.isOpen d = false → exec (.loop d) s = past (r.modList l (fun y => { y with
        idx := setNth y.idx d 0, loops := (d, y.pos + 8) :: y.loops })))) ∧
    (∀ d body ls, (Instr.next d).wf = true → x.loops = (d, body) :: ls →
      let i := nthD x.idx d 0 + 1
      (i < nthD x.count d 0 → exec (.next d) s = .next (finish s ((r.modList l (fun y => { y with
        idx := setNth y.idx d i })).modList l (fun y => { y with pos := body })))) ∧
      (nthD x.count d 0 ≤ i → exec (.next d) s = past (r.modList l (fun y => { y with
        idx := setNth y.idx d 0, loops := ls })))) ∧
    (∀ d, (Instr.next d).wf = true → (∀ y ∈ x.loops.head?, y.1 ≠ d) → exec (.next d) s = bad 0x13) ∧
    (∀ q mask rows rb pitch r' bss, (Instr.push q mask).wf = true → x.tile = some (rows, rb, pitch) →
      let qs := r.quiresOf x q (membersOf mask)
      fillBad x (r.gangOf x) mask qs = none → r.fillFree x.team qs = true →
      r.rowsRead ((r.spaceOfGrid x.grid).ofStack (l / 256)) (r.nodeOf x.grid) rb
        ((List.range rows).map (fun j => pitched x.addr j pitch)) = .ok (bss, r') →
      exec (.push q mask) s = past ((r'.fillBegin l q x (membersOf mask) qs bss).modList l (fun y =>
        { y with indexbase := x.indexbase }))) ∧
    (∀ q mask rows rb pitch r1 r2 ix bss, (Instr.gath q mask).wf = true → x.tile = some (rows, rb, pitch) →
      let qs := r.quiresOf x q (membersOf mask)
      let sp := (r.spaceOfGrid x.grid).ofStack (l / 256)
      let node := r.nodeOf x.grid
      fillBad x (r.gangOf x) mask qs = none → r.fillFree x.team qs = true →
      r.rowsRead sp node 4 ((List.range rows).map (fun j => (x.indexbase + 4 * j) % 2 ^ 64)) = .ok (ix, r1) →
      r1.rowsRead ((r1.spaceOfGrid x.grid).ofStack (l / 256)) (r1.nodeOf x.grid) rb
        (ix.map (fun w => pitched x.addr (ofBytes w) pitch)) = .ok (bss, r2) →
      exec (.gath q mask) s = past ((r2.fillBegin l q x (membersOf mask) qs bss).modList l (fun y =>
        { y with indexbase := (x.indexbase + 4 * rows) % 2 ^ 64 }))) ∧
    (∀ q mask m rows rb pitch z pas, (Instr.pull q mask).wf = true → membersOf mask = [m] → x.tile = some (rows, rb, pitch) →
      let core := r.memberCore x.team m
      let base := z.base + z.c % z.count * z.size
      m < r.gangOf x → r.quire core x.team q = some z → z.out = true → x.conv = 0 → rows * rb ≤ z.size →
      r.teamSaved x.team = false → z.slot z.c = 2 → z.draining < z.win →
      r.rowsPas ((r.spaceOfGrid x.grid).ofStack (l / 256)) rb ((List.range rows).map (fun j => pitched x.addr j pitch)) = .ok (pas, false) →
      r.tpoisoned x.team base (rows * rb) = false →
      exec (.pull q mask) s = past ((r.modQuire core x.team q (fun z => { z with
        slots := putD z.slots (z.c % z.count) 3 0, c := z.c + 1 })).startTransfer l q [m] ⟨true, q, [(m, z.c, false)],
          (x.pos - x.first) / 8, List.zip pas (r.treadN x.team base (rows * rb))⟩))

/-- Lists start, signal, stop and are cancelled, and their transfers complete (R184, R189, R193, R201, R202). That a transfer's bytes
come at once, and when a list settles, are the model's choices, entries 27 and 51. -/
def Obligations.ListsAndTransfers : Prop :=
  (∀ (s : State) (w l : Nat) (o : UXOp) (any : Bool) (wp : Warp), let i := Instr.sego o any
    Ready s i w l wp → let e := s.env i w l wp
    let r := s.served i wp
    let va := e.us2 o.a
    let eng := if any then none else some (e.us o.b).toNat
    e.ug o.g = true →
    (∀ c, r.segoFail e eng va = some c → exec i s = .next (s.through i w l wp (r.putS e o.d (word c)))) ∧
    (∀ r', r.segoFail e eng va = none → r.release w e.wp everyLane 2 = (true, r') →
      exec i s = .next (s.through i w l wp ((r'.sego e eng va).2.putS e o.d (word (r'.sego e eng va).1))))) ∧
  (∀ (s : State) (w l g d a : Nat) (wp : Warp), let i := Instr.secan g d a
    Ready s i w l wp → let e := s.env i w l wp
    let r := s.served i wp
    let id := (e.us a).toNat
    e.ug g = true →
    (∀ x, lookM s.dev.lists (id % 512) = some x → x.running = true → x.handle = false → x.aborting = none →
      id = listId (id % 512) x.gen →
      exec i s = .next (s.through i w l wp ((r.modList (id % 512) (fun y => { y with cancel := true })).putS e d 0))) ∧
    (lookM s.dev.lists (id % 512) = none → exec i s = .next (s.through i w l wp (r.putS e d 1))) ∧
    (∀ x, lookM s.dev.lists (id % 512) = some x →
      x.running = false ∨ x.handle = true ∨ x.aborting ≠ none ∨ id ≠ listId (id % 512) x.gen →
      exec i s = .next (s.through i w l wp (r.putS e d 1)))) ∧
  (∀ (s : State) (e p addr pa : Nat) (pas : List Nat) (x : CmdList), ReadyList s e p x → (Instr.sig addr).wf = true →
    let l := e * 16 + p
    let r := Run.of s
    let g := x.grid
    ((Run.of s).settled x = false → exec (.sig addr) s = .next (finish s r)) ∧
    ((Run.of s).settled x = true → r.rowPas ((r.spaceOfGrid g).ofStack (l / 256)) .store addr 8 = .ok (pa :: pas, false) →
      r.nodeOf g = none →
      s.dev.ms.partials = [] → s.memOk → ∃ t, exec (.sig addr) s = .next t ∧ t.mem.readN pa 8 = bytesOf 8 x.done ∧
        (∀ a, a < pa ∨ pa + 8 ≤ a → t.mem.read a = s.mem.read a) ∧
        (∀ y, lookM t.dev.lists l = some y → y.pos = x.pos + 8))) ∧
  (∀ (s : State) (e p : Nat) (x : CmdList), ReadyList s e p x →
    let l := e * 16 + p
    let r := Run.of s
    ((Run.of s).settled x = false → exec .stop s = .next (finish s r)) ∧
    ((Run.of s).settled x = true → exec .stop s = .next (finish s ((r.listStatus l 2 ((x.pos - x.first) / 8)).modList l
      (fun y => { y with running := false }))))) ∧
  (∀ (s : State) (e p : Nat) (x : CmdList), lookM s.dev.lists (e * 16 + p) = some x → x.running = true → x.aborting = none →
    x.cancel = true → exec (.listCancelled e p) s =
      .next (finish s ((Run.of s).listAbort (e * 16 + p) 0x14 x.firstOpen))) ∧
  (∀ (s : State) (tid core l m seq : Nat) (done : Bool) (x : CmdList) (tr : Transfer) (z : Quire), let r := Run.of s
    r.findTransfer tid = some (l, x, tr) → tr.pull = false → r.teamSaved x.team = false →
    tr.parts.find? (fun p => !p.2.2 && r.memberCore x.team p.1 == core) = some (m, seq, done) →
    r.lowerOpen x.team m tr.quire seq false = false → r.quire core x.team tr.quire = some z →
    ∃ t, exec (.slotReady tid core) s = .next t ∧
      (Run.of t).treadN x.team (z.base + seq % z.count * z.size) tr.data.length = tr.data.map (·.2) ∧
      (Run.of t).quire core x.team tr.quire = some { z with slots := putD z.slots (seq % z.count) 2 0 } ∧ t.mem = s.mem) ∧
  (∀ (s : State) (tid l m seq : Nat) (done : Bool) (ps : List (Nat × Nat × Bool)) (x : CmdList) (tr : Transfer),
    let r := Run.of s
    r.findTransfer tid = some (l, x, tr) → tr.pull = true → r.teamSaved x.team = false → tr.parts = (m, seq, done) :: ps →
    r.lowerOpen x.team m tr.quire seq true = false →
    exec (.drainComplete tid) s = .next (finish s ((((r.drainApply l x tr).modQuire
      (r.memberCore x.team m) x.team tr.quire
      (fun z => { z with slots := delM z.slots (seq % z.count) })).partDone l tid m).listFinish l)))

/-! ### The matrix unit -/

/-- Claims and operations that enter the queue (R211 to R218, R224): MCLAIM answers the lowest free run, claimed by its team, or all
ones; the others wait while the queue holds 16, check their operands, and enter; nothing of the array moves yet. MMA takes one token
for every 64 rows from its stack's pool when the pool holds them and its class's reserve beside what the ready MMAs that come before it
take, and waits otherwise; an MMA that the pool is too low for takes none (R222, R342). A block with a value out of its range, and an
MREL of a number that is out of its limits, are cause 0x07 with the word's mark in TADDR (R211, R216, R220). The order of an MMA's
checks is the model's choice, entry 54. -/
def Obligations.MatrixOperationsEnterTheQueue : Prop :=
  (∀ (s : State) (w l g d count : Nat) (wset : Bool) (wp : Warp), let i := Instr.mclaim g d wset count
    Ready s i w l wp → let e := s.env i w l wp
    let r := s.served i wp
    let c := r.core wp.core
    let found := if wset then freeRun c.setOwner 2 1 else freeRun c.slotOwner 32 count
    e.ug g = true →
    (found = none → exec i s = .next (s.through i w l wp (r.putS e d 0xFFFFFFFF))) ∧
    (∀ k, found = some k → ∃ t, exec i s = .next t ∧ (d < 192 → t.s w d = word k) ∧
      (wset = false → (∀ j, k ≤ j → j < k + count → lookM c.slotOwner j = none ∧
        lookM ((Run.of t).core wp.core).slotOwner j = some wp.team) ∧ k + count ≤ 32) ∧
      (wset = true → lookM ((Run.of t).core wp.core).setOwner k = some wp.team) ∧ t.mem = s.mem)) ∧
  (∀ (s : State) (i : Instr) (w l : Nat) (wp : Warp) (g : Nat), Ready s i w l wp → i.uniGuard = some g →
    (∃ d a ws n, i = .mrel g d a ws n) ∨ (∃ a b n o, i = .mlds g a b n o) ∨ (∃ a b q n o, i = .mldsQ g a b q n o) ∨
      (∃ a b n o, i = .mwld g a b n o) ∨ (∃ a sc z f, i = .mhad g a sc z f) ∨ (∃ a b n o, i = .maccSt g a b n o) ∨
      (∃ a b n o, i = .maccLd g a b n o) ∨ (∃ a, i = .mzero g a) ∨ (∃ a, i = .mma g a) →
    (s.env i w l wp).ug g = true → 16 ≤ ((Run.of s).core wp.core).queue.length →
    exec i s = .next (s.waits w l wp (Run.of s) .queueFull)) ∧
  (∀ (s : State) (i : Instr) (w l g : Nat) (wp : Warp), Ready s i w l wp → let e := s.env i w l wp
    let r := s.served i wp
    let put := fun (op : MOp) => exec i s = .next (s.through i w l wp (r.enqueue e op [] [] true))
    let x := fun (a : Nat) => (e.us a).toNat
    let mine := fun (k n : Nat) => k < 32 ∧ r.unclaimed e k n = none
    let free := fun (b : Nat) => r.bankOk e b = true ∧ (e.met = true ∨ (r.core wp.core).busyBank wp.team b = false)
    let tm := r.teamGeom e.grid
    e.ug g = true → (r.core wp.core).queue.length < 16 →
    (∀ d a ws n, i = .mrel g d a ws n →
      (x a < (if ws then 2 else 32) → exec i s = .next (s.through i w l wp
        ((r.enqueue e (.mrel ws (x a) n d) [] [] true).modWarp w (fun y => y.await d 1)))) ∧
      ((if ws then 2 else 32) ≤ x a → exec i s = .next (s.trapped i w l wp 7 (2 ^ 64 - 8) e.lead))) ∧
    (∀ a b n o, i = .mlds g a b n o → mine (x a) 1 → x b % 128 = 0 → teamOk tm.1 tm.2 (x b) n = true →
      put (.mlds (x b) (x a) n o)) ∧
    (∀ a b q n o ta, i = .mldsQ g a b q n o → mine (x a) 1 → r.quireLoc e.wp e.met q (x b) 0 n false = .ok (.team ta) →
      exec i s = .next (s.through i w l wp (r.enqueue e (.mldsQ q (x b) (x a) n o)
        (List.zip (List.range n) (r.treadN wp.team ta n)) (r.teamBad wp.team ta n 4) true))) ∧
    (∀ a b n o, i = .mwld g a b n o → mine (x a) (fmtBytes o) → x b < 2 → r.setMine e (x b) = true →
      exec i s = .next (s.through i w l wp ((r.modCore wp.core (fun c => { c with
        setFmt := putM c.setFmt (x b) (o, n) })).enqueue e (.mwld (x a) (x b) o n) [] [] true))) ∧
    (∀ a sc z f, i = .mhad g a sc z f → mine (x a) 1 → put (.mhad (x a) sc z f)) ∧
    (∀ a b n o, i = .maccSt g a b n o → free (x a) → x b % 64 = 0 → teamOk tm.1 tm.2 (x b) (n * 64 * maccBytes o) = true →
      put (.maccSt (x a) (x b) n o)) ∧
    (∀ a b n o, i = .maccLd g a b n o → free (x a) → x b % 64 = 0 → teamOk tm.1 tm.2 (x b) (n * 64 * maccBytes o) = true →
      put (.maccLd (x a) (x b) n o)) ∧
    (∀ a, i = .mzero g a → free (x a) → put (.mzero (x a)))) ∧
  (∀ (s : State) (w l g a : Nat) (wp : Warp), let i := Instr.mma g a
     Ready s i w l wp → let e := s.env i w l wp
     let r := s.served i wp
     let b := mmaBlock (fun k => (e.us (a + k)).toNat)
     let st := stackOf wp.core
     let need := (b.rows + 63) / 64
     let spent := fun (r : Run) => r.modPower (fun p => { p with tokens := modNth p.tokens st (fun t => t - need) })
     let pays := fun (r : Run) (cls : Nat) => need + cls * r.refill st / 8 ≤ r.tokensFor e st cls
     e.ug g = true → (r.core wp.core).queue.length < 16 →
     (∀ k, mmaBad (fun k => (e.us (a + k)).toNat) = some k →
       exec i s = .next (s.trapped i w l wp 7 (2 ^ 64 - 16 + k) e.lead)) ∧
     (∀ x, mmaBad (fun k => (e.us (a + k)).toNat) = none → r.mmaCheck e b = none → r.grid e.grid = some x →
       (b.h = false → pays r x.cls →
         exec i s = .next (s.through i w l wp ((spent r).enqueue e (b.op none) [] [] true))) ∧
       (b.h = false → ¬ pays r x.cls → exec i s = .next (s.waits w l wp (Run.of s) (.tokens need))) ∧
       (∀ pas rem, b.h = true → r.globLoc (r.spaceAt e) .load b.haddr 32 = .ok (.glob pas rem) →
         (wp.split l).any (fun k => r.laneAcq w k) = false →
         r.overlaps e (r.nodeOf e.grid) ((wp.split l).map (fun k => (k, Loc.glob pas rem))) = false →
         r.lineBusy wp.core (nkey (r.nodeOf e.grid) (pas.headD 0) / 128) = false →
         r.syncRow wp.core e.grid (r.nodeOf e.grid) pas = none →
         let got := (r.seeAt wp.core w (r.nodeOf e.grid) pas).loadSync wp.core e.grid (r.nodeOf e.grid) (pas.headD 0) 32
         let d := ofBytes got.1
         got.2.handleOk wp.core d b.rows b.fmt = true →
         got.2.grid e.grid = some x → pays got.2 x.cls →
         exec i s = .next (s.through i w l wp ((spent got.2).enqueue e (b.op (some d)) [] [] false))))) ∧
  (∀ (r : Run) (e : Env) (st cls : Nat), let pool := nthD r.dev.power.tokens st 0
    (r.mmasBefore e cls = [] → r.tokensFor e st cls = pool) ∧
    (∀ c n xs, r.mmasBefore e cls = (c, n) :: xs →
      (pool < n + c * r.refill st / 8 → r.tokensFor e st cls = xs.foldl (fun t x =>
        if t < x.2 + x.1 * r.refill st / 8 then t else t - x.2) pool) ∧
      (n + c * r.refill st / 8 ≤ pool → r.tokensFor e st cls = xs.foldl (fun t x =>
        if t < x.2 + x.1 * r.refill st / 8 then t else t - x.2) (pool - n))))

/-- MWAIT answers whether an operation on its bank has failed and forgets it, once none issued before it is queued (R215); operations
complete in the order of their resources, once no other operation of their cycle can still come before them (R212); a tile handle takes
a free position of an engine, and then its rows come to its MMA (R204, R221). Which free position is taken is the model's choice, entry
52. -/
def Obligations.MatrixOperationsComplete : Prop :=
  (∀ (s : State) (w l g d a : Nat) (wp : Warp), let i := Instr.mwait g d a
    Ready s i w l wp → let e := s.env i w l wp
    let r := s.served i wp
    let c := r.core wp.core
    let b := (e.us a).toNat
    let key := bankKey wp.team b
    let held := c.queue.any (fun x => decide (x.1 < r.mwaitUpto e) && x.2.team == wp.team && x.2.op.names.contains (128 + b))
    e.ug g = true → r.bankOk e b = true →
    (held = true → exec i s = .next (s.waits w l wp (Run.of s) (.matrix (r.mwaitUpto e)))) ∧
    (held = false → c.failed.contains key = false → exec i s = .next (s.through i w l wp (r.putS e d 0))) ∧
    (held = false → c.failed.contains key = true → exec i s = .next (s.through i w l wp
      ((r.modCore wp.core (fun c => { c with failed := c.failed.filter (fun k => k != key) })).putS e d 1)))) ∧
  (∀ (s : State) (core op : Nat) (q : QOp), let r := Run.of s
    let c := r.core core
    lookM c.queue op = some q →
    let earlier := c.queue.any (fun e => decide (e.1 < op) && e.2.shares q)
    (earlier = true ∨ s.clk.cycles ≤ queueCycle op → exec (.matrixOpComplete core op) s = .next (finish s r)) ∧
    (earlier = false → queueCycle op < s.clk.cycles → (q.streamed || q.failed) = true → exec (.matrixOpComplete core op) s =
      .next (finish s ((r.modCore core (fun c => { c with queue := delM c.queue op })).mopRun core q)))) ∧
  (∀ (s : State) (core op bank : Nat) (q : QOp), let c := (Run.of s).core core
    lookM c.queue op = some q → q.op = .mzero bank → q.streamed = true → queueCycle op < s.clk.cycles →
    c.queue.any (fun e => decide (e.1 < op) && e.2.shares q) = false → ∃ t, exec (.matrixOpComplete core op) s = .next t ∧
      lookM ((Run.of t).core core).queue op = none ∧ ((Run.of t).core core).failed.contains (bankKey q.team bank) = false ∧
      t.mem = s.mem) ∧
  (∀ (s : State) (core op first count d : Nat) (q : QOp) (wp : Warp), let c := (Run.of s).core core
    lookM c.queue op = some q → q.op = .mrel false first count d → q.streamed = true → d < 192 → queueCycle op < s.clk.cycles →
    c.queue.any (fun e => decide (e.1 < op) && e.2.shares q) = false → lookM s.dev.warps q.warp = some wp →
    let mine := (run first count).all (fun k => lookM c.slotOwner k == some q.team)
    ∃ t, exec (.matrixOpComplete core op) s = .next t ∧ t.s q.warp d = (if mine then 0 else 1) ∧
      (mine = true → ∀ k, first ≤ k → k < first + count → lookM ((Run.of t).core core).slotOwner k = none) ∧
      (mine = false → ((Run.of t).core core).slotOwner = c.slotOwner)) ∧
  (∀ (s : State) (core id d : Nat) (q : QOp) (tm : Team), let r := Run.of s
    let free := r.freePos core (hEngine d core)
    (r.core core).handleOp = some (id, q, d) → q.place = none → r.teamSaved q.team = false →
    r.team q.team = some tm →
    (free = [] → exec (.tileHandleRequest core) s = .next (finish s r)) ∧
    (free ≠ [] → let x := r.assign free q.team tm.grid q.warp 0 true
      exec (.tileHandleRequest core) s = .next (finish s (x.2.2.modCore core (fun c => { c with queue := modM c.queue id (fun q =>
        { q with place := some x.1 }) }))))) ∧
  (∀ (s : State) (core id d l : Nat) (q : QOp) (tm : Team) (r1 r2 : Run) (bss : List (List Byte)), let r := Run.of s
    (r.core core).handleOp = some (id, q, d) → q.place = some l → r.teamSaved q.team = false →
    r.warpReleased q.warp = (true, r1) → r.team q.team = some tm →
    let rows := (List.range (hRows d)).map (fun j => pitched (hBase d) j (hPitch d))
    r1.rowsRead ((r1.spaceOfGrid tm.grid).ofStack (stackOf core)) (r1.nodeOf tm.grid) (hRowBytes d) rows = .ok (bss, r2) →
    let bytes := (bss.map (convRow (hConv d))).flatten
    exec (.tileHandleRequest core) s = .next (finish s ((r2.modCore core (fun c => { c with queue := modM c.queue id (fun q =>
      { q with streamed := true, stream := List.zip (List.range bytes.length) bytes, place := none }) })).giveUp l)))

/-! ### Rendering and volumes -/

/-- SAMPLE and TXF (R130, R236 to R238) give every participating lane the four channels of its footprint, after the feedback of pages
that are not resident; an addressed index lies on its axis; a level of detail that is NaN or below zero counts as zero. TRACE, MARCH,
SUSP and SAMPLEC (R230, R231, R250): once their resume target is good, no lane's address is bad, the record area has room and the
release has completed, each participating lane's record is written and the lane is suspended; a bad target is cause 0x03. A unit
completes a record with its result (R227), or with what a fault answered as fatal leaves it (R235, R253, R323); a ray that R233 calls
dead misses. The places of records, that SAMPLEC reads at its suspension, that a target on a page that is not resident is a fault of
the XCALL itself, and what a thread has seen of the stores it read, are the model's choices, entries 58, 55, 125 and 126. -/
def Obligations.TexturesAndXcalls : Prop :=
  (∀ (s : State) (w l g d a b : Nat) (wp : Warp) (xs : List (Nat × TexRes)), let i := Instr.sample g d a b
    Ready s i w l wp → let e := s.env i w l wp
    let r := s.served i wp
    (e.on g).any (fun l => r.laneAcq w l) = false → r.texResults e 0 g b (r.sampleFp e a) = .ok xs →
    exec i s = .next (s.through i w l wp (xs.foldl (fun r x => r.onLanes w [x.1] (fun _ y => y.putVs d (x.2.chans.map word)))
      ((r.feedbackAll e xs).seeAt wp.core w (r.nodeOf e.grid) (xs.flatMap (fun x => x.2.read)))))) ∧
  (∀ (s : State) (w l g d a b : Nat) (wp : Warp) (xs : List (Nat × TexRes)), let i := Instr.txf g d a b
    Ready s i w l wp → let e := s.env i w l wp
    let r := s.served i wp
    (e.on g).any (fun l => r.laneAcq w l) = false →
    r.texResults e 0 g b (fun l t =>
      t.fetch1 (e.v l a).toNat (e.v l (a + 1)).toNat (e.v l (a + 2)).toNat (e.v l (a + 3)).toNat) = .ok xs →
    exec i s = .next (s.through i w l wp (xs.foldl (fun r x => r.onLanes w [x.1] (fun _ y => y.putVs d (x.2.chans.map word)))
      ((r.feedbackAll e xs).seeAt wp.core w (r.nodeOf e.grid) (xs.flatMap (fun x => x.2.read)))))) ∧
  (∀ (m size k : Nat) (i : Int), 0 < size → wrapIndex m size i = some k → k < size) ∧
  (∀ (size : Nat) (i : Int), 0 < size → (wrapIndex 2 size i = none ↔ i < 0 ∨ (size : Int) ≤ i)) ∧
  (∀ (t : Tex) (p : Nat), (decodeF Fmt.f32 p).isNan = true ∨ ltV (decodeF Fmt.f32 p) (.fin false 0 0) = true → t.lambda p = 0) ∧
  (∀ (t : Tex) (i j k n : Nat), t.levels ≤ n ∨ mipSize t.width n ≤ i ∨ mipSize t.height n ≤ j ∨ mipSize t.depth n ≤ k →
    ∀ rd, (t.fetch1 i j k n).value rd = [0, 0, 0, 0]) ∧
  (∀ (s : State) (w l g : Nat) (i : Instr) (x : XCall) (wp : Warp), Ready s i w l wp → let e := s.env i w l wp
    let r := s.served i wp
    let go := fun (works : Run → List (Nat × Work)) (bad : Nat → Option (Nat × Nat)) =>
      let page := r.targetPage e (relTarget e.pc x.off)
      (∀ y, page = some y → exec i s = .next (s.faulted i w l wp (relTarget e.pc x.off) 3 y e.lead)) ∧
      (page = none → r.targetOk e (relTarget e.pc x.off) = false →
        exec i s = .next (s.trapped i w l wp 3 (relTarget e.pc x.off) e.lead)) ∧
      (∀ r', page = none → r.targetOk e (relTarget e.pc x.off) = true → (∀ k ∈ e.on g, bad k = none) → e.on g ≠ [] →
        r.recRoom e.grid (e.on g).length = true → r.release w e.wp (e.on g) 2 = (true, r') →
        exec i s = .next (s.moved i w l wp (r'.suspendAll e g x (works r'))))
    (∀ n a b off, i = .trace g n a b off → x = { kind := 0, n := n, a := 4, off := off } →
      go (fun _ => (e.on g).map (fun k => (k, .trace (e.vs k a 8) (e.v2 k b)))) (fun k => badAddr (e.v2 k b) 128)) ∧
    (∀ n a b c buf all lim off, i = .march g n a b c buf all lim off → x = { kind := 1, n := n, a := 8, off := off } →
      go (fun _ => (e.on g).map (fun k => (k, .march (e.vs k a 8) (e.v2 k b) (e.vs k c 4) buf all lim)))
        (fun k => marchBad buf (e.v2 k b) (e.v2 k c))) ∧
    (∀ n off, i = .susp g n off → x = { kind := 2, n := n, a := 0, off := off } →
      go (fun _ => (e.on g).map (fun k => (k, .susp))) (fun _ => none))) ∧
  (∀ (s : State) (w l g n a b : Nat) (off : Int) (wp : Warp) (xs ys : List (Nat × TexRes)) (r' : Run),
    let i := Instr.samplec g n a b off
    Ready s i w l wp → let e := s.env i w l wp
    let r := s.served i wp
    r.targetPage e (relTarget e.pc off) = none → r.targetOk e (relTarget e.pc off) = true → e.on g ≠ [] →
    r.texResults e 4 g b (r.sampleFp e a) = .ok xs →
    r.recRoom e.grid (e.on g).length = true → r.release w e.wp (e.on g) 2 = (true, r') →
    r'.texResults e 4 g b (r'.sampleFp e a) = .ok ys →
    exec i s = .next (s.moved i w l wp ((r'.feedbackAll e ys).suspendAll e g { kind := 3, n := n, a := 4, off := off }
      (ys.map (fun x => (x.1, .sample (x.2.chans.map word))))))) ∧
  (∀ (s : State) (k : Nat) (x : Rec) (ws : List Word), lookM s.dev.sched.recs k = some x →
    (∀ t, x.completed = some t → exec (.recordCompleted k) s = .next (finish s (Run.of s))) ∧
    (x.completed = none → s.dev.sched.faults.find? (fun e => e.2.unit == some k) = none →
      (Run.of s).flushAll.unitResult x = .ok ws →
      exec (.recordCompleted k) s = .next (finish s ((Run.of s).flushAll.recComplete k x ws))) ∧
    (∀ id f, x.completed = none → s.dev.sched.faults.find? (fun e => e.2.unit == some k) = some (id, f) → f.fatal = true →
      exec (.recordCompleted k) s = .next (finish s (((Run.of s).modSched (fun y => { y with faults := delM y.faults id })).recComplete
        k x (x.work.fatal f.counts))))) ∧
  (∀ rd y root, y.dead = true → traceResult rd y root = .ok [0x7F800000, 0xFFFFFFFF, 0, 0])

/-- CADD, CRD, CRPL, CFLUSH and CBIND (R254 to R260): one lane's term enters its slot's buffer, which stays in key order and at most
eight long, or drains; CRD gives the slot's radiance and transmittance, CRPL its replay; CFLUSH drains every slot of a bank that its
team has, and names the limit of a bank that it has not; CBIND leaves every slot at its start. One step for each instruction is the
model's choice, entry 61. -/
def Obligations.Compositing : Prop :=
  (∀ (s : State) (w l g d a b c k : Nat) (wp : Warp) (bn : CBind), let i := Instr.cadd g d a b c
    Ready s i w l wp → let e := s.env i w l wp
    let r := s.served i wp
    let bank := (e.v k b).toNat / 256 % 32
    let j := (e.v k b).toNat % 256
    e.on g = [k] → (e.v k b).toNat < 2 ^ 13 → r.bound e bank = some bn → bn.logs = false → r.laneAcq w k = false →
    r.slotPoison e bank j 1 = none →
    let z := DCtx.add { bind := bn, logAt := r.logTo e } j (toTerm (e.v k a) (e.vs k (a + 1) 3) (e.v k c))
      { s := r.cslot e bank j, logs := [], held := none, lost := e.lostLogs }
    exec i s = .next (s.through i w l wp ((r.putCslot e bank j z.2.s).onLanes w [k] (fun _ y => y.putVs d [word z.1])))) ∧
  (∀ (s : State) (w l g d b k : Nat) (wp : Warp) (bn : CBind), let i := Instr.crd g d b
    Ready s i w l wp → let e := s.env i w l wp
    let r := s.served i wp
    let bank := (e.v k b).toNat / 256 % 32
    let j := (e.v k b).toNat % 256
    e.on g = [k] → (e.v k b).toNat < 2 ^ 13 → r.bound e bank = some bn → bn.logs = false → r.laneAcq w k = false →
    r.slotPoison e bank j 1 = none →
    let z := DCtx.drainAll { bind := bn, logAt := r.logTo e } j 8 { s := r.cslot e bank j, logs := [], held := none,
                                                                    lost := e.lostLogs }
    exec i s = .next (s.through i w l wp ((r.putCslot e bank j z.s).onLanes w [k] (fun _ y =>
      y.putVs d (z.s.rad.map word ++ [word z.s.t]))))) ∧
  (∀ (s : State) (w l g d b k : Nat) (wp : Warp) (bn : CBind), let i := Instr.crdCnt g d b
    Ready s i w l wp → let e := s.env i w l wp
    let r := s.served i wp
    let bank := (e.v k b).toNat / 256 % 32
    let j := (e.v k b).toNat % 256
    e.on g = [k] → (e.v k b).toNat < 2 ^ 13 → r.bound e bank = some bn → r.laneAcq w k = false →
    r.slotPoison e bank j 1 = none →
    let z := r.cslot e bank j
    exec i s = .next (s.through i w l wp ((r.putCslot e bank j z).onLanes w [k] (fun _ y => y.putVs d
      [word (z.late + 2 ^ 16 * z.disc), word (z.logn + 2 ^ 16 * z.buf.length + 2 ^ 24 * z.flags), word z.keyd, word bn.thr])))) ∧
  (∀ (s : State) (w l g d a b k : Nat) (wp : Warp) (ws : List Word) (r' : Run), let i := Instr.crpl g d a b
    Ready s i w l wp → let e := s.env i w l wp
    let r := s.served i wp
    let bank := (e.v k b).toNat / 256 % 32
    let j := (e.v k b).toNat % 256
    e.on g = [k] → (e.v k b).toNat < 2 ^ 13 → (r.bound e bank).isSome = true → r.laneAcq w k = false →
    r.slotPoison e bank j 1 = none →
    let word' := (e.v k b).toNat
    (r.crplLane e a bank j k word' = .ok (ws, none, r') →
      exec i s = .next (s.through i w l wp (r'.onLanes w [k] (fun _ y => y.putVs d ws)))) ∧
    ((r.cslot e bank j).lovf = true → r.crplLane e a bank j k word' = .ok ([0, 0, 0, 0, 0, 0, 0, 0xFFFFFFFE], none, r)) ∧
    ((r.cslot e bank j).lovf = false → (r.cslot e bank j).logn = 0 → r.crplLane e a bank j k word' =
      .ok ([0, 0, 0, 0, e.v k (a + 4), e.v k (a + 5), e.v k (a + 6), 0xFFFFFFFF], none, r))) ∧
  (∀ (s : State) (w l g d a : Nat) (wp : Warp) (bn : CBind), let i := Instr.cflush g d a
    Ready s i w l wp → let e := s.env i w l wp
    let r := s.served i wp
    let bank := (e.us a).toNat
    (e.ug g = true → r.banksOf e.grid ≤ bank → exec i s = .next (s.trapped i w l wp 7 (limAddr 8) e.lead)) ∧
    (e.ug g = true → bank < r.banksOf e.grid → r.bound e bank = some bn → bn.logs = false → r.slotPoison e bank 0 256 = none →
      (wp.split l).any (fun l => r.laneAcq w l) = false →
      exec i s = .next (s.through i w l wp (((List.range 256).foldl (fun r j => r.putCslot e bank j
        (DCtx.drainAll { bind := bn, logAt := r.logTo e } j 8 { s := r.cslot e bank j, logs := [], held := none,
                                                                lost := e.lostLogs }).s) r).putS e d 0)))) ∧
  (∀ (s : State) (w l g d a logsz : Nat) (logs : Bool) (wp : Warp), let i := Instr.cbind g d a logs logsz
    Ready s i w l wp → let e := s.env i w l wp
    let r := s.served i wp
    let bank := (e.us a).toNat
    let base := e.us2 (a + 2)
    e.ug g = true → bank < r.banksOf e.grid → (wp.split l).any (fun k => r.laneAcq w k) = false →
    e.met = true ∨ (r.core wp.core).busyBank wp.team bank = false →
    (logs = true → base % 16 = 0 ∧ canonical base = true ∧
      r.logAreaBad (r.spaceAt e) base (4096 * 2 ^ logsz) = none) →
    ∃ t, exec i s = .next t ∧ (d < 192 → t.s w d = 0) ∧ t.mem = s.mem ∧
      lookM ((Run.of t).core wp.core).cbinds (bankKey wp.team bank) = some ⟨e.us (a + 1), logs, base, logsz⟩ ∧
      ((Run.of t).core wp.core).bank (bankKey wp.team bank) = { clear := true, data := bankStart }) ∧
  (∀ (s : State) (w l g d a : Nat) (wp : Warp), let i := Instr.cbindUnb g d a
    Ready s i w l wp → let e := s.env i w l wp
    let r := s.served i wp
    let bank := (e.us a).toNat
    e.ug g = true → bank < r.banksOf e.grid → (wp.split l).any (fun k => r.laneAcq w k) = false →
    e.met = true ∨ (r.core wp.core).busyBank wp.team bank = false →
    ∃ t, exec i s = .next t ∧ (d < 192 → t.s w d = 0) ∧ t.mem = s.mem ∧
      lookM ((Run.of t).core wp.core).cbinds (bankKey wp.team bank) = none) ∧
  (∀ (x : DCtx) (j : Nat) (m : CTerm) (d : Drain), d.s.buf.length ≤ 8 → d.s.buf.Pairwise (fun a b => a.key ≤ b.key) →
    let z := x.add j m d
    z.2.s.buf.length ≤ 8 ∧ z.2.s.buf.Pairwise (fun a b => a.key ≤ b.key) ∧
    (d.s.ret = true → z.1 = 2 ∧ z.2.s.t = d.s.t ∧ z.2.s.rad = d.s.rad))

/-- TRISUB takes its records in order and answers how many were not culled, or waits for room in the queue (R239 to R241), and demotes a
contained node whose queue lies on a remote page before it writes there (R358); a bin of the fixed rasteriser is committed once, after
its draw's grid has submitted everything (R243). The three edge functions of a triangle add up to twice its area at every sample (R242).
A bin in one step is the model's choice, entry 60. -/
def Obligations.TrianglesAndBins : Prop :=
  (∀ (s : State) (w l count : Nat) (o : UXOp) (wp : Warp) (pas : List Nat) (rem : Bool) (bs : List Byte) (r1 : Run)
      (recs : List (List Byte)) (p : DrawPlace), let i := Instr.trisub o count
    Ready s i w l wp → let e := s.env i w l wp
    let r := s.served i wp
    let desc := e.us2 o.a
    let sp := r.spaceAt e
    let node := r.nodeOf e.grid
    e.ug o.g = true → r.globLoc sp .load desc 64 = .ok (.glob pas rem) → r.poisoned node pas = false →
    r.homeRead node (pas.headD 0) 64 = (bs, r1) →
    let x := DrawDesc.parse (ofBytes bs)
    (x.ok (ofBytes bs) = false → exec i s = .next (s.trapped i w l wp 7 desc e.lead)) ∧
    (x.ok (ofBytes bs) = true → r1.triRecords e (e.us o.b).toNat count = .ok recs →
      let left := recs.drop e.progress.1
      r1.drawPlaces sp desc x (left.filter (fun b => triClass x (triOf b).1 == 2)).length = .ok p →
      (∀ r', p.remote = true → r1.demoteNow e.grid = some r' → exec i s = .next (s.waits w l wp r' .fence)) ∧
      ((p.remote = true → r1.demoteNow e.grid = none ∧ r1.commitPending e.grid = false) →
      let k := (r1.drawOf e.grid desc x).1
      let t := left.foldl (TriRun.step x k node p)
        { r := (r1.drawOf e.grid desc x).2, done := e.progress.1, kept := e.progress.2, stall := false }
      (t.stall = false → exec i s = .next (s.through i w l wp ((t.r.progress e none).putS e o.d (word t.kept)))) ∧
      (t.stall = true → exec i s = .next (s.waits w l wp (t.r.progress e (some (t.done, t.kept))) .space))))) ∧
  (∀ (s : State) (k bin : Nat) (d : Draw), lookM s.dev.sched.draws k = some d → bin < d.binCount → d.bins.contains bin = false →
    d.binHas bin = true → (Run.of s).teamsDone d.grid = true → (Run.of s).commitPending d.grid = false →
    ((Run.of s).nodeOf d.grid = none ∨ (Run.of s).binRemote d bin = false) → ∃ t, exec (.rasterBinProcess k bin) s = .next t ∧
      t = finish s (((d.tris.filter (fun t => d.overlaps t bin)).foldl (fun r t => (d.binPixels bin).foldl (fun r p =>
        r.rasterSample k d t p) r) (Run.of s)).modDraw k (fun d => { d with bins := addNew d.bins bin }))) ∧
  (∀ (c : List Int) (sx sy : Int), ((edgesOf c).map (edgeAt sx sy)).foldl (fun a b => a + b) 0 = ((area2 c).natAbs : Int)) ∧
  (∀ (x : DrawDesc) (c : List Int), (triClass x c = 0 ↔ area2 c = 0 ∨ (area2 c < 0 ∧ x.cullb = true)) ∧
    (triClass x c = 1 ↔ triClass x c ≠ 0 ∧ 512 * x.thr ≤ (area2 c).natAbs))

/-! ### Presentation time, media, fabric -/

/-- The PTP servo (R263 to R265, R308). From the first lock on an offset of at most 1 ms moves no clock reading and a greater one
steps PTIME and counts the step; before it PBASE, DBASE and RATE stay as they are; at it PTIME takes the servo's time, a step that is
counted where the two differ. RATE stays within 500 parts per million. A Sync or
an Announce of another port or domain is not taken. Three announce intervals without a Sync after lock are holdover; announces that
are lost may send the unit to the other port of its pair. Each event raises MEDIA on CC2. The servo's rate, its time before the first
lock and its three lost announces are the model's choices, entries 43 and 104. -/
def Obligations.PresentationTime : Prop :=
  (∀ (s : State) (port domain : Nat) (offset rate : Int), let p := s.dev.ptp
    p.st ≠ .unlocked → port = p.port → domain = p.domain →
    ∃ t, exec (.ptpSync ⟨port, domain⟩ ⟨offset, rate⟩) s = .next t ∧ t.dev.ptp = p.sync s.clk.dtime offset rate ∧
      t.dev.ptp.lastSync = s.clk.dtime ∧ (t.core 2).intp.getLsbD 2 = true ∧ t.clk = s.clk ∧ t.mem = s.mem ∧
      (p.first = true → offset.natAbs ≤ 1000000 → (Run.of t).ptime = (Run.of s).ptime ∧ t.dev.ptp.steps = p.steps) ∧
      (p.first = true → 1000000 < offset.natAbs → (Run.of t).ptime = (((Run.of s).ptime : Int) - offset).toNat ∧
        t.dev.ptp.steps = (p.steps + 1) % 64) ∧
      (p.first = false → t.dev.ptp.first = true → (Run.of t).ptime = p.servo s.clk.dtime ∧
        t.dev.ptp.steps = (if p.servo s.clk.dtime = s.clk.dtime then p.steps else (p.steps + 1) % 64)) ∧
      (p.first = false → t.dev.ptp.first = false → (Run.of t).ptime = (Run.of s).ptime ∧ t.dev.ptp.steps = p.steps ∧
        t.dev.ptp.pbase = p.pbase ∧ t.dev.ptp.dbase = p.dbase ∧ t.dev.ptp.rate = p.rate)) ∧
  (∀ (s : State) (port domain : Nat) (offset rate : Int),
    s.dev.ptp.st = .unlocked ∨ port ≠ s.dev.ptp.port ∨ domain ≠ s.dev.ptp.domain →
    exec (.ptpSync ⟨port, domain⟩ ⟨offset, rate⟩) s = .next (finish s (Run.of s))) ∧
  (∀ (p : Ptp) (d : Nat) (offset rate : Int), -500000 ≤ p.rate → p.rate ≤ 500000 → -500000 ≤ p.srate → p.srate ≤ 500000 →
    let q := p.sync d offset rate
    q.rate ≤ 500000 ∧ -500000 ≤ q.rate ∧ q.srate ≤ 500000 ∧ -500000 ≤ q.srate ∧ q.ofs ≤ 32767 ∧ -32767 ≤ q.ofs) ∧
  (∀ (p : Ptp) (d : Nat) (offset rate : Int), (p.st ≠ .acquiring ∨ p.run + 1 < Config.lockRun ∨ offset < -40 ∨ 40 < offset) →
    p.st ≠ .locked → (p.sync d offset rate).st ≠ .locked) ∧
  (∀ (s : State) (port domain : Nat) (log : Int), port = s.dev.ptp.port → domain = s.dev.ptp.domain → -3 ≤ log →
    ∃ t, exec (.ptpAnnounce ⟨port, domain⟩ ⟨log, true⟩) s = .next t ∧ t.dev.ptp.master = true ∧ t.dev.ptp.lastAnn = s.clk.dtime ∧
      t.dev.ptp.annLog = log ∧ t.dev.ptp.port = s.dev.ptp.port ∧
      (s.dev.ptp.st = .unlocked → t.dev.ptp.st = .acquiring) ∧ (s.dev.ptp.st ≠ .unlocked → t.dev.ptp.st = s.dev.ptp.st)) ∧
  (∀ (s : State) (port domain : Nat) (log : Int) (ok : Bool),
    ok = false ∨ port ≠ s.dev.ptp.port ∨ domain ≠ s.dev.ptp.domain ∨ log < -3 →
    exec (.ptpAnnounce ⟨port, domain⟩ ⟨log, ok⟩) s = .next (finish s (Run.of s))) ∧
  (∀ (s : State) (failover : Bool), s.dev.ptp.st = .locked → s.dev.ptp.lastSync + s.dev.ptp.patience ≤ s.clk.dtime →
    ∃ t, exec (.holdoverEntry failover) s = .next t ∧ t.dev.ptp.st = .holdover ∧ (Run.of t).ptime = (Run.of s).ptime ∧
      t.dev.ptp.rate = s.dev.ptp.rate ∧ (failover = false → t.dev.ptp.port = s.dev.ptp.port)) ∧
  (∀ s : State, s.dev.ptp.lostAnn s.clk.dtime = true → ∃ t, exec (.holdoverEntry true) s = .next t ∧
    t.dev.ptp.port = (if s.dev.ptp.port % 2 = 0 then s.dev.ptp.port + 1 else s.dev.ptp.port - 1) ∧
    (Run.of t).ptime = (Run.of s).ptime ∧ (t.core 2).intp.getLsbD 2 = true) ∧
  (∀ (s : State) (failover : Bool), s.dev.ptp.lostSync s.clk.dtime = false →
    failover = false ∨ s.dev.ptp.lostAnn s.clk.dtime = false →
    exec (.holdoverEntry failover) s = .next (finish s (Run.of s))) ∧
  (∀ s : State, s.dev.ptp.master = true → s.dev.ptp.st ≠ .unlocked → ∃ t, exec .delayReq s = .next t ∧
    t.dev.outs = s.dev.outs ++ [.ptp] ∧ t.dev.ptp = s.dev.ptp)

/-- Stream registers (R272 to R276): MBIND's statuses and bindings; SRD gives each participant its pixel and true, or FILL and false
once the deadline is past, and waits before it, until PTIME passes the deadline or the pixel is there; poison in a pixel is a machine
check (R352); SWR puts each participant's pixel into the write object; a stream register that is
not bound so is cause 0x07. Pixels as pgroups at BUF are the model's choice, entry 41. -/
def Obligations.StreamRegisters : Prop :=
  (∀ (s : State) (w l g d a m : Nat) (wp : Warp), let i := Instr.mbindRx g d a m
    Ready s i w l wp → let e := s.env i w l wp
    let r := s.served i wp
    let st := fun (n : Word) => exec i s = .next (s.through i w l wp (r.putS e d n))
    e.ug g = true →
    (r.bindable e (e.us a).toNat false = none → st 1) ∧
    (∀ x, r.bindable e (e.us a).toNat false = some x → let k := x.desc.kOf (e.us2 (a + 2))
      let y := (e.us (a + 1)).toNat
      (x.desc.height < y → st 2) ∧ (y ≤ x.desc.height → x.desc.slot (k + 3) ≤ r.ptime → st 3) ∧
      (y ≤ x.desc.height → r.ptime < x.desc.slot (k + 3) → exec i s = .next (s.through i w l wp
        ((r.bindM e m ⟨(e.us a).toNat, false, y, k, x.desc.rtp k, false, none⟩).putS e d 0))))) ∧
  (∀ (s : State) (w l g d a m : Nat) (inh : Option Nat) (wp : Warp), let i := Instr.mbindOut g d a m inh
    Ready s i w l wp → let e := s.env i w l wp
    let r := s.served i wp
    let st := fun (n : Word) => exec i s = .next (s.through i w l wp (r.putS e d n))
    e.ug g = true →
    (r.bindable e (e.us a).toNat true = none → st 1) ∧
    (∀ x, r.bindable e (e.us a).toNat true = some x → let y := (e.us (a + 1)).toNat
      (x.desc.height < y → st 2) ∧
      (y ≤ x.desc.height → exec i s = .next (s.through i w l wp
        ((r.bindM e m ⟨(e.us a).toNat, true, y, 0, 0, false, inh⟩).putS e d 0))))) ∧
  (∀ (s : State) (w l g d a pd m : Nat) (norm : Bool) (wp : Warp), let i := Instr.srd g d a norm pd m
    Ready s i w l wp → let e := s.env i w l wp
    let r := s.served i wp
    let x := fun k => (e.v k a).toNat
    e.on g ≠ [] →
    (e.m m = none → exec i s = .next (s.trapped i w l wp 7 (0xFFFFFFFFFFFFFFE0 + m) ((e.on g).headD 0))) ∧
    (∀ b f, r.streamOf e g m false x = .ok (b, f) →
      let px := fun k => f.present b.frame b.line (x k)
      let here := (e.on g).all (fun k => (px k).isSome)
      let late := decide (f.desc.deadline b.frame b.line + 1000 ≤ (r.ptime : Int))
      let bad := (e.on g).findSome? (fun k => f.poisoned b.frame b.line (x k))
      (here = false → late = false → e.met = false → exec i s = .next (s.waits w l wp (Run.of s) .present)) ∧
      (∀ row, (here || late || e.met) = true → bad = some row → exec i s = .next (s.checkedOut i w l wp row noAddr)) ∧
      ((here || late || e.met) = true → bad = none → ∃ t, exec i s = .next t ∧ Past s t w (wp.split l) i.words ∧ t.mem = s.mem ∧
        ∀ k ∈ e.on g, t.v w k (d + 3) = word (x k) ∧ (pd < 12 → t.p w k pd = (px k).isSome) ∧
          let c := (px k).getD f.desc.fillPixel
          t.v w k d = f.desc.readCode norm c.1 ∧ t.v w k (d + 1) = f.desc.readCode norm c.2.1 ∧
          t.v w k (d + 2) = f.desc.readCode norm c.2.2))) ∧
  (∀ (s : State) (w l g a b m : Nat) (norm : Bool) (wp : Warp), let i := Instr.swr g a b norm m
    Ready s i w l wp → let e := s.env i w l wp
    let r := s.served i wp
    let x := fun k => (e.v k b).toNat
    e.on g ≠ [] →
    (e.m m = none → exec i s = .next (s.trapped i w l wp 7 (0xFFFFFFFFFFFFFFE0 + m) ((e.on g).headD 0))) ∧
    (∀ bd f, r.streamOf e g m true x = .ok (bd, f) →
      (f.write = none → exec i s = .next (s.waits w l wp (Run.of s) .writeObject)) ∧
      (∀ n, f.write = some n → r.nodeOf e.grid = none → bd.src = none →
        exec i s = .next (s.through i w l wp (r.modFlow bd.flow (fun f' => { f' with
        objs := putD f'.objs n ((lookD f'.objs n FrameObj.empty).putAll f.desc bd.line ((e.on g).map (fun k => (x k,
            f.desc.writeCode norm (e.v k a), f.desc.writeCode norm (e.v k (a + 1)), f.desc.writeCode norm (e.v k (a + 2))))))
          FrameObj.empty })))))) ∧
  (∀ (s : State) (w : Nat) (wp : Warp), lookM s.dev.warps w = some wp →
    wp.m.any (fun b => match b with
      | some x => !x.send && (match (Run.of s).flow x.flow with
        | some f => decide (f.desc.deadline x.frame x.line + 1000 ≤ ((Run.of s).ptime : Int))
        | none => false)
      | none => false) = true →
    ∃ t, exec (.srdDeadline w) s = .next t ∧ FrameWarp s t w ∧
      (∀ k, (s.laneOf w k).wait = .ready .present → (t.laneOf w k).wait = .none ∧ (t.laneOf w k).pc = (s.laneOf w k).pc) ∧
      (∀ k, (s.laneOf w k).wait ≠ .ready .present → t.laneOf w k = s.laneOf w k))

/-- Frames of media flows (R268 to R271, R277 to R281). FRPUB's statuses: it is judged once, and completes when its release has; a
published frame is committed at its time, else the last one sent is sent again and counted; packets leave line by line; a received
packet with a bad check sequence is dropped, counted and reported (R351), any other goes to the flow that it matches, or is counted on
one that owns its address, or is passed to the host; a descriptor that breaks a limit is refused and its flow is disabled. That FRPUB is
judged once, the interrupt of a bad frame and the fields of its record, the fields of a refused descriptor, the flow that a packet goes
to and the pgroups' order are the model's choices, entries 105, 97, 132, 103, 118 and 102. -/
def Obligations.MediaFrames : Prop :=
  (∀ (s : State) (w l g d a m : Nat) (wp : Warp), let i := Instr.frpub g d a m
    Ready s i w l wp → let e := s.env i w l wp
    let r := s.served i wp
    let st := fun (n : Word) (r : Run) => exec i s = .next (s.through i w l wp (r.putS e d n))
    e.ug g = true → r.nodeOf e.grid = none →
    (∀ r', e.progress.1 = 1 → r.release w e.wp everyLane 2 = (true, r') → st 0 (r'.progress e none)) ∧
    (e.progress.1 ≠ 1 → e.m m = none → st 1 r) ∧
    (∀ b f, e.progress.1 ≠ 1 → e.m m = some b → b.send = true → r.flow b.flow = some f → let k := f.desc.kOf (e.us2 a)
      (f.desc.slot k ≠ e.us2 a → st 2 r) ∧
      (f.desc.slot k = e.us2 a → f.write = none → exec i s = .next (s.waits w l wp (Run.of s) .writeObject)) ∧
      (∀ o, f.desc.slot k = e.us2 a → f.write = some o →
        (f.leftOut.contains k = true → st 3 (r.modFlow b.flow Flow.renew)) ∧
        (f.leftOut.contains k = false → f.desc.commitAt k ≤ (r.ptime : Int) →
          st 3 (r.modFlow b.flow (fun f => f.renew.count 5))) ∧
        (f.leftOut.contains k = false → (r.ptime : Int) < f.desc.commitAt k → (lookM f.published k).isSome = true → st 4 r) ∧
        (∀ r', f.leftOut.contains k = false → (r.ptime : Int) < f.desc.commitAt k → lookM f.published k = none →
          let done := (r.modFlow b.flow (fun f => f.publish k)).release w e.wp everyLane 2
          (done = (true, r') → st 0 r') ∧
          (done = (false, r') → exec i s = .next (s.waits w l wp (r'.progress e (some (1, 0))) .fence)))))) ∧
  (∀ (s : State) (n k : Nat) (f : Flow), (Run.of s).flow n = some f → f.desc.en = true → f.desc.send = true →
    k = (match f.committed with
      | some j => j + 1
      | none => 0) → f.desc.commitAt k ≤ ((Run.of s).ptime : Int) →
    ∃ t, exec (.frameCommit n k) s = .next t ∧ (Run.of t).flow n = some (f.commit k) ∧ t.mem = s.mem) ∧
  (∀ (f : Flow) (k : Nat), (f.commit k).committed = some k ∧
    (∀ o, lookM f.published k = some o → (f.commit k).lastSent = some o ∧ lookM (f.commit k).published k = none ∧
      (f.commit k).counters = f.counters) ∧
    (lookM f.published k = none → (f.commit k).lastSent = f.lastSent ∧
      (f.commit k).counters = modNth f.counters 4 (fun n => (n + 1) % 2 ^ 64))) ∧
  (∀ (s : State) (n : Nat) (f : Flow) (x : Sending) (rest : List Sending), (Run.of s).flow n = some f → f.sending = x :: rest →
    (((Run.of s).ptime : Int) < f.desc.slot x.frame + f.desc.offs →
      exec (.mediaPacketSend n) s = .next (finish s (Run.of s))) ∧
    (f.desc.slot x.frame + f.desc.offs ≤ ((Run.of s).ptime : Int) →
      exec (.mediaPacketSend n) s = .next (finish s ((Run.of s).sendPacket n f x rest)))) ∧
  (∀ (s : State) (port n : Nat) (p : MediaPacket) (f : Flow),
    port < 4 → p.stamp ≤ (Run.of s).ptime → (Run.of s).ptime < p.stamp + 1000 →
    let mine := s.dev.flows.filter (fun e => e.2.desc.mine port p)
    (p.good = false → exec (.mediaPacketReceive port p) s = .next (finish s
      ((((Run.of s).modRel (fun x => { x with fcs := modNth x.fcs port (fun n => n + 1) })).report 0 7 0 0xFF noAddr).intp 2 2))) ∧
    (p.good = true → mine.find? (fun e => e.2.desc.matchesPkt p) = some (n, f) →
      exec (.mediaPacketReceive port p) s = .next (finish s ((Run.of s).modFlow n (fun f => f.receive p)))) ∧
    (p.good = true → mine.find? (fun e => e.2.desc.matchesPkt p) = none → mine.head? = some (n, f) →
      exec (.mediaPacketReceive port p) s = .next (finish s ((Run.of s).modFlow n (fun f => f.receive p)))) ∧
    (p.good = true → mine = [] →
      exec (.mediaPacketReceive port p) s = .next (finish s (((Run.of s).emit (.toHost port)).intp 2 2)))) ∧
  (∀ (f : Flow) (p : MediaPacket), f.desc.matchesPkt p = false → f.receive p = f.count 2) ∧
  (∀ (s : State) (n k : Nat) (f : Flow), (Run.of s).flow n = some f → f.desc.en = true → f.desc.send = false →
    (∀ j ∈ (f.obj k).frame, j < k) → (∀ j ∈ (f.obj k).pinned, j < k) →
    (k = 0 ∨ f.desc.slot (k - 1) ≤ (Run.of s).ptime) → s.dev.warps.any (fun w => w.2.bound n (k - 4)) = false →
    s.dev.sched.images.any (fun m => m.2.any (fun w => w.2.bound n (k - 4))) = false →
    ∃ t f', exec (.frameObjectClear n k) s = .next t ∧ (Run.of t).flow n = some f' ∧
      f'.obj k = { FrameObj.empty with frame := some k }) ∧
  (∀ (s : State) (n : Nat) (ws : List Nat), n < 512 → let v := ofWords (ws.map word) % 2 ^ 512
    let ok := (FlowDesc.parse v).valid v n
    let old := lookD s.dev.flows n Flow.reset
    ∃ t f, exec (.flowDescriptorWrite n ws) s = .next t ∧ (Run.of t).flow n = some f ∧ t.mem = s.mem ∧
      f.desc.en = (v.testBit 0 && ok) ∧ (ok = true → f.desc = FlowDesc.parse v ∧ f.objs = []) ∧
      (ok = false → f = { old with desc := { old.desc with en := false } })) ∧
  (∀ (d : FlowDesc) (cs : List Nat), d.samp < 3 → d.depth < 3 → (d.samp = 0 ∨ d.depth ≠ 0) → cs.length = d.order.length →
    (∀ c ∈ cs, c < 2 ^ d.bits) → (d.pack cs).length = d.pgroup.2 ∧ d.codes (d.pack cs) = cs)

/-- Collectives (R282 to R292): CSTART's refusals and the instance it starts; CWAIT and CSTAT read it; packets hop, are added into
staging, deposited and sent on; a complete chunk is swept element by element, from the contribution of the lowest rank by rising
rank, and its result leaves as packets of 1,024 bytes or less with that rank (R286); a flit whose CRC-32C over its 60 bytes is bad is
asked for again, a good one brings bytes of a packet, whose last ones complete it, or news of packets, and a link that cannot be
trained again is down; a packet's header is laid out as Table 19.1 says. News of packets, losses of a link, the partition beside the
header, the bytes of a packet in its flits and the room of staging are the model's choices, entries 64, 65, 106, 133 and 134. -/
def Obligations.Collectives : Prop :=
  (∀ (s : State) (w l g d a : Nat) (wp : Warp), let i := Instr.cstart g d a
    Ready s i w l wp → let e := s.env i w l wp
    let r := s.served i wp
    let h := (e.us a).toNat
    let st := fun (n : Word) => exec i s = .next (s.through i w l wp (r.putS e d n))
    e.ug g = true → r.nodeOf e.grid = none →
    (r.handle (r.partOf e) h = none → st 0x200) ∧
    (∀ x, r.handle (r.partOf e) h = some x →
      let down := (linksUsed x.mcast x.hops x.route x.ops).any (fun k => !(linkOf s.dev.fabric k).up)
      let open' := (x.runs.filter (fun y => y.st == 1)).length
      (down = true → st 0x300) ∧ (down = false → 2 ≤ open' → st 0x100) ∧
      (∀ r', down = false → open' < 2 → r.release w e.wp everyLane 3 = (true, r') →
        exec i s = .next (s.through i w l wp ((r'.instStart (r.partOf e) h x).putS e d (word (x.nextInst % 4))))))) ∧
  (∀ (s : State) (w l : Nat) (o : UXOp) (wp : Warp), let i := Instr.cwait o
    Ready s i w l wp → let e := s.env i w l wp
    let r := s.served i wp
    let st := fun (n : Word) => exec i s = .next (s.through i w l wp (r.putS e o.d n))
    e.ug o.g = true → (r.handle (r.partOf e) (e.us o.a).toNat = none → st 4) ∧
    (∀ x, r.handle (r.partOf e) (e.us o.a).toNat = some x → let y := x.run ((e.us o.b).toNat % 4)
      (y.st = 0 → st 1) ∧ (2 ≤ y.st → (y.st = 2 → y.gwct < r.clk.dtime) → st (word y.status)) ∧
      (y.st ≠ 0 → e.met = true → st (word y.status)) ∧
      (y.st = 1 ∨ (y.st = 2 ∧ r.clk.dtime ≤ y.gwct) → e.met = false →
        exec i s = .next (s.waits w l wp (Run.of s) .collective)))) ∧
  (∀ (s : State) (w l g d a sel : Nat) (wp : Warp), let i := Instr.cstat g d a sel
    Ready s i w l wp → let e := s.env i w l wp
    let r := s.served i wp
    let st := fun (n : Word) => exec i s = .next (s.through i w l wp (r.putS e d n))
    e.ug g = true → (r.handle (r.partOf e) (e.us a).toNat = none → st 0) ∧
    (∀ x, r.handle (r.partOf e) (e.us a).toNat = some x → (sel ≠ 0 → st (word x.starts)) ∧
      (sel = 0 → st (word ((x.run 0).st + (x.run 1).st * 4 + (x.run 2).st * 16 + (x.run 3).st * 64 + x.nextInst % 4 * 256))))) ∧
  (∀ (s : State) (part h : Nat) (ws : List Nat), h < 1024 → ∃ t, exec (.handleWrite part h ws) s = .next t ∧
    lookM t.dev.fabric.handles (hkey part h) = some (Handle.parse (ofWords (ws.map word))) ∧ t.mem = s.mem) ∧
  (∀ (s : State) (k op : Nat) (x : Standing) (i : Instr), lookM s.dev.fabric.here k = some x → x.pkt.ops.headD 0 = op →
    let y := (Run.of s).hopLoad x
    let r := y.2.modFabric (fun f => { f with here := delM f.here k })
    let q := y.1.pkt.pop
    (op = 0 → i = .hopForward k → exec i s = .next (finish s (if y.1.pkt.route.headD 0 = 15 then r.stand { y.1 with pkt := q }
      else r.send (y.1.pkt.route.headD 0) y.1.own y.1.bad q))) ∧
    (op = 2 → i = .hopDeposit k → exec i s = .next (finish s (r.deposit y.1 id))) ∧
    (op = 3 → i = .hopMulticast k → exec i s = .next (finish s
      (r.deposit y.1 (fun r => (bitsOf y.1.pkt.mcast 8).foldl (fun r l => r.send l false y.1.bad q) r)))) ∧
    (∀ h c, op = 1 → i = .hopAdd k → (s.dev.fabric.staged x.pkt.part x.pkt.handle).length < 2 →
      s.dev.fabric.chunkRoom (chunkKey x.pkt) = true →
      r.handle y.1.pkt.part y.1.pkt.handle = some h → y.1.bad = [] → h.fits y.1.pkt = true →
      (lookD r.dev.fabric.chunks (chunkKey y.1.pkt) ⟨y.1.pkt.handle, y.1.pkt.part, y.1.pkt.inst, y.1.pkt.chunk, [], none⟩).add
        y.1.pkt q = some c →
      exec i s = .next (finish s ((r.modFabric (fun f => { f with chunks := putM f.chunks (chunkKey y.1.pkt) c })).consumed
        y.1.own y.1.pkt)))) ∧
  (∀ (s : State) (part h run chunk : Nat) (x : Handle) (c : Chunk), let key := (hkey part h * 4 + run) * 4096 + chunk
    (Run.of s).handle part h = some x → lookM s.dev.fabric.chunks key = some c →
    (c.complete x = false → exec (.chunkSweep part h run chunk) s = .next (finish s (Run.of s))) ∧
    (c.complete x = true → ∀ hops route ops mcast, c.rest = some (hops, route, ops, mcast) →
      let bs := c.swept x
      exec (.chunkSweep part h run chunk) s = .next (finish s ((packetsOf bs.length).foldl (fun r e =>
        r.stand { own := false, bad := [], pkt :=
          { ver := 1, hops := hops, plen := e.2 / 64 - 1, route := route, ops := ops, mcast := mcast, handle := h, inst := run
            rank := ((c.full x).map (·.1)).headD 0, chunk := chunk, offset := e.1 / 64, part := part
            payload := ((bs.drop e.1).take e.2).map BitVec.toNat } })
        ((Run.of s).modFabric (fun f => { f with chunks := delM f.chunks key })))))) ∧
  (∀ (x : Handle) (c : Chunk) (p q : CollPacket), c.conts.Pairwise (fun a b => a.1 < b.1) →
    ((c.full x).map (·.1)).Pairwise (· < ·) ∧ ∀ c', c.add p q = some c' → c'.conts.Pairwise (fun a b => a.1 < b.1)) ∧
  (∀ (x : Handle) (c : Chunk) (b : List Byte) (bs : List (List Byte)) (n i : Nat), let k := collBytes x.ty
    (c.full x).map (fun e => e.2.map (·.2)) = b :: bs → b.length = k * n → (∀ y ∈ bs, y.length = k * n) → i < n →
    let el := fun (y : List Byte) => ofBytes ((y.drop (k * i)).take k)
    (c.swept x).length = k * n ∧ el (c.swept x) = bs.foldl (fun r y => collOp x.op x.ty r (el y) % 256 ^ k) (el b)) ∧
  (∀ (a b : Nat), collOp 0 3 a b = (a + b) % 2 ^ 32 ∧
    (a < 2 ^ 32 → b < 2 ^ 32 → sx (collOp 1 3 a b) 32 = min (sx a 32) (sx b 32) ∧ sx (collOp 2 3 a b) 32 = max (sx a 32) (sx b 32)) ∧
    ∀ ty, ty < 3 → collOp 0 ty a b = (fAdd (collFmt ty) .rne a b).bits ∧ collOp 1 ty a b = (fMinMax (collFmt ty) false a b).bits ∧
      collOp 2 ty a b = (fMinMax (collFmt ty) true a b).bits) ∧
  (∀ (s : State) (l : Nat) (f : Flit) (m : FlitMsg), let x := linkOf s.dev.fabric l
    x.up = true → x.stuck = false → let fine := (Run.of s).modLink l (fun y => { y with fails := 0 })
    (f.good = false → ∃ t, exec (.flitReceive l f m) s = .next t ∧ (linkOf t.dev.fabric l).fails = x.fails + 1 ∧
      t.dev.outs = s.dev.outs ++ [.resend l] ∧ t.dev.fabric.here = s.dev.fabric.here) ∧
    (f.good = true →
      (m = .more → CollPacket.ofData 0 (x.part ++ f.data) = none → ∃ t, exec (.flitReceive l f m) s = .next t ∧
        (linkOf t.dev.fabric l).fails = 0 ∧ (linkOf t.dev.fabric l).part = x.part ++ f.data ∧
        t.dev.fabric.here = s.dev.fabric.here) ∧
      (∀ part p, m = .packet part → CollPacket.ofData part (x.part ++ f.data) = some p →
        (p.ok = true → s.dev.fabric.addRoom p = true → ∃ t, exec (.flitReceive l f m) s = .next t ∧
          (linkOf t.dev.fabric l).fails = 0 ∧ (linkOf t.dev.fabric l).part = [] ∧
          lookM t.dev.fabric.here s.dev.fabric.nextId = some ⟨false, [], p⟩) ∧
        (p.ok = false → exec (.flitReceive l f m) s =
          .next (finish s ((fine.modLink l (fun y => { y with part := [] })).packetEnd p 3)))) ∧
      (∀ n, m = .delivered n → ∃ t, exec (.flitReceive l f m) s = .next t ∧
        (linkOf t.dev.fabric l).out = x.out.filter (fun e => e.seq != n) ∧ t.mem = s.mem) ∧
      (∀ n, m = .resend n → exec (.flitReceive l f m) s = .next (finish s (fine.resend l n))) ∧
      (∀ part h, m = .consumed part h →
        exec (.flitReceive l f m) s = .next (finish s (fine.consumedAway (CollPacket.parse part h [])))) ∧
      (∀ part h k, m = .lost part h k →
        exec (.flitReceive l f m) s = .next (finish s (fine.instFail part h (k % 4) 2))))) ∧
  (∀ f : Flit, f.good = true ↔ f.data.length = 60 ∧ f.crc = crc32c f.data) ∧
  (∀ p : CollPacket, p.ver < 256 → p.hops < 16 → p.plen < 16 → p.route.length = 8 → (∀ x ∈ p.route, x < 16) →
    p.ops.length = 8 → (∀ x ∈ p.ops, x < 16) → p.mcast < 256 → p.handle < 1024 → p.inst < 4 → p.rank < 64 → p.chunk < 4096 →
    p.offset < 1024 → p.header < 2 ^ 128 ∧ CollPacket.parse p.part p.header p.payload = p) ∧
  (∀ (s : State) (l : Nat), (linkOf s.dev.fabric l).up = true → (linkOf s.dev.fabric l).stuck = true →
    (∃ t, exec (.linkRetrain l true) s = .next t ∧ (linkOf t.dev.fabric l).fails = 0 ∧ (linkOf t.dev.fabric l).up = true ∧
      (t.core 1).intp.getLsbD 3 = true) ∧
    (exec (.linkRetrain l false) s = .next (finish s (((Run.of s).linkDown l).intp 1 3))))

/-- Timed barriers (R293 to R296): TBAR answers 2 where the card has no group or keeps no time, faults outside team 0, and otherwise
joins its phase after a fabric-scope release; the master gathers arrivals and sends the list; a card that the list reaches after T is
left out; at T a phase ends. The groups come from outside: the model's choice, entry 66. -/
def Obligations.TimedBarriers : Prop :=
  (∀ (s : State) (w l g d a id : Nat) (wp : Warp) (tm : Team), let i := Instr.tbar g d a id
    Ready s i w l wp → let e := s.env i w l wp
    let r := s.served i wp
    let time := e.us2 a
    let none' := (r.tgroup e.grid id).isNone || !r.timeKept
    e.ug g = true → r.team wp.team = some tm →
    (tm.idx ≠ 0 → exec i s = .next (s.trapped i w l wp 7 id e.lead)) ∧
    (∀ t', tm.idx = 0 → none' = false → (nthD tm.timed id TBar.idle).time = some t' → t' ≠ time →
      exec i s = .next (s.trapped i w l wp 7 time e.lead)) ∧
    (tm.idx = 0 → none' = true → r.nodeOf e.grid = none → exec i s = .next (s.through i w l wp (r.putS e d 2))) ∧
    (∀ r', tm.idx = 0 → none' = false → (∀ t' ∈ (nthD tm.timed id TBar.idle).time, t' = time) → r.nodeOf e.grid = none →
      r.release w e.wp (wp.split l) 3 = (true, r') →
      let r1 := r'.modTeam wp.team (fun x => { x with timed := modNth x.timed id (fun b =>
        { b with time := some time, arrived := b.arrived ++ (wp.split l).map (fun k => 32 * wp.wid + k) }) })
      exec i s = .next (s.moved i w l wp ((((r1.onLanes w (wp.split l) (fun _ y => { y with wait := .tbar id d time })).modWarp w
        (fun x => x.await d 1)).barTimed1 wp.team id))))) ∧
  (∀ (s : State) (grp rank time : Nat) (g : TGroup), lookM s.dev.fabric.groups grp = some g → g.rank = g.master →
    g.ranks.contains rank = true → g.arrivals.contains (rank, time) = false → rank ≠ g.rank → (Run.of s).ptime + 2000 ≤ time →
    ∃ t, exec (.tbarArrival grp rank time) s = .next t ∧
      lookM t.dev.fabric.groups grp = some { g with arrivals := g.arrivals ++ [(rank, time)] } ∧ t.mem = s.mem) ∧
  (∀ (s : State) (grp time : Nat) (g : TGroup), lookM s.dev.fabric.groups grp = some g → g.rank = g.master →
    g.lists.any (fun y => y.1 == time) = false → time ≤ (Run.of s).ptime + 2000 → (Run.of s).tbarNamed grp time g = true →
    let ranks := (g.arrivals.filter (fun y => y.2 == time)).map (·.1)
    exec (.tbarListSend grp time) s = .next (finish s ((((Run.of s).modGroup grp (fun g => { g with
      arrivals := g.arrivals.filter (fun y => y.2 != time) })).emit (.tbarList grp time ranks)).listReceive grp time ranks))) ∧
  (∀ (s : State) (grp time : Nat) (ranks : List Nat) (g : TGroup), lookM s.dev.fabric.groups grp = some g →
    (g.rank ≠ g.master → exec (.tbarListReceipt grp time ranks) s =
      .next (finish s ((Run.of s).listReceive grp time ranks))) ∧
    (g.rank = g.master → exec (.tbarListReceipt grp time ranks) s = .next (finish s (Run.of s)))) ∧
  (∀ (s : State) (grp time : Nat) (g : TGroup), lookM s.dev.fabric.groups grp = some g →
    ((Run.of s).ptime < time → exec (.tbarRelease grp time) s = .next (finish s (Run.of s))) ∧
    (time ≤ (Run.of s).ptime → exec (.tbarRelease grp time) s = .next (finish s
      (((Run.of s).phasesOf grp time).foldl (fun r y => r.phaseRelease y.1 y.2.1 y.2.2 time) (Run.of s))))) ∧
  (∀ (r : Run) (team part id time : Nat) (tm : Team), r.team team = some tm → (nthD tm.timed id TBar.idle).sent = true →
    (nthD tm.timed id TBar.idle).listed = some true →
    r.phaseRelease team part id time =
      (r.modTeamWarps team (fun w => w.tbarWake r.clk.cycles id time 0)).modTimed team id (fun _ => TBar.idle)) ∧
  (∀ (r : Run) (grp time : Nat) (ranks : List Nat) (g : TGroup), lookM r.dev.fabric.groups grp = some g → time < r.ptime →
    r.listReceive grp time ranks = r.listReceive grp time (ranks.filter (fun k => k != g.rank)))

/-! ### Steps of the memory system -/

/-- Steps of the memory system (R124, R125, R127, R136, R137, R146, R155, R315): a fill returns the home's bytes under a lease, or under
none where only .inv loads have asked, and completes a load; a home applies a store, then an acknowledgement carries its GWCT into
WCH or takes one from OAC; an atomic reads and writes at its home; the host and peers write there, and a peer's write is acknowledged
once it is visible at device scope; each changes no other byte of memory. That an access of the host or of a peer past the end of the
card's GDDR 7 (R315, Table 21.1) changes nothing is the model's choice, entry 37; so are one lease of a line for all nodes, memory
accesses under way in the state, and what a warp has seen of other warps' stores, entries 117, 16 and 126. -/
def Obligations.MemorySystemSteps : Prop :=
  (∀ (s : State) (core line : Nat), s.dev.ms.partials = [] → s.dev.ms.poison = [] → s.dev.ms.l1 = [] → s.dev.ms.atomics = [] →
    (∃ f ∈ s.dev.ms.fills, f.1 = core ∧ f.2.1 = line) → ∃ t, exec (.mergingFill core line) s = .next t ∧ t.mem = s.mem ∧
      lookM t.dev.ms.leases (line % 2 ^ 41) = some (max (s.clk.dtime + (Run.of s).leaseLen (((Run.of s).partOfCore core).getD 0))
        (lookD s.dev.ms.leases (line % 2 ^ 41) 0)) ∧
      t.dev.ms.fills = s.dev.ms.fills.filter (fun f => !(f.1 == core && f.2.1 == line))) ∧
  (∀ (s : State) (core line : Nat), s.dev.ms.partials = [] → s.dev.ms.poison = [] → s.dev.ms.l1 = [] → s.dev.ms.atomics = [] →
    (∀ f ∈ s.dev.ms.fills, f.1 ≠ core ∨ f.2.1 ≠ line) →
    (∀ e ∈ s.dev.ms.loads, e.2.core = core → e.2.on line = true → e.2.inv = true) →
    ∃ t, exec (.mergingFill core line) s = .next t ∧ t.mem = s.mem ∧ t.dev.ms.leases = s.dev.ms.leases) ∧
  (∀ (s : State) (core line id pa k : Nat) (ld : Load) (wp : Warp), s.dev.ms.loads = [(id, ld)] → s.dev.ms.stores = [] →
    s.dev.ms.partials = [] → s.dev.ms.poison = [] → s.dev.ms.l1 = [] → s.dev.ms.atomics = [] → s.dev.ms.xbad = [] → ld.core = core →
    ld.lane = some k → ld.node = none → ld.addrs = run pa 4 → ld.got = [] → ld.size = 4 → ld.field = none →
    pa / 128 = line → (pa + 3) / 128 = line → line < 2 ^ 41 → lookM s.dev.warps ld.warp = some wp →
    (s.laneOf ld.warp k).isLive = true → ∃ t, exec (.mergingFill core line) s = .next t ∧ t.mem = s.mem ∧
      t.v ld.warp k ld.dst = word (ofBytes (s.mem.readN pa 4)) ∧ t.dev.ms.loads = [] ∧
      (∀ j n, (j ≠ k ∨ n ≠ ld.dst) → t.v ld.warp j n = s.v ld.warp j n)) ∧
  (∀ (s : State) (id : Nat) (st : Store), lookM s.dev.ms.stores id = some st → st.gwct = none →
    (Run.of s).inOrder id st.core (st.pa / 128) = true → s.dev.ms.partials = [] → s.dev.ms.poison = [] → st.node = none →
    ∃ t, exec (.storeApply id) s = .next t ∧
      t.mem = s.mem.writes ((s.dev.ms.stores.filter (fun e => st.joins e.2)).flatMap (fun e => e.2.cells)) ∧
      let gw := if st.remote then 0 else max s.clk.dtime (lookD s.dev.ms.leases (st.pa / 128) 0)
      (∀ w wp, lookM s.dev.warps w = some wp → ∃ n, wp.seen ≤ n ∧ lookM t.dev.warps w = some { wp with seen := n } ∧
        (st.remote = false → s.dev.ms.stores.any (fun e => st.joins e.2 && e.2.seenBy.contains w) = true → gw ≤ n)) ∧
      (∀ k x, lookM s.dev.ms.stores k = some x → st.joins x = true →
        lookM t.dev.ms.stores k = some { x with gwct := some gw })) ∧
  (∀ (s : State) (id gw : Nat) (st : Store) (wp : Warp), lookM s.dev.ms.stores id = some st → st.gwct = some gw →
    lookM s.dev.warps st.warp = some wp →
    (st.remote = false → ∃ t, exec (.storeAcknowledgement id) s = .next t ∧ t.mem = s.mem ∧ lookM t.dev.ms.stores id = none ∧
      lookM t.dev.warps st.warp = some { wp with wch := max wp.wch gw }) ∧
    (st.remote = true → ∃ t, exec (.remoteAcknowledgement id) s = .next t ∧ t.mem = s.mem ∧
      lookM t.dev.ms.stores id = none ∧ lookM t.dev.warps st.warp = some { wp with oac := wp.oac - 1 })) ∧
  (∀ (s : State) (id k pa b c : Nat) (a : Atomic) (wp : Warp), lookM s.dev.ms.atomics id = some a → a.lanes = [(k, pa, b, c)] →
    a.node = none → a.red = false → a.remote = false → a.size = 4 → (Run.of s).inOrder id a.core (pa / 128) = true →
    s.dev.ms.partials = [] → s.dev.ms.poison = [] → s.dev.ms.xbad = [] → s.memOk → lookM s.dev.warps a.warp = some wp →
    (s.laneOf a.warp k).isLive = true → let o := ofBytes (s.mem.readN pa 4)
    ∃ t wp', exec (.atomicAtHome id) s = .next t ∧ t.mem.readN pa 4 = bytesOf 4 (atomStep a.cas a.op a.ty b c o) ∧
      (∀ x, x < pa ∨ pa + 4 ≤ x → t.mem.read x = s.mem.read x) ∧ t.v a.warp k a.dst = word o ∧
      (∀ j n, (j ≠ k ∨ n ≠ a.dst) → t.v a.warp j n = s.v a.warp j n) ∧ lookM t.dev.ms.atomics id = none ∧
      lookM t.dev.warps a.warp = some wp' ∧ wp'.wch = max wp.wch (max s.clk.dtime (lookD s.dev.ms.leases (pa / 128) 0))) ∧
  (∀ (s : State) (core line k : Nat) (p : Partial), lookD s.dev.ms.partials core [] = [(k, p)] → k / 128 = line → k < 2 ^ 48 →
    s.memOk → ∃ t, exec (.updateOnlyRecall core line) s = .next t ∧ lookD t.dev.ms.partials core [] = [] ∧
      t.mem.readN k (atomBytes p.ty) = bytesOf (atomBytes p.ty)
        (atomNew p.op p.ty (ofBytes (s.mem.readN k (atomBytes p.ty))) p.val) ∧
      (∀ a, a < k ∨ k + atomBytes p.ty ≤ a → t.mem.read a = s.mem.read a)) ∧
  (∀ (s : State) (pa : Nat) (bs : List Nat) (i : Instr), i = .hostMemoryAccess pa bs.length (some bs) ∨
    i = .remoteWriteReceive pa bs → bs ≠ [] → s.dev.ms.partials = [] → s.dev.ms.poison = [] → s.memOk →
    (pa + bs.length ≤ 0x2400000000 → ∃ t, exec i s = .next t ∧ t.mem.readN pa bs.length = toBytes bs ∧
      (∀ a, a < pa ∨ pa + bs.length ≤ a → t.mem.read a = s.mem.read a) ∧ t.dev.warps = s.dev.warps ∧
      t.dev.outs = s.dev.outs ∧ (i = .remoteWriteReceive pa bs → lookM t.dev.ms.peerAcks s.dev.ms.nextId =
        some (pa, max ((Run.of s).gwctOf pa) ((Run.of s).gwctOf (pa + bs.length - 1))))) ∧
    (0x2400000000 < pa + bs.length → exec i s = .next (finish s (Run.of s)))) ∧
  (∀ (r : Run) (id pa gw : Nat), lookM r.dev.ms.peerAcks id = some (pa, gw) →
    (r.clk.dtime ≤ gw → r.peerAck id = r) ∧
    (gw < r.clk.dtime → (r.peerAck id).dev.outs = r.dev.outs ++ [.peerAck pa] ∧
      (r.peerAck id).dev.ms.peerAcks = delM r.dev.ms.peerAcks id ∧ (r.peerAck id).w = r.w)) ∧
  (∀ (s : State) (pa n : Nat), s.dev.ms.partials = [] → 0 < n → pa + n ≤ 0x2400000000 →
    ∃ t, exec (.hostMemoryAccess pa n none) s = .next t ∧ t.mem = s.mem ∧
      t.dev.outs = s.dev.outs ++ [.hostData pa (s.mem.readN pa n)]) ∧
  (∀ (s : State) (w k : Nat) (wp : Warp), lookM s.dev.warps w = some wp →
    (s.clk.dtime ≤ wp.wch → exec (.dtimePassesWch w) s = .next (finish s (Run.of s))) ∧
    (wp.wch < s.clk.dtime → (s.laneOf w k).isLive = true → ∃ t, exec (.dtimePassesWch w) s = .next t ∧ t.mem = s.mem ∧
      t.laneOf w k = if (s.laneOf w k).wait = .ready .fence then
          { s.laneOf w k with wait := .none, ready := max (s.laneOf w k).ready s.clk.cycles }
        else s.laneOf w k))

/-! ### Launches and queues -/

/-- LAUNCH and the steps of queues (R40, R119, R227, R243, R262, R308, R329 to R339, R359, R386, R39): LAUNCH's statuses, of which 0
alone follows a release; a notify raises INTP, and moves WIDX or sets the queue in error; a queue claims a slot, its entries are read,
checked and retired with their status, launches are chosen, their teams placed, gatherings relaunched, grids retired. The order of reads
and checks of an entry, claims of slots and steps of retirement, and the entry that is being read when the hold begins, are the model's
choices, entries 67, 68, 69 and 135. -/
def Obligations.LaunchesAndQueues : Prop :=
  (∀ (s : State) (w l g d a : Nat) (wp : Warp) (x : Grid), let i := Instr.launch g d a
    Ready s i w l wp → let e := s.env i w l wp
    let r := s.served i wp
    let st := fun (n : Word) (r : Run) => exec i s = .next (s.through i w l wp (r.putS e d n))
    e.ug g = true → r.grid e.grid = some x →
    (wp.wid ≠ 0 ∨ 0 ∉ wp.split l → st 2 r) ∧
    (wp.wid = 0 → 0 ∈ wp.split l → x.depth = 10 → st 1 r) ∧
    (∀ pas rem, let node := r.nodeOf e.grid
      let on := wp.split l
      wp.wid = 0 → 0 ∈ on → x.depth ≠ 10 →
      r.globLoc (r.spaceAt e) .load (e.us2 a) 128 = .ok (.glob pas rem) → r.poisonRow node pas = none →
      on.any (fun k => r.laneAcq w k) = false → r.overlaps e node (on.map (fun k => (k, Loc.glob pas false))) = false →
      r.lineBusy wp.core (nkey node (pas.headD 0) / 128) = false →
      let got := (r.seeAt wp.core w node pas).loadSync wp.core e.grid node (pas.headD 0) 128
      let p := Packet.parse (ofBytes got.1)
      let cls := match got.2.queue (qkey x.part x.queue) with
        | some c => c.cls
        | none => 0
      (p.ok cls = false → st 3 got.2) ∧
      (p.ok cls = true → 4096 ≤ got.2.dev.sched.children → st 4 got.2) ∧
      (∀ r', p.ok cls = true → got.2.dev.sched.children < 4096 → got.2.release w e.wp everyLane 2 = (true, r') →
        st 0 (r'.childEnter e.grid x p)) ∧
      (∀ r', p.ok cls = true → got.2.dev.sched.children < 4096 → got.2.release w e.wp everyLane 2 = (false, r') →
        exec i s = .next (s.waits w l wp r' .fence)))) ∧
  (∀ (r : Run) (g : Nat) (x : Grid) (p : Packet), (∀ c, r.queue (qkey x.part x.queue) = some c → c.err = false) →
    ∃ y, (r.childEnter g x p).grid r.dev.sched.nextUid = some y ∧ y.depth = x.depth + 1 ∧ y.parent = some g ∧
      y.cls = max p.cls x.cls ∧ y.pkt = p ∧ y.st = .waiting ∧ y.queue = x.queue) ∧
  (∀ (s : State) (fn q v part : Nat), q < 1024 → v < 2 ^ 32 → (Run.of s).partOfFunc fn = some part →
    ((Run.of s).liveQueue (qkey part q) = none →
      exec (.queueNotify fn q v) s = .next (finish s ((Run.of s).intp s.dev.sys.scc 1))) ∧
    (∀ c, (Run.of s).liveQueue (qkey part q) = some c →
      ((v + 2 ^ 32 - c.ridx) % 2 ^ 32 ≤ 2 ^ c.logn → s.dev.sys.scc < 4 → ∃ t,
        exec (.queueNotify fn q v) s = .next t ∧ (Run.of t).queue (qkey part q) = some { c with widx := v } ∧
        (t.core s.dev.sys.scc).intp.getLsbD 1 = true ∧ t.mem = s.mem) ∧
      (2 ^ c.logn < (v + 2 ^ 32 - c.ridx) % 2 ^ 32 → exec (.queueNotify fn q v) s =
        .next (finish s (((Run.of s).intp s.dev.sys.scc 1).queueError part q))))) ∧
  (∀ (s : State) (part q : Nat) (c : Queue), let k := qkey part q
    let r := Run.of s
    r.liveQueue k = some c →
    (s.dev.sched.freeSlot c.cls = none → exec (.activeSlotClaim part q) s = .next (finish s r)) ∧
    (∀ n, r.wantsSlot k c = true → s.dev.sched.freeSlot c.cls = some n →
      (∀ e ∈ s.dev.sched.queues, e.1 ≠ k → r.wantsSlot e.1 e.2 = true → s.dev.sched.freeSlot e.2.cls ≠ none →
        r.slotRank k c ≤ r.slotRank e.1 e.2) →
      ∃ t, exec (.activeSlotClaim part q) s = .next t ∧ t.dev.sched.active = setNth s.dev.sched.active n (some k) ∧
        t.mem = s.mem ∧ t.dev.sched.queues = s.dev.sched.queues)) ∧
  (∀ (s : State) (part q : Nat) (c : Queue), let k := qkey part q
    let r := Run.of s
    let i := Instr.ringEntryRead part q
    r.liveQueue k = some c → s.dev.sched.active.contains (some k) = true →
    let may := s.dev.sys.hold = false ∨ s.dev.sys.reading = some k
    let r1 := r.modSys (fun y => { y with reading := none })
    (¬ may ∨ c.ridx = c.widx → exec i s = .next (finish s r)) ∧
    (may → c.ridx ≠ c.widx → r1.headPacket part q c = none → exec i s = .next (finish s (r1.queueError part q))) ∧
    (∀ x r', may → c.ridx ≠ c.widx → r1.headPacket part q c = some (x, r') →
      let p := Packet.parse x
      let en := (r'.modQueue k (fun c => { c with ridx := (c.ridx + 1) % 2 ^ 32 })).enter p part q (some c.ridx) none 0 p.cls
        p.deadline (fun id => if p.cont then some id else none)
      let ends := fun (n : Nat) => exec i s = .next (finish s (en.2.colophon en.1 n 0 0 0 none))
      (c.err = true → ends 9) ∧ (c.err = false → p.ok c.cls = false → ends 3) ∧
      (c.err = false → p.ok c.cls = true → en.2.spaceOk part c = false → ends 4) ∧
      (c.err = false → p.ok c.cls = true → en.2.spaceOk part c = true → exec i s = .next (finish s en.2)))) ∧
  (∀ (s : State) (part g : Nat) (x : Grid), let r := Run.of s
    minBy (fun e => e.2.rank e.1) (s.dev.sched.grids.filter (fun e => e.2.part == part && r.eligible e.2)) = some (g, x) →
    (s.dev.sys.hold = true → exec (.dispatchDecision part) s = .next (finish s r)) ∧
    (s.dev.sys.hold = false → exec (.dispatchDecision part) s = .next (finish s (r.choose g x)))) ∧
  (∀ (r : Run) (g : Nat) (x : Grid), r.grid g = some x →
    let node := r.coloNode g
    (r.nodeOf g = some g → node = none) ∧
    (x.pkt.shed = true → x.deadline ≠ 0 → x.deadline ≤ r.ptime + x.pkt.shedm →
      r.choose g x = r.colophon g 1 0 0 0 node) ∧
    (x.pkt.shed = false → r.tooLarge x = true → r.choose g x = r.colophon g 2 0 0 0 node) ∧
    (x.pkt.shed = false → r.tooLarge x = false → r.barsBlock g x = none → r.choose g x = r.colophon g 3 0 0 0 node) ∧
    (x.pkt.shed = false → r.tooLarge x = false → x.pkt.bars = 0 →
      (r.choose g x).grid g = some { x with st := .dispatching, bars := barsDefault, tbars := x.pkt.tbarDefault })) ∧
  (∀ (s : State) (g : Nat) (x : Grid), let r := Run.of s
    r.grid g = some x →
    (s.dev.sys.hold = true ∨ x.st ≠ .dispatching → exec (.teamPlacement g) s = .next (finish s r)) ∧
    (s.dev.sys.hold = false → x.st = .dispatching → x.pkt.coop = false → r.home g x = none →
      exec (.teamPlacement g) s = .next (finish s r)) ∧
    (s.dev.sys.hold = false → x.st = .dispatching → x.pkt.coop = true →
      exec (.teamPlacement g) s = .next (finish s ((r.placeTeams g x.pkt.teams).getD r))) ∧
    (∀ b, s.dev.sys.hold = false → x.st = .dispatching → x.pkt.coop = false → r.home g x = some b →
      exec (.teamPlacement g) s = .next (finish s (r.placeTeam g x b)))) ∧
  (∀ (r : Run) (wp : Warp), let r' := r.newWarp wp
    lookM r'.dev.warps r.dev.sched.nextUid = some { wp with spilled := !decide (r.onDie wp.core wp.part + wp.regs ≤ 2048) }) ∧
  (∀ (r : Run) (g b : Nat) (x : Grid), r.grid g = some x →
    ∃ y, (r.placeTeam g x b).grid g = some y ∧ y.nextTeam = x.nextTeam + 1 ∧
      (x.pkt.teams ≤ x.nextTeam + 1 → y.st = .running) ∧ (x.nextTeam + 1 < x.pkt.teams → y.st = x.st)) ∧
  (∀ (s : State) (k core : Nat) (x : Rec) (g : Grid), let r := Run.of s
    lookM s.dev.sched.recs k = some x → r.grid x.grid = some g →
    (r.due (r.gathering x) = false → exec (.gatheringDispatch k core) s = .next (finish s r)) ∧
    (s.dev.sys.hold = false → (lookM (r.gathering x) k).isSome = true → r.due (r.gathering x) = true → core < 128 →
      r.coreUsable g false core = true → r.memberFits g.oneWarp 1 core 0 false = true →
      (r.barred x.grid g).contains core = false → exec (.gatheringDispatch k core) s = .next (finish s
        (r.relaunch x.grid g core (r.draw (12 * 2 ^ 20) (min 32 (r.gathering x).length) (r.gathering x)))))) ∧
  (∀ (s : State) (g : Nat) (x : Grid), let r := Run.of s
    r.grid g = some x →
    let ds := s.dev.sched.draws.filter (fun e => e.2.grid == g)
    (x.st ≠ .ending → r.workDone g = false → exec (.gridRetire g) s = .next (finish s r)) ∧
    (x.st = .ending → r.sentDone g = false → exec (.gridRetire g) s = .next (finish s r)) ∧
    (r.mayRetire g x = true → s.dev.ms.partials = [] →
      (ds ≠ [] → r.nodeOf g = none → r.commitPending g = false →
        exec (.gridRetire g) s = .next (finish s ((ds.foldl (fun r e => r.drawStats e.2) r).modSched (fun s =>
          { s with draws := filterM s.draws (fun _ d => d.grid != g) })))) ∧
      (ds ≠ [] → (r.nodeOf g).isSome = true → ds.any (fun e => r.statsRemote e.2) = true →
        exec (.gridRetire g) s = .next (finish s ((r.demoteNow g).getD r))) ∧
      (ds = [] → r.nodeOf g = some g → x.fin = none → x.staged ≠ [] →
        (r.stageBad g = none → exec (.gridRetire g) s = .next (finish s (r.commitNode g))) ∧
        (∀ pa, r.stageBad g = some pa → exec (.gridRetire g) s = .next (finish s (r.machineCheck g 0xFF 0x10 0 4 pa)))) ∧
      (ds = [] → (r.nodeOf g ≠ some g ∨ x.fin ≠ none ∨ x.staged = []) →
        (s.clk.dtime ≤ r.familyGwct g → exec (.gridRetire g) s = .next (finish s r)) ∧
        (r.familyGwct g < s.clk.dtime → exec (.gridRetire g) s = .next (finish s (r.retire g x)))))) ∧
  (∀ (s : State) (part q : Nat) (words : List Nat), let k := qkey part q
    let r := Run.of s
    let x := ofWords (words.map word) % 2 ^ 512
    let ridx := match r.queue k with
      | some c => c.ridx
      | none => 0
    let widx := match r.queue k with
      | some c => c.widx
      | none => 0
    (r.queueOpen k = true → exec (.queueContextWrite part q words) s = .next (finish s r)) ∧
    (q < 1024 → (r.part part).isSome = true → r.queueOpen k = false →
      (∀ c, r.queue k = some c → c.v = false ∨ c.err = true ∨ c.ridx = c.widx) → ∃ t,
      exec (.queueContextWrite part q words) s = .next t ∧ t.mem = s.mem ∧
      (Run.of t).queue k = some { Queue.parse x ridx widx with v := queueOk x part (Queue.parse x ridx widx) } ∧
      (∀ j, j ≠ k → (Run.of t).queue j = (Run.of s).queue j))) ∧
  (∀ (s : State) (w : Nat) (wp : Warp) (g : Grid), let r := Run.of s
    lookM s.dev.warps w = some wp → r.grid (r.gridOf wp) = some g →
    (g.pkt.shed = true → wp.serial.isSome = true → r.frees wp.core = true →
      exec (.killAndReplay w none) s = .next (finish s (r.killWarp w wp))) ∧
    (g.pkt.shed = false ∨ wp.serial = none ∨ r.frees wp.core = false → exec (.killAndReplay w none) s = .next (finish s r))) ∧
  (∀ (s : State) (k b : Nat) (d : Draw) (g : Grid), lookM s.dev.sched.draws k = some d → (Run.of s).grid d.grid = some g →
    let replays := decide (b < d.binCount) && d.binHas b && !d.bins.contains b && g.st != .ending && (Run.of s).presses g.part g.cls
    ∃ t, exec (.killAndReplay k (some b)) s = .next t ∧ t.mem = s.mem ∧ lookM t.dev.sched.draws k = some (if replays then
      { d with counters := modNth d.counters 6 (fun n => n + 1) } else d))

/-! ### Translation, faults, partitions, saves -/

/-- Walks, fault records and replies, partition descriptors, whole-core save and restore (R320, R322 to R325, R327, R339): a walk's
result is held by the TLBs of its waiters and of their stack, none of which grows past its size; a failed one is not; a fault's
record is written and its vector sent; a reply ends the fault; a descriptor is taken or refused; a core's warps leave it for an image
and return, for a class-0 launch or for a repair map that is to take effect (R364). The victims of TLBs, of pre-emption and the refused
descriptors are the model's choices, entries 20, 47, 50 and 138. -/
def Obligations.TranslationAndFaults : Prop :=
  (∀ (s : State) (part asid va root stack : Nat) (waiters : List Nat), let r := Run.of s
    let i := Instr.translationWalk part asid ⟨va, stack, waiters⟩
    let holders := tlbHolders stack waiters
    r.rootOfSpace part asid = some root → canonical va = true → stack < 2 →
    (∀ c, r.walk part root va = .error c → exec i s = .next (finish s r)) ∧
    (∀ span e first, r.walk part root va = .ok (span, e, first) →
      (r.usableLeaf part va span e first = false → exec i s = .next (finish s r)) ∧
      (r.usableLeaf part va span e first = true →
        let x := fun (h : Nat) => ({ holder := h, part := part, asid := asid, span := span, vpn := va / 2 ^ span, entry := e,
                                     first := first } : Tlb)
        ∃ t, exec i s = .next t ∧ t.mem = s.mem ∧
        (∀ h ∈ holders, (Run.of t).tlbAt { part := part, asid := asid, root := root, tlbs := [] } va h = some (x h)) ∧
        (∀ y ∈ t.dev.sched.tlb, y ∈ s.dev.sched.tlb ∨ ∃ h ∈ holders, y = x h) ∧
        (∀ h, let held := fun (z : State) => (z.dev.sched.tlb.filter (fun y => y.holder == h)).length
          held s ≤ tlbSize h → held t ≤ tlbSize h)))) ∧
  (∀ (s : State) (id : Nat) (f : PFault) (p : Part), lookM s.dev.sched.faults id = some f → (Run.of s).part f.part = some p →
    f.seq = none → s.dev.ms.partials = [] → s.dev.ms.poison = [] → s.memOk →
    let seq := lookD s.dev.sched.faultSeq f.part 0
    (∀ e ∈ s.dev.sched.faults, e.2.part = f.part → e.2.fatal = false → ∀ q ∈ e.2.seq, q % 4096 ≠ seq % 4096) →
    let at' := p.fring + 32 * (seq % 4096)
    ∃ t, exec (.faultRecordWrite id) s = .next t ∧
      t.mem.readN at' 32 = bytesOf 32 ((Run.of s).faultRecord f (seq % 2 ^ 32)) ∧
      (∀ a, a < at' ∨ at' + 32 ≤ a → t.mem.read a = s.mem.read a) ∧ t.dev.outs = s.dev.outs ++ [.msix p.func 0] ∧
      lookD t.dev.sched.faultSeq f.part 0 = seq + 1 ∧ lookM t.dev.sched.faults id = some { f with seq := some seq }) ∧
  (∀ (s : State) (fn seq : Nat), (Run.of s).replied fn seq = [] →
    exec (.faultReplyRetry fn seq) s = .next (finish s (Run.of s)) ∧
    exec (.faultReplyFatal fn seq) s = .next (finish s (Run.of s))) ∧
  (∀ (s : State) (fn seq id : Nat) (f : PFault) (wp : Warp), (Run.of s).replied fn seq = [(id, f)] → f.log = none →
    lookM s.dev.warps f.warp = some wp →
    (∃ t, exec (.faultReplyRetry fn seq) s = .next t ∧ t.mem = s.mem ∧ lookM t.dev.sched.faults id = none ∧
      (∀ k, (s.laneOf f.warp k).isLive = true → t.laneOf f.warp k = (s.laneOf f.warp k).retry s.clk.cycles (Wait.isFault id))) ∧
    (f.unit.isSome = true → lookM s.dev.sched.faults id = some f → ∃ t, exec (.faultReplyFatal fn seq) s = .next t ∧
      t.mem = s.mem ∧ lookM t.dev.sched.faults id = some { f with fatal := true }) ∧
    (f.unit = none → exec (.faultReplyFatal fn seq) s = .next (finish s (((Run.of s).modSched (fun x =>
      { x with faults := modM x.faults id (fun g => { g with fatal := true }) })).fatalNow f.warp)))) ∧
  (∀ (s : State) (part : Nat) (words : List Nat), let r := Run.of s
    let v := ofWords (words.map word) % 2 ^ 256
    let p := Part.parse v (r.leaseLen part)
    (r.partBusy part = true → exec (.partitionDescriptorWrite part words) s = .next (finish s r)) ∧
    (∀ e ∈ s.dev.sched.parts, e.1 ≠ part → e.2.v = true → p.v = true → p.meets e.2 = true →
      exec (.partitionDescriptorWrite part words) s = .next (finish s r)) ∧
    (part < 8 → r.partBusy part = false → (p.v = true → p.ok = true) →
      (p.v = true → ∀ e ∈ s.dev.sched.parts, e.1 ≠ part → e.2.v = true → p.meets e.2 = false) → ∃ t,
      exec (.partitionDescriptorWrite part words) s = .next t ∧ t.mem = s.mem ∧ lookM t.dev.sched.parts part = some p ∧
      (∀ j, j ≠ part → lookM t.dev.sched.parts j = lookM s.dev.sched.parts j))) ∧
  (∀ (s : State) (core : Nat), let r := Run.of s
    core < 128 → r.together 128 [core] = [core] →
    (r.saved core = true ∨ r.issuing [core] = true ∨ (r.frees core = false ∧ r.repairing [core] = false) →
      exec (.wholeCoreSave core) s = .next (finish s r)) ∧
    (r.saved core = false → r.issuing [core] = false → r.repairing [core] = true ∨ (r.frees core = true ∧
      (∀ e ∈ s.dev.warps, e.2.core = core → r.killable e.2 = false)) → s.dev.ms.l1 = [] → s.dev.ms.partials = [] →
      s.dev.warps.any (fun e => e.2.core == core) = true → ∃ t, exec (.wholeCoreSave core) s = .next t ∧ t.mem = s.mem ∧
      t.dev.warps = s.dev.warps.filter (fun e => e.2.core != core) ∧
      lookM t.dev.sched.images core = some (s.dev.warps.filter (fun e => e.2.core == core)) ∧
      t.dev.sched.teams = s.dev.sched.teams)) ∧
  (∀ (s : State) (core w : Nat) (wp : Warp), let r := Run.of s
    r.together 128 [core] = [core] →
    (s.dev.warps.any (fun e => e.2.core == core) = true ∨ r.wanted [core] (r.savedClass [core]) = true ∨
      r.repairing [core] = true → exec (.coreRestore core) s = .next (finish s r)) ∧
    (s.dev.warps.any (fun e => e.2.core == core) = false → lookM s.dev.sched.images core = some [(w, wp)] →
      r.wanted [core] (r.savedClass [core]) = false → r.repairing [core] = false → s.dev.sched.faults = [] → ∃ t, exec (.coreRestore core) s = .next t ∧
        t.mem = s.mem ∧
      lookM t.dev.warps w = some wp ∧ (∀ j, j ≠ w → lookM t.dev.warps j = lookM s.dev.warps j) ∧
      lookM t.dev.sched.images core = none))

/-! ### Power, reliability, lane repair -/

/-- A write of TALW, by MTSR or by the forcing of R343, leaves the pools as they are; a microsecond boundary's refill uses the TALW of
the start of its tick: time that passes boundaries brings the refill of each with the TALW that stands then, and a boundary served later
the one that stood, so that a write in that tick counts from the next boundary on (R349). The refill is R341's. -/
def Obligations.TokensFollowTheTalwInForce : Prop :=
  (∀ (s : State) (mhz dc k : Nat), k < 2 → s.dev.power.tokens.length = 2 → s.dev.power.refilled.length = 2 →
    nthD s.dev.power.tokens k 0 ≤ 9200 → let t := s.pass mhz dc
    let served := nthD s.dev.power.refilled k 0
    nthD t.dev.power.refilled k 0 = max served (t.clk.dtime / 1000) ∧
    nthD t.dev.power.tokens k 0 = min 9200 (nthD s.dev.power.tokens k 0 +
      (t.clk.dtime / 1000 - served) * (s.dev.sys.tokrate * fld s.dev.sys.talw (16 * k) 9 / 256)) ∧ t.dev.sys = s.dev.sys) ∧
  (∀ (s : State) (k : Nat), k < 2 → let b := (nthD s.dev.power.refilled k 0 + 1) * 1000
    (s.clk.dtime < b → exec (.tokenRefill k) s = .next (finish s (Run.of s))) ∧
    (b ≤ s.clk.dtime → ∃ t, exec (.tokenRefill k) s = .next t ∧ t.mem = s.mem ∧
      t.dev.power.tokens = modNth s.dev.power.tokens k
        (fun x => min 9200 (x + s.dev.sys.tokrate * fld ((Run.of s).talwAt b) (16 * k) 9 / 256)) ∧
      t.dev.power.refilled = modNth s.dev.power.refilled k (fun x => x + 1))) ∧
  (∀ (s : State) (k g a : Nat) (wide : Bool), let i := Instr.mtsr g a wide 0x030
    ReadyCc s i k → (s.envCc i k).ug g = true → ∃ t, exec i s = .next t ∧ t.dev.power.tokens = s.dev.power.tokens ∧
      t.dev.power.refilled = s.dev.power.refilled ∧
      (∀ b, s.clk.dtime < b → (∀ m ∈ s.dev.power.talwMark, m.1 < b) → (Run.of t).talwAt b = t.dev.sys.talw) ∧
      (∀ b, b ≤ s.clk.dtime → (Run.of t).talwAt b = (Run.of s).talwAt b)) ∧
  (∀ (s : State) (k x : Nat), k < 2 → ∃ t, exec (.dramTemperatureSample k x) s = .next t ∧
    t.dev.power.tokens = s.dev.power.tokens ∧ t.dev.power.refilled = s.dev.power.refilled ∧
    (∀ b, s.clk.dtime < b → (∀ m ∈ s.dev.power.talwMark, m.1 < b) → (Run.of t).talwAt b = t.dev.sys.talw) ∧
    (∀ b, b ≤ s.clk.dtime → (Run.of t).talwAt b = (Run.of s).talwAt b))

/-- Power and reliability (R338, R343 to R346, R356, R362, R388): temperatures with their hysteresis; 350 ns refresh blocks; the
clock in quiet mode; retries and the remap of a vertical bus; the machine-check window, and the registers of the functions, which
read zero in a function that does not have them. Lane repair (R364): a write leaves a pending map, a select chooses what is read, and
the pending map of a partition takes effect while no warp is resident there. One spare of each vault and the records of retries are
the model's choices, entries 73 and 70. -/
def Obligations.PowerAndReliability : Prop :=
  (∀ (s : State) (temps : List Nat) (k n : Nat), k < 128 → temps[k]? = some n → ∃ t,
    exec (.logicTemperatureSample temps) s = .next t ∧ t.mem = s.mem ∧ ((Run.of t).core k).temp = n ∧
    t.dev.warps = s.dev.warps) ∧
  (∀ (s : State) (k x : Nat), k < 2 → ∃ t, exec (.dramTemperatureSample k x) s = .next t ∧ t.mem = s.mem ∧
    t.dev.power.dram = setNth s.dev.power.dram k x ∧
    t.dev.power.halved = setNth s.dev.power.halved k
      (decide (85 < x) || (nthD s.dev.power.halved k false && decide (83 ≤ x))) ∧
    t.dev.power.forced = setNth s.dev.power.forced k
      (decide (95 ≤ x) || (nthD s.dev.power.forced k false && decide (93 ≤ x))) ∧
    t.dev.power.tokens = s.dev.power.tokens ∧
    (95 ≤ x → nthD s.dev.power.forced k false = false → fld t.dev.sys.talw (16 * k) 9 = 128) ∧
    (x < 95 → t.dev.sys.talw = s.dev.sys.talw) ∧
    (105 ≤ x → t.dev.on = false ∧ t.dev.power.trip = true ∧ t.dev.outs = s.dev.outs ++ [.fatal]) ∧
    (x < 105 → t.dev.on = s.dev.on ∧ t.dev.power.trip = s.dev.power.trip ∧ t.dev.outs = s.dev.outs)) ∧
  (∀ (s : State) (v g : Nat), v < 128 → (∀ b ∈ s.dev.power.blocks, b.1 ≠ v ∨ b.2.1 ≠ g) → ∃ t,
    exec (.refreshBlock v g) s = .next t ∧ t.mem = s.mem ∧ t.dev.power.blocks = s.dev.power.blocks ++ [(v, g, s.clk.dtime + 350)]) ∧
  (∀ (s : State) (v g e : Nat), v < 128 → (v, g, e) ∈ s.dev.power.blocks → s.clk.dtime + 350 < e + (Run.of s).interval (stackOf v) →
    exec (.refreshBlock v g) s = .next (finish s (Run.of s))) ∧
  (∀ (s : State) (x : Nat), let now := (Run.of s).clockMhz
    (s.dev.sys.quietMode = false → exec (.quietModeAdjust x) s = .next (finish s (Run.of s))) ∧
    (s.dev.sys.quietMode = true → s.dev.sys.qpwr < x → ∃ t, exec (.quietModeAdjust x) s = .next t ∧
      t.dev.power.plim = max 500 (now - 25) ∧ t.dev.sys = s.dev.sys ∧ t.mem = s.mem) ∧
    (s.dev.sys.quietMode = true → 100 * x < 95 * s.dev.sys.qpwr → now + 25 ≤ s.dev.sys.qclk → ∃ t,
      exec (.quietModeAdjust x) s = .next t ∧ t.dev.power.plim = now + 25 ∧ t.dev.sys = s.dev.sys ∧ t.mem = s.mem) ∧
    (x ≤ s.dev.sys.qpwr → 95 * s.dev.sys.qpwr ≤ 100 * x → exec (.quietModeAdjust x) s = .next (finish s (Run.of s)))) ∧
  (∀ (s : State) (v n : Nat) (x : BusData), v < 128 → 0 < n →
    (n < 4 → exec (.verticalBusRetry v n x) s = .next (finish s
      ((Run.of s).report 4 3 (((Run.of s).partOfCore v).getD 0) v (busAddr x)))) ∧
    (4 ≤ n → ∃ t, exec (.verticalBusRetry v n x) s = .next t ∧ t.mem = s.mem ∧
      (v ∉ s.dev.rel.remapped → t.dev.rel.remapped = s.dev.rel.remapped ++ [v] ∧ t.dev.cores = s.dev.cores) ∧
      (v ∈ s.dev.rel.remapped → t.dev.rel.remapped = s.dev.rel.remapped ∧ ((Run.of t).core v).offline = true) ∧
      (v ∈ s.dev.rel.remapped → n = 4 ∨ (∃ node pa, x = .line node pa) → ∀ w wp, lookM s.dev.warps w = some wp →
        lookM t.dev.warps w = some (if wp.core = v ∧ wp.spilled then wp.lost else wp)) ∧
      (∀ pa, 5 ≤ n → x = .line none pa → isGddr pa = true → ∀ u ∈ lineUnits pa, lookM t.dev.ms.poison (u / 8) = some 3) ∧
      (∀ g pa, 5 ≤ n → x = .line (some g) pa → (Run.of s).isStaged g pa = true →
        ∀ u ∈ lineUnits pa, lookM t.dev.ms.poison ((Run.of s).poisonKey (some g) u) = some 3) ∧
      (∀ w k j wp, 5 ≤ n → v ∉ s.dev.rel.remapped → x = .vreg w k j → k < 32 → lookM s.dev.warps w = some wp →
        k < wp.lanes.length → wp.spilled = true → wp.core = v → Res.v j ∈ (t.laneOf w k).bad) ∧
      (n = 4 → t.dev.ms = s.dev.ms))) ∧
  (∀ (s : State) (fn : Nat), ∃ t, exec (.machineCheckWindowRead fn) s = .next t ∧ t.mem = s.mem ∧
    (s.dev.rel.window = [] → t.dev.rel = s.dev.rel ∧ t.dev.outs = s.dev.outs ++ [.mcRead none]) ∧
    (∀ m l, s.dev.rel.window = m :: l → fn = 0 → t.dev.rel.window = l ∧ t.dev.outs = s.dev.outs ++ [.mcRead (some m)]) ∧
    (fn ≠ 0 → t.dev.rel = s.dev.rel ∧ t.dev.outs = s.dev.outs ++ [.mcRead none])) ∧
  (∀ (r : Run) (fn off : Nat), let bad := r.dev.sec.recov
    (bad = false → r.regValue 0 0x100 = (r.thermalStatus, r)) ∧ r.regValue 0 0x300 = (r.dev.sec.bootStatus, r) ∧
    (bad = true → r.regValue 0 0x400 = (r.dev.sec.mbstat, r)) ∧
    (fn ≠ 0 → bad = true ∨ (off ≠ 0x1000 ∧ notifyQueue off = none) → r.regValue fn off = (0, r)) ∧
    (∀ q v, bad = false → q < 1024 → r.regWrite fn (0x20000 + 8 * q) v = if r.dev.sec.stage = 7 then r.notify fn q v else r) ∧
    (∀ v, fn ≠ 0 → bad = true → r.regWrite fn off v = r)) ∧
  (∀ (s : State) (v : Nat), ∃ t, exec (.lrepairWrite v) s = .next t ∧
    lookM t.dev.sched.lanePend (v / 2 ^ 16 % 512) = some (min 32 (v % 64)) ∧ t.dev.sched.laneMap = s.dev.sched.laneMap ∧
    (∀ k, k ≠ v / 2 ^ 16 % 512 → lookM t.dev.sched.lanePend k = lookM s.dev.sched.lanePend k) ∧ t.mem = s.mem) ∧
  (∀ (s : State) (v : Nat), ∃ t, exec (.lrepairSelect v) s = .next t ∧ t.dev.sched.laneSel = v / 2 ^ 16 % 512 ∧
    t.dev.sched.lanePend = s.dev.sched.lanePend ∧ t.dev.sched.laneMap = s.dev.sched.laneMap ∧ t.mem = s.mem) ∧
  (∀ (s : State) (x f : Nat), lookM s.dev.sched.lanePend x = some f →
    (s.dev.warps.any (fun w => w.2.core * 4 + w.2.part == x) = false → ∃ t, exec (.laneMapApply x) s = .next t ∧
      lookM t.dev.sched.laneMap x = some f ∧ lookM t.dev.sched.lanePend x = none ∧ t.mem = s.mem) ∧
    (s.dev.warps.any (fun w => w.2.core * 4 + w.2.part == x) = true → ∃ t, exec (.laneMapApply x) s = .next t ∧
      t.dev.sched.laneMap = s.dev.sched.laneMap ∧ lookM t.dev.sched.lanePend x = some f)) ∧
  (∀ f i, i < 32 → physLane f i < 33 ∧ physLane f i ≠ f) ∧ (∀ f i j, physLane f i = physLane f j → i = j)

/-! ### Live update, the flash mailbox, SPDM, bring-up -/

/-- The hold, live update and the flash mailbox (R368, R376, R379, R381): once no ring entry is being read the handover structure is
written, and QUIET is set when that is visible at device scope; ARM, END
and RAISE answer the ECALL that asked, a bank's image and TVEC, the boot record and the fuse row change with reply 0 alone, one fuse
at a time; a mailbox command changes flash within its range and ends with its result. The order of the checks of ARM, END and RAISE
and of the mailbox, the entry that is being read, and the bank that HOPTR may not name are the model's choices, entries 76, 77, 135 and
136. -/
def Obligations.LiveUpdateAndMailbox : Prop :=
  (∀ (s : State), let r := Run.of s
    let reads := ∃ k, s.dev.sys.reading = some k ∧ (r.unread k).isSome = true
    (s.dev.sys.hold = false ∨ s.dev.sys.quiet = true ∨ reads → exec .mapperQuiet s = .next (finish s r)) ∧
    (s.dev.sys.hold = true → s.dev.sys.quiet = false → ¬ reads → let h := s.dev.sys.hoptr
      let n := 8 * s.dev.sched.active.length
      (h ≠ 0 → s.dev.sys.handed ≠ 0 → s.clk.dtime ≤ s.dev.sys.handed → exec .mapperQuiet s = .next (finish s r)) ∧
      (h = 0 ∨ (s.dev.sys.handed ≠ 0 ∧ s.dev.sys.handed < s.clk.dtime) →
        ∃ t, exec .mapperQuiet s = .next t ∧ t.mem = s.mem ∧ t.dev.sys = { s.dev.sys with quiet := true }) ∧
      (h ≠ 0 → s.dev.sys.handed = 0 → r.bankRuns (run (h + 32) 12) = false → r.bankRuns (run (h + 64) n) = false →
        s.dev.ms.partials = [] → s.dev.ms.poison = [] → s.memOk →
        ∃ t gw, exec .mapperQuiet s = .next t ∧ 0 < gw ∧ t.dev.sys = { s.dev.sys with handed := gw } ∧
        (∀ a, (h + 32 ≤ a ∧ a < h + 44) ∨ (h + 64 ≤ a ∧ a < h + 64 + n ∧ n ≤ 256) → (Run.of s).gwctOf a ≤ gw) ∧
        t.mem.readN (h + 32) 12 = bytesOf 12 (s.clk.dtime + s.dev.sched.act * 2 ^ 64) ∧
        t.mem.readN (h + 64) n = s.dev.sched.active.flatMap (fun a => bytesOf 8 ((Run.of s).slotEntry a)) ∧
        (∀ a, a < h + 32 ∨ h + 44 ≤ a ∧ a < h + 64 ∨ h + 64 + n ≤ a → t.mem.read a = s.mem.read a)))) ∧
  (∀ (s : State) (cc v : Nat), let r := Run.of s
    (r.called cc 0x20 v = false ∨ s.dev.sec.blow.isSome = true → exec (.arm cc v) s = .next (finish s r)) ∧
    (∀ n, r.called cc 0x20 v = true → s.dev.sec.blow = none → r.armReply cc v = (n, none) →
      exec (.arm cc v) s = .next (finish s (r.replyCc cc n))) ∧
    (∀ n i, r.called cc 0x20 v = true → s.dev.sec.blow = none → r.armReply cc v = (n, some i) → s.memOk →
      ∃ t, exec (.arm cc v) s = .next t ∧
      t.mem.readN (bankBase r.freeBank) i.body.length = i.body ∧
      (∀ a, a < bankBase r.freeBank ∨ bankBase r.freeBank + i.body.length ≤ a → t.mem.read a = s.mem.read a) ∧
      (t.core (fld v 4 2)).tvec = BitVec.ofNat 64 (bankBase r.freeBank + imgEntry (s.dev.sec.header (fld v 0 1))) ∧
      t.dev.sec.update = some (fld v 0 1) ∧ t.dev.sec.flash = s.dev.sec.flash ∧ t.dev.sec.fuseRow = s.dev.sec.fuseRow ∧
      t.dev.sys.fwslot = s.dev.sys.fwslot ∧ (t.core cc).asked ≠ (s.core cc).asked)) ∧
  (∀ (s : State) (cc v : Nat), let r := Run.of s
    (r.called cc 0x21 v = false ∨ s.dev.sec.blow.isSome = true → exec (.endw cc v) s = .next (finish s r)) ∧
    (r.called cc 0x21 v = true → s.dev.sec.blow = none → s.dev.sec.update = none ∨ 2 ≤ v →
      exec (.endw cc v) s = .next (finish s (r.replyCc cc 1))) ∧
    (∀ slot, r.called cc 0x21 v = true → s.dev.sec.blow = none → s.dev.sec.update = some slot → slot < 2 → v < 2 → ∃ t,
      exec (.endw cc v) s = .next t ∧ t.mem = s.mem ∧ t.dev.sec.update = none ∧ (t.core cc).asked ≠ (s.core cc).asked ∧
      (v = 0 → t.dev.sec.flash = s.dev.sec.flash ∧ t.dev.sys.fwslot = s.dev.sys.fwslot) ∧
      (v = 1 → t.dev.sys.fwslot = slot ∧ (t.dev.sec.flashB bootRecord).toNat % 2 = slot ∧
        (t.dev.sec.flashB bootRecord).toNat / 2 = (s.dev.sec.flashB bootRecord).toNat / 2 ∧
        (∀ a, a ≠ bootRecord → t.dev.sec.flashB a = s.dev.sec.flashB a)))) ∧
  (∀ (s : State) (cc v : Nat), let r := Run.of s
    let bits := clearBits s.dev.sec.fuseRow (fld v 0 7 - s.dev.sec.count)
    (r.called cc 0x22 v = false ∨ cc = 3 ∨ s.dev.sec.blow.isSome = true → exec (.raise cc v) s = .next (finish s r)) ∧
    (r.called cc 0x22 v = true → cc ≠ 3 → s.dev.sec.blow = none → ∃ t, exec (.raise cc v) s = .next t ∧ t.mem = s.mem ∧
      (r.raiseReply v ≠ 0 ∨ bits = [] → t.dev.sec = s.dev.sec ∧ (t.core cc).asked ≠ (s.core cc).asked ∧
        (∀ x, (s.core cc).asked = some x → (s.core cc).waiting = 3 → (s.core cc).call = some x → x.sd < 192 →
          lookD (t.core cc).s x.sd 0 = word (r.raiseReply v))) ∧
      (r.raiseReply v = 0 → bits ≠ [] → t.dev.sec = { s.dev.sec with blow := some (cc, bits) } ∧ t.dev.sys = s.dev.sys))) ∧
  (∀ (r : Run) (cc b : Nat) (bits : List Nat), r.dev.sec.blow = some (cc, b :: bits) →
    let sec := { r.dev.sec with fuseRow := r.dev.sec.fuseRow ||| (1#64 <<< b), blow := if bits = [] then none else some (cc, bits) }
    r.blow = if bits = [] then (r.modSec (fun _ => sec)).replyCc cc 0 else r.modSec (fun _ => sec)) ∧
  (∀ (x : Secure) (n : Nat), x.count + n ≤ 64 →
    ({ x with fuseRow := (clearBits x.fuseRow n).foldl (fun y b => y ||| (1#64 <<< b)) x.fuseRow } : Secure).count = x.count + n) ∧
  (∀ (s : State) (fn off len : Nat) (i : Instr), i = .mailboxErase fn off len ∨ i = .mailboxProgram fn off len ∨
    i = .mailboxRead fn off len → (Run.of s).mailbox fn = false → exec i s = .next (finish s (Run.of s))) ∧
  (∀ (s : State) (fn off len : Nat), (Run.of s).mailbox fn = true → s.dev.sec.hw ≠ 8 → off < 2 ^ 32 → len < 2 ^ 32 →
    let begun := fun (t : State) (n : Nat) => t.dev.sec.mbBusy = true ∧ t.dev.sec.mbNext = n ∧ t.dev.sec.mbOff = off ∧
      t.dev.sec.mbLen = len ∧ t.mem = s.mem ∧ (n ≠ 0 → t.dev.sec.flash = s.dev.sec.flash ∧ t.dev.sec.window = s.dev.sec.window)
    (∃ t, exec (.mailboxErase fn off len) s = .next t ∧ begun t (eraseResult off len) ∧
      (eraseResult off len = 0 → ∀ a, t.dev.sec.flashB a = if off ≤ a ∧ a < off + len then 0xFF else s.dev.sec.flashB a)) ∧
    (∃ t, exec (.mailboxProgram fn off len) s = .next t ∧ begun t (programResult off len) ∧
      (programResult off len = 0 → ∀ a, t.dev.sec.flashB a = if off ≤ a ∧ a < off + len
        then s.dev.sec.flashB a &&& lookD s.dev.sec.window (a - off) 0 else s.dev.sec.flashB a)) ∧
    (∃ t, exec (.mailboxRead fn off len) s = .next t ∧ begun t (readResult off len) ∧ t.dev.sec.flash = s.dev.sec.flash ∧
      (readResult off len = 0 → ∀ k, k < len → lookD t.dev.sec.window k 0 = s.dev.sec.flashB (off + k)))) ∧
  (∀ (s : State), ∃ t, exec .mailboxCommandDone s = .next t ∧ t.mem = s.mem ∧
    (s.dev.sec.mbBusy = true → t.dev.sec = { s.dev.sec with mbResult := s.dev.sec.mbNext, mbBusy := false }) ∧
    (s.dev.sec.mbBusy = false → t.dev.sec = s.dev.sec))

/-- SPDM (R370 to R372): a request that its order forbids and one that does not exist receive ERROR; the others their response, and no
request changes memory or the state of the device but for the conversation; in the recovery state measurements 2 and 3 read zero
(R375). The codes, the layouts of messages, the transcripts and what is signed are the standard's, the model's choice, entries 62, 108
and 139. -/
def Obligations.SpdmRequests : Prop :=
  (∀ (s : State) (i : Instr) (lo hi : Nat) (msg : List Byte) (y : Secure), let x := s.dev.sec
    let r := Run.of s
    let talk := fun (a : List Byte) (n : Nat) => ({ x with spdm := n, talkA := a, talkB := [], talkM := [] } : Secure)
    let seen := fun (bs : List Byte) => ({ x with talkB := x.talkB ++ bs, talkM := [] } : Secure)
    (i = .getVersion ∧ lo = 0 ∧ hi = 3 ∧ msg = spdmMsg 0x04 0 0 [0, 1, 0x00, 0x13] ∧ y = talk (spdmMsg 0x84 0 0 [] ++ msg) 1) ∨
      (i = .getCapabilities ∧ lo = 1 ∧ hi = 1 ∧
        msg = spdmMsg 0x61 0 0 ([0, BitVec.ofNat 8 Config.spdmExponent, 0, 0] ++ bytesOf 4 0x16 ++ bytesOf 4 Config.spdmTransfer ++
          bytesOf 4 Config.spdmMessage) ∧
        y = talk (x.talkA ++ (spdmMsg 0xE1 0 0 (x.doe.drop 4) ++ msg)) 2) ∨
      (i = .negotiateAlgorithms ∧ lo = 2 ∧ hi = 2 ∧ msg = algorithms ∧
        y = talk (x.talkA ++ (spdmMsg 0xE3 0 0 (x.doe.drop 4) ++ msg)) 3) ∨
      (i = .getDigests ∧ lo = 3 ∧ hi = 3 ∧ msg = spdmMsg 0x01 1 1 (sha256 x.chain) ∧ y = seen (spdmMsg 0x81 0 0 [] ++ msg)) ∨
      (∃ off len, i = .getCertificate 0 off len ∧ off < x.chain.length ∧ lo = 3 ∧ hi = 3 ∧
        let part := (x.chain.drop off).take len
        msg = spdmMsg 0x02 0 0 (bytesOf 2 part.length ++ bytesOf 2 (x.chain.length - off - part.length) ++ part) ∧
        y = seen (spdmMsg 0x82 0 0 (bytesOf 2 off ++ bytesOf 2 len) ++ msg)) ∨
      (∃ nonce, i = .challenge 0 nonce ∧ (x.askedKind = 0 ∨ x.askedKind = 1 ∨ x.askedKind = 0xFF) ∧ lo = 3 ∧ hi = 3 ∧
        let ask := spdmMsg 0x83 0 x.askedKind (spdmField 32 nonce ++ x.asked 36 8)
        let told := spdmMsg 0x03 0 1 (sha256 x.chain ++ r.random 24 32 ++ x.summary x.askedKind ++ bytesOf 2 0 ++ x.asked 36 8)
        msg = told ++ r.sign "responder-challenge_auth signing" (x.talkA ++ x.talkB ++ ask ++ told) ∧
        y = { x with talkB := [], talkM := [] }) ∨
      (∃ k signed nonce, i = .getMeasurements k signed nonce ∧ (k ≤ 4 ∨ k = 0xFF) ∧ lo = 3 ∧ hi = 3 ∧
        let ctx := x.asked (if signed then 37 else 4) 8
        let ids := if k = 0 then [] else if k = 0xFF then [1, 2, 3, 4] else [k]
        let blocks := ids.flatMap x.dmtf
        let ask := spdmMsg 0xE0 (b2n signed) k ((if signed then spdmField 32 nonce ++ [0] else []) ++ ctx)
        let told := spdmMsg 0x60 (if k = 0 then 4 else 0) 0 ([BitVec.ofNat 8 ids.length] ++ bytesOf 3 blocks.length ++ blocks ++
          r.random 24 32 ++ bytesOf 2 0 ++ ctx)
        let all := x.talkM ++ ask ++ told
        msg = told ++ (if signed then r.sign "responder-measurements signing" (x.talkA ++ all) else []) ∧
        y = { x with talkM := if signed then [] else all }) →
    (x.spdm < lo ∨ hi < x.spdm → ∃ t, exec i s = .next t ∧ t.mem = s.mem ∧ t.dev.sec = x ∧
      t.dev.outs = s.dev.outs ++ [.spdm (spdmMsg 0x7F 4 0 [])]) ∧
    (lo ≤ x.spdm → x.spdm ≤ hi → ∃ t, exec i s = .next t ∧ t.mem = s.mem ∧ t.dev.sec = y ∧
      t.dev.outs = s.dev.outs ++ [.spdm msg])) ∧
  (∀ (s : State) (i : Instr), 3 ≤ s.dev.sec.spdm → (∃ k off len, i = .getCertificate k off len ∧ (k ≠ 0 ∨ s.dev.sec.chain.length ≤ off)) ∨
      (∃ k nonce, i = .challenge k nonce ∧ (k ≠ 0 ∨ (s.dev.sec.askedKind ≠ 0 ∧ s.dev.sec.askedKind ≠ 1 ∧ s.dev.sec.askedKind ≠ 0xFF))) ∨
      (∃ k b nonce, i = .getMeasurements k b nonce ∧ 4 < k ∧ k ≠ 0xFF) →
    ∃ t, exec i s = .next t ∧ t.mem = s.mem ∧ t.dev.sec = s.dev.sec ∧ t.dev.outs = s.dev.outs ++ [.spdm (spdmMsg 0x7F 1 0 [])]) ∧
  (∀ (s : State) (c : Nat), (c ∈ spdmListed → exec (.unsupportedSpdmRequest c) s = .next (finish s (Run.of s))) ∧
    (c ∉ spdmListed → ∃ t, exec (.unsupportedSpdmRequest c) s = .next t ∧ t.mem = s.mem ∧
      t.dev.sec = { s.dev.sec with talkM := [] } ∧ t.dev.outs = s.dev.outs ++ [.spdm (spdmMsg 0x7F 7 c [])])) ∧
  (∀ (context : String) (bs : List Byte), context.length ≤ 36 → (spdmSigned context bs).length = 100 + (sha256 bs).length) ∧
  (∀ (x : Secure) (k : Nat), x.recov = true → k = 2 ∨ k = 3 → x.measured k = List.replicate 32 0)

/-- Power and bring-up (R18, R341, R345, R365 to R367, R371, R373 to R375): RESET and a wake begin bring-up at stage 1 with full token
pools, a sleeping device or one stopped by heat ignores RESET; the stages follow one another, each to the recovery state where it fails;
stage 2 runs the image of the slot that the boot record names, or of the other, on CC3 in machine mode; at stage 7 all control cores run
and queues are served; sleep and the removal of power lose all but fuses and flash. A stage as one step, the start of the other control
cores, enumeration before stage 6, and turns without power, are the model's choices, entries 74, 140 and 83. -/
def Obligations.ResetAndPower : Prop :=
  (∀ s : State, (s.dev.asleep = true ∨ s.dev.power.trip = true → exec .reset s = .next s) ∧
    (s.dev.asleep = false → s.dev.power.trip = false → exec .reset s = .next s.booted) ∧
    (s.dev.asleep = true → exec .hostWake s = .next s.booted) ∧ (s.dev.asleep = false → exec .hostWake s = .next s) ∧
    (s.dev.on = false → exec .deepestSleepEntry s = .next s)) ∧
  (∀ s : State, let t := s.booted
    t.dev.warps = [] ∧ t.mem = [] ∧ t.dev.sys.ccrun = 8#4 ∧ t.agenda = s.agenda ∧ t.dev.sec.flash = s.dev.sec.flash ∧
    t.dev.on = true ∧ t.dev.sec.fuseRow = s.dev.sec.fuseRow ∧ t.dev.sec.keyHash = s.dev.sec.keyHash ∧
    t.dev.sec.seed = s.dev.sec.seed ∧ t.clk.dtime = (if s.dev.on then s.clk.dtime else 0) ∧ t.dev.sec.recov = false ∧
    t.dev.sec.stage = 1 ∧ t.dev.sec.fail = 0 ∧ t.dev.power.tokens = [9200, 9200] ∧
    t.dev.power.refilled = [t.clk.dtime / 1000, t.clk.dtime / 1000] ∧
    t.dev.sec.nextSlot = some ((s.dev.sec.flashB bootRecord).toNat % 2)) ∧
  (∀ s : State, let x := s.dev.sec
    let t := finish s (Run.of s).bringUp
    let bad := fun (n : Nat) => t.dev.sec.recov = true ∧ t.dev.sec.fail = n ∧ t.dev.sec.stage = 6
    let goes := fun (n : Nat) => t.dev.sec.recov = false ∧ t.dev.sec.stage = n
    let locked := s.dev.ptp.st = .locked
    (x.recov = true → t = finish s (Run.of s)) ∧ (x.recov = false →
      (x.stage = 1 → (x.hw = 1 → bad 1) ∧ (x.hw ≠ 1 → goes 2 ∧ t.dev.sched.laneMap = x.laneFuse) ∧
        (x.meas.length = 4 → t.dev.sec.measured 4 = sha256 (x.parts 0))) ∧
      (∀ slot, x.stage = 2 → x.nextSlot = some slot → let other := if slot = 0 then x.brej else x.arej
        (∀ i, x.verify slot = some i → s.memOk → goes 3 ∧ t.dev.sys.fwslot = slot ∧ t.dev.sec.slot = slot ∧
          t.dev.sec.cnt = x.count ∧ (t.core 3).mode = .machine ∧
          (t.core 3).pc = entryPc (BitVec.ofNat 64 (bankBase 0 + imgEntry (x.header slot))) ∧
          t.mem.readN (bankBase 0) i.body.length = i.body ∧
          (∀ a, a < bankBase 0 ∨ bankBase 0 + i.body.length ≤ a → t.mem.read a = s.mem.read a)) ∧
        (x.verify slot = none → other = true → bad 2 ∧ t.dev.sec.cnt = x.count) ∧
        (x.verify slot = none → other = false → goes 2 ∧ t.dev.sec.nextSlot = some (1 - slot))) ∧
      (x.stage = 3 → (x.hw = 3 → bad 3) ∧ (x.hw ≠ 3 → goes 4)) ∧
      (x.stage = 4 → let offline := s.dev.cores.any (fun e => e.2.offline)
        (x.hw = 4 ∨ offline = true → bad 4) ∧ (x.hw ≠ 4 → offline = false → goes 5 ∧ t.dev.sec.bootAt = s.clk.dtime)) ∧
      (x.stage = 5 → (locked ∨ x.bootAt + 2000000000 ≤ s.clk.dtime → goes 6 ∧ (t.dev.sec.plk = true ↔ locked)) ∧
        (¬ locked → s.clk.dtime < x.bootAt + 2000000000 → t = finish s (Run.of s))) ∧
      (x.stage = 6 → goes 7 ∧ ∀ k, k < 3 → t.dev.sys.ccrun.getLsbD k = true ∧
        (s.dev.sys.ccrun.getLsbD k = false → (t.core k).mode = .supervisor ∧
          (t.core k).pc = entryPc (BitVec.ofNat 64 (bankBase 0 + imgEntry (x.header x.slot))))))) ∧
  (∀ (s : State) (i : Instr), s.dev.sec.recov = false →
    (s.dev.sec.stage ≠ 7 → (∃ fn q v, i = .queueNotify fn q v) ∨ (∃ part q, i = .ringEntryRead part q) ∨
      (∃ part, i = .dispatchDecision part) ∨ (∃ g, i = .teamPlacement g) → s.serves i = false) ∧
    (s.dev.sec.stage < 6 → i = .getVersion ∨ (∃ k b nonce, i = .getMeasurements k b nonce) → s.serves i = false)) ∧
  (∀ (s : State) (i : Instr) (sleep : Bool), (i = .powerRemoval ∧ sleep = false) ∨
      (i = .deepestSleepEntry ∧ s.dev.on = true ∧ sleep = true) → ∃ t, exec i s = .next t ∧ t.dev.on = false ∧
    t.dev.asleep = sleep ∧ t.mem = [] ∧ t.dev.warps = [] ∧ t.dev.power.trip = false ∧ t.clk.dtime = 0 ∧
    t.dev.sec.flash = s.dev.sec.flash ∧ t.dev.sec.fuseRow = s.dev.sec.fuseRow)
end

