-- ==== Sys2Proof/Laws/Data.lean ====
section
/-! SUPPORT. Reading after writing: maps, lists and memory; memory keeps its canonical form. -/

namespace Sys2Proof.Machine

/-! ### Maps -/

@[simp] theorem lookM_putM_self {α : Type} (m : Map α) (k : Nat) (v : α) : lookM (putM m k v) k = some v := by
  induction m with
  | nil => simp [putM, lookM]
  | cons e m ih =>
    obtain ⟨j, u⟩ := e
    unfold putM
    split
    · simp [lookM]
    · split
      · simp [lookM]
      · simp only [lookM]
        rw [if_neg (by omega)]
        exact ih

theorem lookM_putM_ne {α : Type} (m : Map α) {k j : Nat} (v : α) (h : j ≠ k) : lookM (putM m k v) j = lookM m j := by
  induction m with
  | nil => simp [putM, lookM, Ne.symm h]
  | cons e m ih =>
    obtain ⟨i, u⟩ := e
    unfold putM
    split
    · simp [lookM, Ne.symm h]
    · split
      · next h2 => subst h2; simp [lookM, Ne.symm h]
      · simp only [lookM, ih]

@[simp] theorem lookM_delM_self {α : Type} (m : Map α) (k : Nat) : lookM (delM m k) k = none := by
  induction m with
  | nil => rfl
  | cons e m ih =>
    obtain ⟨i, u⟩ := e
    unfold delM
    split
    · exact ih
    · next h => simp [lookM, h, ih]

theorem lookM_delM_ne {α : Type} (m : Map α) {k j : Nat} (h : j ≠ k) : lookM (delM m k) j = lookM m j := by
  induction m with
  | nil => rfl
  | cons e m ih =>
    obtain ⟨i, u⟩ := e
    unfold delM
    split
    · next h2 => subst h2; simp [lookM, Ne.symm h, ih]
    · simp only [lookM, ih]

@[simp] theorem lookD_putD_self {α : Type} [DecidableEq α] (m : Map α) (k : Nat) (v d : α) :
    lookD (putD m k v d) k d = v := by
  unfold lookD putD
  split
  · next h => simp [h]
  · simp

theorem lookD_putD_ne {α : Type} [DecidableEq α] (m : Map α) {k j : Nat} (v d : α) (h : j ≠ k) :
    lookD (putD m k v d) j d = lookD m j d := by
  unfold lookD putD
  split
  · rw [lookM_delM_ne m h]
  · rw [lookM_putM_ne m v h]

theorem lookM_modM {α : Type} (m : Map α) (k j : Nat) (f : α → α) :
    lookM (modM m k f) j = if j = k then (lookM m k).map f else lookM m j := by
  unfold modM
  cases h : lookM m k with
  | none => simp only [Option.map_none]; split <;> simp_all
  | some v =>
    by_cases hj : j = k
    · subst hj; simp
    · simp [hj, lookM_putM_ne]

@[simp] theorem lookM_modM_self {α : Type} (m : Map α) (k : Nat) (f : α → α) :
    lookM (modM m k f) k = (lookM m k).map f := by simp [lookM_modM]

theorem lookM_modM_ne {α : Type} (m : Map α) {k j : Nat} (f : α → α) (h : j ≠ k) :
    lookM (modM m k f) j = lookM m j := by simp [lookM_modM, h]

theorem lookM_mapM' {α : Type} (m : Map α) (f : Nat → α → α) (k : Nat) :
    lookM (mapM' m f) k = (lookM m k).map (f k) := by
  induction m with
  | nil => rfl
  | cons e m ih =>
    obtain ⟨i, u⟩ := e
    simp only [mapM', List.map_cons, lookM]
    split
    · next h => subst h; rfl
    · exact ih

/-! ### Lists -/

theorem nthD_set {α : Type} (l : List α) (i j : Nat) (v d : α) (h : i < l.length) :
    nthD (setNth l i v) j d = if j = i then v else nthD l j d := by
  unfold nthD setNth
  by_cases hj : j = i
  · subst hj; simp [h]
  · simp [hj, List.getElem?_set_ne (Ne.symm hj)]

theorem modNth_length {α : Type} (l : List α) (i : Nat) (f : α → α) : (modNth l i f).length = l.length := by
  unfold modNth; split <;> simp

theorem nthD_modNth_self {α : Type} (l : List α) (i : Nat) (f : α → α) (d : α) (h : i < l.length) :
    nthD (modNth l i f) i d = f (nthD l i d) := by
  unfold nthD modNth
  simp [h]

theorem nthD_modNth_ne {α : Type} (l : List α) {i j : Nat} (f : α → α) (d : α) (h : j ≠ i) :
    nthD (modNth l i f) j d = nthD l j d := by
  unfold nthD modNth
  split
  · simp [List.getElem?_set_ne (Ne.symm h)]
  · rfl

theorem nthD_mapIdx {α : Type} (l : List α) (f : Nat → α → α) (i : Nat) (d : α) (h : i < l.length) :
    nthD (l.mapIdx f) i d = f i (nthD l i d) := by
  unfold nthD
  simp [h]

/-! ### Memory -/

theorem Memory.wfFrom_cons (lo a : Nat) (v : Byte) (m : Memory) :
    Memory.wfFrom lo ((a, v) :: m) = true ↔ lo ≤ a ∧ v ≠ unlistedByte ∧ Memory.wfFrom (a + 1) m = true := by
  simp only [Memory.wfFrom, Bool.and_eq_true, decide_eq_true_eq, bne_iff_ne, and_assoc]

theorem Memory.wfFrom_mono {lo hi : Nat} (h : lo ≤ hi) {m : Memory} (hm : Memory.wfFrom hi m = true) :
    Memory.wfFrom lo m = true := by
  cases m with
  | nil => rfl
  | cons e m =>
    have ⟨h1, h2, h3⟩ := (Memory.wfFrom_cons ..).1 hm
    exact (Memory.wfFrom_cons ..).2 ⟨by omega, h2, h3⟩

theorem Memory.write_wfFrom (m : Memory) {lo a : Nat} (v : Byte) (ha : lo ≤ a) (hm : Memory.wfFrom lo m = true) :
    Memory.wfFrom lo (m.write a v) = true := by
  induction m generalizing lo with
  | nil =>
    unfold Memory.write
    split
    · rfl
    · next h => exact (Memory.wfFrom_cons ..).2 ⟨ha, h, rfl⟩
  | cons e m ih =>
    obtain ⟨b, u⟩ := e
    have ⟨h1, h2, h3⟩ := (Memory.wfFrom_cons ..).1 hm
    unfold Memory.write
    split
    · next hab =>
      split
      · exact hm
      · next hv => exact (Memory.wfFrom_cons ..).2 ⟨ha, hv, (Memory.wfFrom_cons ..).2 ⟨hab, h2, h3⟩⟩
    · split
      · next hab =>
        subst hab
        split
        · exact Memory.wfFrom_mono (by omega) h3
        · next hv => exact (Memory.wfFrom_cons ..).2 ⟨ha, hv, h3⟩
      · exact (Memory.wfFrom_cons ..).2 ⟨h1, h2, ih (by omega) h3⟩

/-- A write keeps the canonical form. -/
theorem Memory.write_wf {m : Memory} (a : Nat) (v : Byte) (hm : m.wf = true) : (m.write a v).wf = true :=
  Memory.write_wfFrom m v (Nat.zero_le a) hm

/-- Any list of writes keeps it. -/
theorem Memory.writes_wf (l : List (Nat × Byte)) {m : Memory} (hm : m.wf = true) : (m.writes l).wf = true := by
  induction l generalizing m with
  | nil => exact hm
  | cons e l ih => obtain ⟨a, v⟩ := e; exact ih (Memory.write_wf a v hm)

theorem Memory.read_below {m : Memory} {lo a : Nat} (hm : Memory.wfFrom lo m = true) (h : a < lo) :
    Memory.read m a = unlistedByte := by
  cases m with
  | nil => rfl
  | cons e m =>
    obtain ⟨b, u⟩ := e
    have ⟨h1, _, _⟩ := (Memory.wfFrom_cons ..).1 hm
    unfold Memory.read
    rw [if_neg (by omega), if_pos (by omega)]

theorem Memory.read_cons (c : Nat) (u : Byte) (m : Memory) (b : Nat) :
    Memory.read ((c, u) :: m) b = if c = b then u else if b < c then unlistedByte else Memory.read m b := rfl

theorem Memory.read_writeFrom (m : Memory) {lo : Nat} (a b : Nat) (v : Byte) (hm : Memory.wfFrom lo m = true) :
    (m.write a v).read b = if b = a then v else m.read b := by
  induction m generalizing lo with
  | nil =>
    unfold Memory.write
    by_cases hb : b = a
    · subst hb
      rw [if_pos rfl]
      split
      · next h => exact h.symm
      · rw [Memory.read_cons, if_pos rfl]
    · rw [if_neg hb]
      split
      · rfl
      · rw [Memory.read_cons, if_neg (Ne.symm hb)]
        exact ite_self _
  | cons e m ih =>
    obtain ⟨c, u⟩ := e
    have ⟨h1, h2, h3⟩ := (Memory.wfFrom_cons ..).1 hm
    have hz : ∀ x, x ≤ c → Memory.read m x = unlistedByte := fun x hx => Memory.read_below h3 (by omega)
    unfold Memory.write
    by_cases hac : a < c
    · rw [if_pos hac]
      by_cases hv : v = unlistedByte
      · rw [if_pos hv]
        by_cases hb : b = a
        · rw [if_pos hb, Memory.read_cons, if_neg (by omega), if_pos (by omega), hv]
        · rw [if_neg hb]
      · rw [if_neg hv, Memory.read_cons]
        by_cases hb : b = a
        · rw [if_pos hb, if_pos hb.symm]
        · rw [if_neg hb, if_neg (Ne.symm hb), Memory.read_cons]
          by_cases hba : b < a
          · rw [if_pos hba, if_neg (by omega), if_pos (by omega)]
          · rw [if_neg hba]
    · rw [if_neg hac]
      by_cases hac' : a = c
      · subst hac'
        rw [if_pos rfl, Memory.read_cons]
        by_cases hb : b = a
        · subst hb
          rw [if_pos rfl]
          split
          · next hv => rw [hv]; exact hz b (by omega)
          · rw [Memory.read_cons, if_pos rfl]
        · rw [if_neg hb, if_neg (Ne.symm hb)]
          split
          · by_cases hba : b < a
            · rw [if_pos hba]; exact hz b (by omega)
            · rw [if_neg hba]
          · rw [Memory.read_cons, if_neg (Ne.symm hb)]
      · rw [if_neg hac', Memory.read_cons, Memory.read_cons]
        by_cases hcb : c = b
        · rw [if_pos hcb, if_pos hcb, if_neg (by omega)]
        · rw [if_neg hcb, if_neg hcb]
          by_cases hbc : b < c
          · rw [if_pos hbc, if_pos hbc, if_neg (by omega)]
          · rw [if_neg hbc, if_neg hbc]
            exact ih h3

/-- A read after a write: the byte written there, every other byte as it was. -/
theorem Memory.read_write {m : Memory} (a b : Nat) (v : Byte) (hm : m.wf = true) :
    (m.write a v).read b = if b = a then v else m.read b := Memory.read_writeFrom m a b v hm

/-- Bytes that a list of writes does not name are as they were. -/
theorem Memory.read_writes_other (l : List (Nat × Byte)) {m : Memory} (b : Nat) (hm : m.wf = true)
    (h : ∀ e ∈ l, e.1 ≠ b) : (m.writes l).read b = m.read b := by
  induction l generalizing m with
  | nil => rfl
  | cons e l ih =>
    obtain ⟨a, v⟩ := e
    have h0 : a ≠ b := h (a, v) (by simp)
    rw [Memory.writes, ih (Memory.write_wf a v hm) (fun x hx => h x (by simp [hx])), Memory.read_write a b v hm,
      if_neg (Ne.symm h0)]

end Sys2Proof.Machine
end

