-- ==== Sys2Proof/Laws/State.lean ====
section
/-! SUPPORT. What each update of a run, a warp or a lane leaves in each field. -/

namespace Sys2Proof.Machine

/-! ### A run -/

@[simp] theorem Run.modMs_clk (r : Run) (f : MemSys → MemSys) : (r.modMs f).clk = r.clk := rfl
@[simp] theorem Run.modMs_mem (r : Run) (f : MemSys → MemSys) : (r.modMs f).mem = r.mem := rfl
@[simp] theorem Run.modMs_w (r : Run) (f : MemSys → MemSys) : (r.modMs f).w = r.w := rfl
@[simp] theorem Run.modMs_cur (r : Run) (f : MemSys → MemSys) : (r.modMs f).cur = r.cur := rfl
@[simp] theorem Run.modMs_dev (r : Run) (f : MemSys → MemSys) : (r.modMs f).dev = { r.dev with ms := f r.dev.ms } := rfl

@[simp] theorem Run.modSched_clk (r : Run) (f : Sched → Sched) : (r.modSched f).clk = r.clk := rfl
@[simp] theorem Run.modSched_mem (r : Run) (f : Sched → Sched) : (r.modSched f).mem = r.mem := rfl
@[simp] theorem Run.modSched_w (r : Run) (f : Sched → Sched) : (r.modSched f).w = r.w := rfl
@[simp] theorem Run.modSched_cur (r : Run) (f : Sched → Sched) : (r.modSched f).cur = r.cur := rfl
@[simp] theorem Run.modSched_dev (r : Run) (f : Sched → Sched) : (r.modSched f).dev = { r.dev with sched := f r.dev.sched } := rfl

@[simp] theorem Run.modSys_clk (r : Run) (f : Sys → Sys) : (r.modSys f).clk = r.clk := rfl
@[simp] theorem Run.modSys_mem (r : Run) (f : Sys → Sys) : (r.modSys f).mem = r.mem := rfl
@[simp] theorem Run.modSys_w (r : Run) (f : Sys → Sys) : (r.modSys f).w = r.w := rfl
@[simp] theorem Run.modSys_cur (r : Run) (f : Sys → Sys) : (r.modSys f).cur = r.cur := rfl
@[simp] theorem Run.modSys_dev (r : Run) (f : Sys → Sys) : (r.modSys f).dev = { r.dev with sys := f r.dev.sys } := rfl

@[simp] theorem Run.modFabric_clk (r : Run) (f : Fabric → Fabric) : (r.modFabric f).clk = r.clk := rfl
@[simp] theorem Run.modFabric_mem (r : Run) (f : Fabric → Fabric) : (r.modFabric f).mem = r.mem := rfl
@[simp] theorem Run.modFabric_w (r : Run) (f : Fabric → Fabric) : (r.modFabric f).w = r.w := rfl
@[simp] theorem Run.modFabric_cur (r : Run) (f : Fabric → Fabric) : (r.modFabric f).cur = r.cur := rfl
@[simp] theorem Run.modFabric_dev (r : Run) (f : Fabric → Fabric) : (r.modFabric f).dev = { r.dev with fabric := f r.dev.fabric } := rfl

@[simp] theorem Run.modPower_clk (r : Run) (f : Power → Power) : (r.modPower f).clk = r.clk := rfl
@[simp] theorem Run.modPower_mem (r : Run) (f : Power → Power) : (r.modPower f).mem = r.mem := rfl
@[simp] theorem Run.modPower_w (r : Run) (f : Power → Power) : (r.modPower f).w = r.w := rfl
@[simp] theorem Run.modPower_cur (r : Run) (f : Power → Power) : (r.modPower f).cur = r.cur := rfl
@[simp] theorem Run.modPower_dev (r : Run) (f : Power → Power) : (r.modPower f).dev = { r.dev with power := f r.dev.power } := rfl

@[simp] theorem Run.modRel_clk (r : Run) (f : Reliab → Reliab) : (r.modRel f).clk = r.clk := rfl
@[simp] theorem Run.modRel_mem (r : Run) (f : Reliab → Reliab) : (r.modRel f).mem = r.mem := rfl
@[simp] theorem Run.modRel_w (r : Run) (f : Reliab → Reliab) : (r.modRel f).w = r.w := rfl
@[simp] theorem Run.modRel_cur (r : Run) (f : Reliab → Reliab) : (r.modRel f).cur = r.cur := rfl
@[simp] theorem Run.modRel_dev (r : Run) (f : Reliab → Reliab) : (r.modRel f).dev = { r.dev with rel := f r.dev.rel } := rfl

@[simp] theorem Run.modSec_clk (r : Run) (f : Secure → Secure) : (r.modSec f).clk = r.clk := rfl
@[simp] theorem Run.modSec_mem (r : Run) (f : Secure → Secure) : (r.modSec f).mem = r.mem := rfl
@[simp] theorem Run.modSec_w (r : Run) (f : Secure → Secure) : (r.modSec f).w = r.w := rfl
@[simp] theorem Run.modSec_cur (r : Run) (f : Secure → Secure) : (r.modSec f).cur = r.cur := rfl
@[simp] theorem Run.modSec_dev (r : Run) (f : Secure → Secure) : (r.modSec f).dev = { r.dev with sec := f r.dev.sec } := rfl

@[simp] theorem Run.modPtp_clk (r : Run) (f : Ptp → Ptp) : (r.modPtp f).clk = r.clk := rfl
@[simp] theorem Run.modPtp_mem (r : Run) (f : Ptp → Ptp) : (r.modPtp f).mem = r.mem := rfl
@[simp] theorem Run.modPtp_w (r : Run) (f : Ptp → Ptp) : (r.modPtp f).w = r.w := rfl
@[simp] theorem Run.modPtp_cur (r : Run) (f : Ptp → Ptp) : (r.modPtp f).cur = r.cur := rfl
@[simp] theorem Run.modPtp_dev (r : Run) (f : Ptp → Ptp) : (r.modPtp f).dev = { r.dev with ptp := f r.dev.ptp } := rfl

@[simp] theorem Run.modFlows_clk (r : Run) (f : Map Flow → Map Flow) : (r.modFlows f).clk = r.clk := rfl
@[simp] theorem Run.modFlows_mem (r : Run) (f : Map Flow → Map Flow) : (r.modFlows f).mem = r.mem := rfl
@[simp] theorem Run.modFlows_w (r : Run) (f : Map Flow → Map Flow) : (r.modFlows f).w = r.w := rfl
@[simp] theorem Run.modFlows_cur (r : Run) (f : Map Flow → Map Flow) : (r.modFlows f).cur = r.cur := rfl
@[simp] theorem Run.modFlows_dev (r : Run) (f : Map Flow → Map Flow) : (r.modFlows f).dev = { r.dev with flows := f r.dev.flows } := rfl

@[simp] theorem Run.modWarp_clk (r : Run) (w : Nat) (f : Warp → Warp) : (r.modWarp w f).clk = r.clk := rfl
@[simp] theorem Run.modWarp_mem (r : Run) (w : Nat) (f : Warp → Warp) : (r.modWarp w f).mem = r.mem := rfl
@[simp] theorem Run.modWarp_w (r : Run) (w : Nat) (f : Warp → Warp) : (r.modWarp w f).w = r.w := rfl
@[simp] theorem Run.modWarp_cur (r : Run) (w : Nat) (f : Warp → Warp) : (r.modWarp w f).cur = r.cur := rfl
@[simp] theorem Run.modWarp_dev (r : Run) (w : Nat) (f : Warp → Warp) : (r.modWarp w f).dev = { r.dev with warps := modM r.dev.warps w f } := rfl

@[simp] theorem Run.modWarps_clk (r : Run) (f : Nat → Warp → Warp) : (r.modWarps f).clk = r.clk := rfl
@[simp] theorem Run.modWarps_mem (r : Run) (f : Nat → Warp → Warp) : (r.modWarps f).mem = r.mem := rfl
@[simp] theorem Run.modWarps_w (r : Run) (f : Nat → Warp → Warp) : (r.modWarps f).w = r.w := rfl
@[simp] theorem Run.modWarps_cur (r : Run) (f : Nat → Warp → Warp) : (r.modWarps f).cur = r.cur := rfl
@[simp] theorem Run.modWarps_dev (r : Run) (f : Nat → Warp → Warp) : (r.modWarps f).dev = { r.dev with warps := mapM' r.dev.warps f } := rfl

@[simp] theorem Run.modCore_clk (r : Run) (c : Nat) (f : Core → Core) : (r.modCore c f).clk = r.clk := rfl
@[simp] theorem Run.modCore_mem (r : Run) (c : Nat) (f : Core → Core) : (r.modCore c f).mem = r.mem := rfl
@[simp] theorem Run.modCore_w (r : Run) (c : Nat) (f : Core → Core) : (r.modCore c f).w = r.w := rfl
@[simp] theorem Run.modCore_cur (r : Run) (c : Nat) (f : Core → Core) : (r.modCore c f).cur = r.cur := rfl
@[simp] theorem Run.modCore_dev (r : Run) (c : Nat) (f : Core → Core) : (r.modCore c f).dev = { r.dev with cores := putM r.dev.cores c (f (r.core c)) } := rfl

@[simp] theorem Run.modList_clk (r : Run) (l : Nat) (f : CmdList → CmdList) : (r.modList l f).clk = r.clk := rfl
@[simp] theorem Run.modList_mem (r : Run) (l : Nat) (f : CmdList → CmdList) : (r.modList l f).mem = r.mem := rfl
@[simp] theorem Run.modList_w (r : Run) (l : Nat) (f : CmdList → CmdList) : (r.modList l f).w = r.w := rfl
@[simp] theorem Run.modList_cur (r : Run) (l : Nat) (f : CmdList → CmdList) : (r.modList l f).cur = r.cur := rfl
@[simp] theorem Run.modList_dev (r : Run) (l : Nat) (f : CmdList → CmdList) : (r.modList l f).dev = { r.dev with lists := modM r.dev.lists l f } := rfl

@[simp] theorem Run.emit_clk (r : Run) (o : Out) : (r.emit o).clk = r.clk := rfl
@[simp] theorem Run.emit_mem (r : Run) (o : Out) : (r.emit o).mem = r.mem := rfl
@[simp] theorem Run.emit_w (r : Run) (o : Out) : (r.emit o).w = r.w := rfl
@[simp] theorem Run.emit_cur (r : Run) (o : Out) : (r.emit o).cur = r.cur := rfl
@[simp] theorem Run.emit_dev (r : Run) (o : Out) : (r.emit o).dev = { r.dev with outs := r.dev.outs ++ [o] } := rfl

@[simp] theorem Run.onLanes_clk (r : Run) (w : Nat) (ls : List Nat) (f : Nat → Lane → Lane) : (r.onLanes w ls f).clk = r.clk := rfl
@[simp] theorem Run.onLanes_mem (r : Run) (w : Nat) (ls : List Nat) (f : Nat → Lane → Lane) : (r.onLanes w ls f).mem = r.mem := rfl
@[simp] theorem Run.onLanes_w (r : Run) (w : Nat) (ls : List Nat) (f : Nat → Lane → Lane) : (r.onLanes w ls f).w = r.w := rfl
@[simp] theorem Run.onLanes_cur (r : Run) (w : Nat) (ls : List Nat) (f : Nat → Lane → Lane) : (r.onLanes w ls f).cur = r.cur := rfl

@[simp] theorem Run.raise_clk (r : Run) (w t fl : Nat) : (r.raise w t fl).clk = r.clk := rfl
@[simp] theorem Run.raise_mem (r : Run) (w t fl : Nat) : (r.raise w t fl).mem = r.mem := rfl
@[simp] theorem Run.raise_w (r : Run) (w t fl : Nat) : (r.raise w t fl).w = r.w := rfl
@[simp] theorem Run.raise_cur (r : Run) (w t fl : Nat) : (r.raise w t fl).cur = r.cur := rfl

@[simp] theorem Run.modTeam_clk (r : Run) (t : Nat) (f : Team → Team) : (r.modTeam t f).clk = r.clk := rfl
@[simp] theorem Run.modTeam_mem (r : Run) (t : Nat) (f : Team → Team) : (r.modTeam t f).mem = r.mem := rfl
@[simp] theorem Run.modTeam_w (r : Run) (t : Nat) (f : Team → Team) : (r.modTeam t f).w = r.w := rfl
@[simp] theorem Run.modTeam_cur (r : Run) (t : Nat) (f : Team → Team) : (r.modTeam t f).cur = r.cur := rfl

@[simp] theorem Run.modGrid_clk (r : Run) (g : Nat) (f : Grid → Grid) : (r.modGrid g f).clk = r.clk := rfl
@[simp] theorem Run.modGrid_mem (r : Run) (g : Nat) (f : Grid → Grid) : (r.modGrid g f).mem = r.mem := rfl
@[simp] theorem Run.modGrid_w (r : Run) (g : Nat) (f : Grid → Grid) : (r.modGrid g f).w = r.w := rfl
@[simp] theorem Run.modGrid_cur (r : Run) (g : Nat) (f : Grid → Grid) : (r.modGrid g f).cur = r.cur := rfl

@[simp] theorem Run.modQueue_clk (r : Run) (k : Nat) (f : Queue → Queue) : (r.modQueue k f).clk = r.clk := rfl
@[simp] theorem Run.modQueue_mem (r : Run) (k : Nat) (f : Queue → Queue) : (r.modQueue k f).mem = r.mem := rfl
@[simp] theorem Run.modQueue_w (r : Run) (k : Nat) (f : Queue → Queue) : (r.modQueue k f).w = r.w := rfl
@[simp] theorem Run.modQueue_cur (r : Run) (k : Nat) (f : Queue → Queue) : (r.modQueue k f).cur = r.cur := rfl

@[simp] theorem Run.of_clk (s : State) : (Run.of s).clk = s.clk := rfl
@[simp] theorem Run.of_mem (s : State) : (Run.of s).mem = s.mem := rfl
@[simp] theorem Run.of_w (s : State) : (Run.of s).w = [] := rfl
@[simp] theorem Run.of_cur (s : State) : (Run.of s).cur = s.cur := rfl
@[simp] theorem Run.of_dev (s : State) : (Run.of s).dev = s.dev := rfl

/-! ### The next state -/

@[simp] theorem finish_clk (s : State) (r : Run) : (finish s r).clk = s.clk := rfl
@[simp] theorem finish_mem (s : State) (r : Run) : (finish s r).mem = s.mem.writes r.w.reverse := rfl
@[simp] theorem finish_agenda (s : State) (r : Run) : (finish s r).agenda = s.agenda := rfl
@[simp] theorem finish_cur (s : State) (r : Run) : (finish s r).cur = r.cur := rfl
@[simp] theorem finish_dev (s : State) (r : Run) : (finish s r).dev = { r.dev with nonce := s.dev.nonce + 1 } := rfl

theorem act_eq (f : Run → Run) (s : State) : act f s = .next (finish s (f (Run.of s))) := rfl

/-! ### A lane -/

@[simp] theorem Lane.setV_st (l : Lane) (n : Nat) (x : Word) : (l.setV n x).st = l.st := rfl
@[simp] theorem Lane.setV_pc (l : Lane) (n : Nat) (x : Word) : (l.setV n x).pc = l.pc := rfl
@[simp] theorem Lane.setV_p (l : Lane) (n : Nat) (x : Word) : (l.setV n x).p = l.p := rfl
@[simp] theorem Lane.setV_wait (l : Lane) (n : Nat) (x : Word) : (l.setV n x).wait = l.wait := rfl
@[simp] theorem Lane.setV_rpc (l : Lane) (n : Nat) (x : Word) : (l.setV n x).rpc = l.rpc := rfl
@[simp] theorem Lane.setV_rwait (l : Lane) (n : Nat) (x : Word) : (l.setV n x).rwait = l.rwait := rfl
@[simp] theorem Lane.setV_latch (l : Lane) (n : Nat) (x : Word) : (l.setV n x).latch = l.latch := rfl
@[simp] theorem Lane.setV_rjnRel (l : Lane) (n : Nat) (x : Word) : (l.setV n x).rjnRel = l.rjnRel := rfl
@[simp] theorem Lane.setV_haz (l : Lane) (n : Nat) (x : Word) : (l.setV n x).haz = l.haz := rfl
@[simp] theorem Lane.setV_busy (l : Lane) (n : Nat) (x : Word) : (l.setV n x).busy = l.busy := rfl
@[simp] theorem Lane.setV_bad (l : Lane) (n : Nat) (x : Word) : (l.setV n x).bad = l.bad := rfl
@[simp] theorem Lane.setV_prog (l : Lane) (n : Nat) (x : Word) : (l.setV n x).prog = l.prog := rfl
@[simp] theorem Lane.setV_turn (l : Lane) (n : Nat) (x : Word) : (l.setV n x).turn = l.turn := rfl
@[simp] theorem Lane.setV_ready (l : Lane) (n : Nat) (x : Word) : (l.setV n x).ready = l.ready := rfl
@[simp] theorem Lane.setV_v (l : Lane) (n : Nat) (x : Word) : (l.setV n x).v = putD l.v n x 0 := rfl

@[simp] theorem Lane.setP_st (l : Lane) (n : Nat) (b : Bool) : (l.setP n b).st = l.st := by unfold Lane.setP; split <;> rfl
@[simp] theorem Lane.setP_pc (l : Lane) (n : Nat) (b : Bool) : (l.setP n b).pc = l.pc := by unfold Lane.setP; split <;> rfl
@[simp] theorem Lane.setP_v (l : Lane) (n : Nat) (b : Bool) : (l.setP n b).v = l.v := by unfold Lane.setP; split <;> rfl
@[simp] theorem Lane.setP_wait (l : Lane) (n : Nat) (b : Bool) : (l.setP n b).wait = l.wait := by unfold Lane.setP; split <;> rfl
@[simp] theorem Lane.setP_rpc (l : Lane) (n : Nat) (b : Bool) : (l.setP n b).rpc = l.rpc := by unfold Lane.setP; split <;> rfl
@[simp] theorem Lane.setP_rwait (l : Lane) (n : Nat) (b : Bool) : (l.setP n b).rwait = l.rwait := by unfold Lane.setP; split <;> rfl
@[simp] theorem Lane.setP_latch (l : Lane) (n : Nat) (b : Bool) : (l.setP n b).latch = l.latch := by unfold Lane.setP; split <;> rfl
@[simp] theorem Lane.setP_rjnRel (l : Lane) (n : Nat) (b : Bool) : (l.setP n b).rjnRel = l.rjnRel := by unfold Lane.setP; split <;> rfl
@[simp] theorem Lane.setP_haz (l : Lane) (n : Nat) (b : Bool) : (l.setP n b).haz = l.haz := by unfold Lane.setP; split <;> rfl
@[simp] theorem Lane.setP_busy (l : Lane) (n : Nat) (b : Bool) : (l.setP n b).busy = l.busy := by unfold Lane.setP; split <;> rfl
@[simp] theorem Lane.setP_bad (l : Lane) (n : Nat) (b : Bool) : (l.setP n b).bad = l.bad := by unfold Lane.setP; split <;> rfl
@[simp] theorem Lane.setP_prog (l : Lane) (n : Nat) (b : Bool) : (l.setP n b).prog = l.prog := by unfold Lane.setP; split <;> rfl
@[simp] theorem Lane.setP_turn (l : Lane) (n : Nat) (b : Bool) : (l.setP n b).turn = l.turn := by unfold Lane.setP; split <;> rfl
@[simp] theorem Lane.setP_ready (l : Lane) (n : Nat) (b : Bool) : (l.setP n b).ready = l.ready := by unfold Lane.setP; split <;> rfl

/-! ### A warp -/

@[simp] theorem Warp.onLanes_core (w : Warp) (ls : List Nat) (h : Nat → Lane → Lane) : (w.onLanes ls h).core = w.core := rfl
@[simp] theorem Warp.onLanes_slot (w : Warp) (ls : List Nat) (h : Nat → Lane → Lane) : (w.onLanes ls h).slot = w.slot := rfl
@[simp] theorem Warp.onLanes_part (w : Warp) (ls : List Nat) (h : Nat → Lane → Lane) : (w.onLanes ls h).part = w.part := rfl
@[simp] theorem Warp.onLanes_team (w : Warp) (ls : List Nat) (h : Nat → Lane → Lane) : (w.onLanes ls h).team = w.team := rfl
@[simp] theorem Warp.onLanes_wid (w : Warp) (ls : List Nat) (h : Nat → Lane → Lane) : (w.onLanes ls h).wid = w.wid := rfl
@[simp] theorem Warp.onLanes_s (w : Warp) (ls : List Nat) (h : Nat → Lane → Lane) : (w.onLanes ls h).s = w.s := rfl
@[simp] theorem Warp.onLanes_g (w : Warp) (ls : List Nat) (h : Nat → Lane → Lane) : (w.onLanes ls h).g = w.g := rfl
@[simp] theorem Warp.onLanes_m (w : Warp) (ls : List Nat) (h : Nat → Lane → Lane) : (w.onLanes ls h).m = w.m := rfl
@[simp] theorem Warp.onLanes_regs (w : Warp) (ls : List Nat) (h : Nat → Lane → Lane) : (w.onLanes ls h).regs = w.regs := rfl
@[simp] theorem Warp.onLanes_privSize (w : Warp) (ls : List Nat) (h : Nat → Lane → Lane) : (w.onLanes ls h).privSize = w.privSize := rfl
@[simp] theorem Warp.onLanes_privBase (w : Warp) (ls : List Nat) (h : Nat → Lane → Lane) : (w.onLanes ls h).privBase = w.privBase := rfl
@[simp] theorem Warp.onLanes_wst (w : Warp) (ls : List Nat) (h : Nat → Lane → Lane) : (w.onLanes ls h).wst = w.wst := rfl
@[simp] theorem Warp.onLanes_wch (w : Warp) (ls : List Nat) (h : Nat → Lane → Lane) : (w.onLanes ls h).wch = w.wch := rfl
@[simp] theorem Warp.onLanes_oac (w : Warp) (ls : List Nat) (h : Nat → Lane → Lane) : (w.onLanes ls h).oac = w.oac := rfl
@[simp] theorem Warp.onLanes_latch (w : Warp) (ls : List Nat) (h : Nat → Lane → Lane) : (w.onLanes ls h).latch = w.latch := rfl
@[simp] theorem Warp.onLanes_mode (w : Warp) (ls : List Nat) (h : Nat → Lane → Lane) : (w.onLanes ls h).mode = w.mode := rfl
@[simp] theorem Warp.onLanes_tcause (w : Warp) (ls : List Nat) (h : Nat → Lane → Lane) : (w.onLanes ls h).tcause = w.tcause := rfl
@[simp] theorem Warp.onLanes_tepc (w : Warp) (ls : List Nat) (h : Nat → Lane → Lane) : (w.onLanes ls h).tepc = w.tepc := rfl
@[simp] theorem Warp.onLanes_tlane (w : Warp) (ls : List Nat) (h : Nat → Lane → Lane) : (w.onLanes ls h).tlane = w.tlane := rfl
@[simp] theorem Warp.onLanes_taddr (w : Warp) (ls : List Nat) (h : Nat → Lane → Lane) : (w.onLanes ls h).taddr = w.taddr := rfl
@[simp] theorem Warp.onLanes_tmask (w : Warp) (ls : List Nat) (h : Nat → Lane → Lane) : (w.onLanes ls h).tmask = w.tmask := rfl
@[simp] theorem Warp.onLanes_tvec (w : Warp) (ls : List Nat) (h : Nat → Lane → Lane) : (w.onLanes ls h).tvec = w.tvec := rfl
@[simp] theorem Warp.onLanes_hscr (w : Warp) (ls : List Nat) (h : Nat → Lane → Lane) : (w.onLanes ls h).hscr = w.hscr := rfl
@[simp] theorem Warp.onLanes_schk (w : Warp) (ls : List Nat) (h : Nat → Lane → Lane) : (w.onLanes ls h).schk = w.schk := rfl
@[simp] theorem Warp.onLanes_gsave (w : Warp) (ls : List Nat) (h : Nat → Lane → Lane) : (w.onLanes ls h).gsave = w.gsave := rfl
@[simp] theorem Warp.onLanes_wbar (w : Warp) (ls : List Nat) (h : Nat → Lane → Lane) : (w.onLanes ls h).wbar = w.wbar := rfl
@[simp] theorem Warp.onLanes_wbarMem (w : Warp) (ls : List Nat) (h : Nat → Lane → Lane) : (w.onLanes ls h).wbarMem = w.wbarMem := rfl
@[simp] theorem Warp.onLanes_busy (w : Warp) (ls : List Nat) (h : Nat → Lane → Lane) : (w.onLanes ls h).busy = w.busy := rfl
@[simp] theorem Warp.onLanes_spilled (w : Warp) (ls : List Nat) (h : Nat → Lane → Lane) : (w.onLanes ls h).spilled = w.spilled := rfl
@[simp] theorem Warp.onLanes_promoted (w : Warp) (ls : List Nat) (h : Nat → Lane → Lane) : (w.onLanes ls h).promoted = w.promoted := rfl
@[simp] theorem Warp.onLanes_bad (w : Warp) (ls : List Nat) (h : Nat → Lane → Lane) : (w.onLanes ls h).bad = w.bad := rfl
@[simp] theorem Warp.onLanes_turns (w : Warp) (ls : List Nat) (h : Nat → Lane → Lane) : (w.onLanes ls h).turns = w.turns := rfl
@[simp] theorem Warp.onLanes_issued (w : Warp) (ls : List Nat) (h : Nat → Lane → Lane) : (w.onLanes ls h).issued = w.issued := rfl
@[simp] theorem Warp.onLanes_serial (w : Warp) (ls : List Nat) (h : Nat → Lane → Lane) : (w.onLanes ls h).serial = w.serial := rfl
@[simp] theorem Warp.onLanes_recs (w : Warp) (ls : List Nat) (h : Nat → Lane → Lane) : (w.onLanes ls h).recs = w.recs := rfl
@[simp] theorem Warp.onLanes_lanes (w : Warp) (ls : List Nat) (h : Nat → Lane → Lane) :
    (w.onLanes ls h).lanes = w.lanes.mapIdx (fun k l => if ls.contains k then h k l else l) := rfl

@[simp] theorem Warp.setS_core (w : Warp) (n : Nat) (x : Word) : (w.setS n x).core = w.core := by unfold Warp.setS; split <;> rfl
@[simp] theorem Warp.setS_slot (w : Warp) (n : Nat) (x : Word) : (w.setS n x).slot = w.slot := by unfold Warp.setS; split <;> rfl
@[simp] theorem Warp.setS_part (w : Warp) (n : Nat) (x : Word) : (w.setS n x).part = w.part := by unfold Warp.setS; split <;> rfl
@[simp] theorem Warp.setS_team (w : Warp) (n : Nat) (x : Word) : (w.setS n x).team = w.team := by unfold Warp.setS; split <;> rfl
@[simp] theorem Warp.setS_wid (w : Warp) (n : Nat) (x : Word) : (w.setS n x).wid = w.wid := by unfold Warp.setS; split <;> rfl
@[simp] theorem Warp.setS_lanes (w : Warp) (n : Nat) (x : Word) : (w.setS n x).lanes = w.lanes := by unfold Warp.setS; split <;> rfl
@[simp] theorem Warp.setS_g (w : Warp) (n : Nat) (x : Word) : (w.setS n x).g = w.g := by unfold Warp.setS; split <;> rfl
@[simp] theorem Warp.setS_m (w : Warp) (n : Nat) (x : Word) : (w.setS n x).m = w.m := by unfold Warp.setS; split <;> rfl
@[simp] theorem Warp.setS_regs (w : Warp) (n : Nat) (x : Word) : (w.setS n x).regs = w.regs := by unfold Warp.setS; split <;> rfl
@[simp] theorem Warp.setS_privSize (w : Warp) (n : Nat) (x : Word) : (w.setS n x).privSize = w.privSize := by unfold Warp.setS; split <;> rfl
@[simp] theorem Warp.setS_privBase (w : Warp) (n : Nat) (x : Word) : (w.setS n x).privBase = w.privBase := by unfold Warp.setS; split <;> rfl
@[simp] theorem Warp.setS_wst (w : Warp) (n : Nat) (x : Word) : (w.setS n x).wst = w.wst := by unfold Warp.setS; split <;> rfl
@[simp] theorem Warp.setS_wch (w : Warp) (n : Nat) (x : Word) : (w.setS n x).wch = w.wch := by unfold Warp.setS; split <;> rfl
@[simp] theorem Warp.setS_oac (w : Warp) (n : Nat) (x : Word) : (w.setS n x).oac = w.oac := by unfold Warp.setS; split <;> rfl
@[simp] theorem Warp.setS_latch (w : Warp) (n : Nat) (x : Word) : (w.setS n x).latch = w.latch := by unfold Warp.setS; split <;> rfl
@[simp] theorem Warp.setS_mode (w : Warp) (n : Nat) (x : Word) : (w.setS n x).mode = w.mode := by unfold Warp.setS; split <;> rfl
@[simp] theorem Warp.setS_tcause (w : Warp) (n : Nat) (x : Word) : (w.setS n x).tcause = w.tcause := by unfold Warp.setS; split <;> rfl
@[simp] theorem Warp.setS_tepc (w : Warp) (n : Nat) (x : Word) : (w.setS n x).tepc = w.tepc := by unfold Warp.setS; split <;> rfl
@[simp] theorem Warp.setS_tlane (w : Warp) (n : Nat) (x : Word) : (w.setS n x).tlane = w.tlane := by unfold Warp.setS; split <;> rfl
@[simp] theorem Warp.setS_taddr (w : Warp) (n : Nat) (x : Word) : (w.setS n x).taddr = w.taddr := by unfold Warp.setS; split <;> rfl
@[simp] theorem Warp.setS_tmask (w : Warp) (n : Nat) (x : Word) : (w.setS n x).tmask = w.tmask := by unfold Warp.setS; split <;> rfl
@[simp] theorem Warp.setS_tvec (w : Warp) (n : Nat) (x : Word) : (w.setS n x).tvec = w.tvec := by unfold Warp.setS; split <;> rfl
@[simp] theorem Warp.setS_hscr (w : Warp) (n : Nat) (x : Word) : (w.setS n x).hscr = w.hscr := by unfold Warp.setS; split <;> rfl
@[simp] theorem Warp.setS_schk (w : Warp) (n : Nat) (x : Word) : (w.setS n x).schk = w.schk := by unfold Warp.setS; split <;> rfl
@[simp] theorem Warp.setS_gsave (w : Warp) (n : Nat) (x : Word) : (w.setS n x).gsave = w.gsave := by unfold Warp.setS; split <;> rfl
@[simp] theorem Warp.setS_wbar (w : Warp) (n : Nat) (x : Word) : (w.setS n x).wbar = w.wbar := by unfold Warp.setS; split <;> rfl
@[simp] theorem Warp.setS_wbarMem (w : Warp) (n : Nat) (x : Word) : (w.setS n x).wbarMem = w.wbarMem := by unfold Warp.setS; split <;> rfl
@[simp] theorem Warp.setS_busy (w : Warp) (n : Nat) (x : Word) : (w.setS n x).busy = w.busy := by unfold Warp.setS; split <;> rfl
@[simp] theorem Warp.setS_spilled (w : Warp) (n : Nat) (x : Word) : (w.setS n x).spilled = w.spilled := by unfold Warp.setS; split <;> rfl
@[simp] theorem Warp.setS_promoted (w : Warp) (n : Nat) (x : Word) : (w.setS n x).promoted = w.promoted := by unfold Warp.setS; split <;> rfl
@[simp] theorem Warp.setS_bad (w : Warp) (n : Nat) (x : Word) : (w.setS n x).bad = w.bad := by unfold Warp.setS; split <;> rfl
@[simp] theorem Warp.setS_turns (w : Warp) (n : Nat) (x : Word) : (w.setS n x).turns = w.turns := by unfold Warp.setS; split <;> rfl
@[simp] theorem Warp.setS_issued (w : Warp) (n : Nat) (x : Word) : (w.setS n x).issued = w.issued := by unfold Warp.setS; split <;> rfl
@[simp] theorem Warp.setS_serial (w : Warp) (n : Nat) (x : Word) : (w.setS n x).serial = w.serial := by unfold Warp.setS; split <;> rfl
@[simp] theorem Warp.setS_recs (w : Warp) (n : Nat) (x : Word) : (w.setS n x).recs = w.recs := by unfold Warp.setS; split <;> rfl

@[simp] theorem Warp.setG_core (w : Warp) (n : Nat) (b : Bool) : (w.setG n b).core = w.core := by unfold Warp.setG; split <;> rfl
@[simp] theorem Warp.setG_slot (w : Warp) (n : Nat) (b : Bool) : (w.setG n b).slot = w.slot := by unfold Warp.setG; split <;> rfl
@[simp] theorem Warp.setG_part (w : Warp) (n : Nat) (b : Bool) : (w.setG n b).part = w.part := by unfold Warp.setG; split <;> rfl
@[simp] theorem Warp.setG_team (w : Warp) (n : Nat) (b : Bool) : (w.setG n b).team = w.team := by unfold Warp.setG; split <;> rfl
@[simp] theorem Warp.setG_wid (w : Warp) (n : Nat) (b : Bool) : (w.setG n b).wid = w.wid := by unfold Warp.setG; split <;> rfl
@[simp] theorem Warp.setG_lanes (w : Warp) (n : Nat) (b : Bool) : (w.setG n b).lanes = w.lanes := by unfold Warp.setG; split <;> rfl
@[simp] theorem Warp.setG_s (w : Warp) (n : Nat) (b : Bool) : (w.setG n b).s = w.s := by unfold Warp.setG; split <;> rfl
@[simp] theorem Warp.setG_m (w : Warp) (n : Nat) (b : Bool) : (w.setG n b).m = w.m := by unfold Warp.setG; split <;> rfl
@[simp] theorem Warp.setG_regs (w : Warp) (n : Nat) (b : Bool) : (w.setG n b).regs = w.regs := by unfold Warp.setG; split <;> rfl
@[simp] theorem Warp.setG_privSize (w : Warp) (n : Nat) (b : Bool) : (w.setG n b).privSize = w.privSize := by unfold Warp.setG; split <;> rfl
@[simp] theorem Warp.setG_privBase (w : Warp) (n : Nat) (b : Bool) : (w.setG n b).privBase = w.privBase := by unfold Warp.setG; split <;> rfl
@[simp] theorem Warp.setG_wst (w : Warp) (n : Nat) (b : Bool) : (w.setG n b).wst = w.wst := by unfold Warp.setG; split <;> rfl
@[simp] theorem Warp.setG_wch (w : Warp) (n : Nat) (b : Bool) : (w.setG n b).wch = w.wch := by unfold Warp.setG; split <;> rfl
@[simp] theorem Warp.setG_oac (w : Warp) (n : Nat) (b : Bool) : (w.setG n b).oac = w.oac := by unfold Warp.setG; split <;> rfl
@[simp] theorem Warp.setG_latch (w : Warp) (n : Nat) (b : Bool) : (w.setG n b).latch = w.latch := by unfold Warp.setG; split <;> rfl
@[simp] theorem Warp.setG_mode (w : Warp) (n : Nat) (b : Bool) : (w.setG n b).mode = w.mode := by unfold Warp.setG; split <;> rfl
@[simp] theorem Warp.setG_tcause (w : Warp) (n : Nat) (b : Bool) : (w.setG n b).tcause = w.tcause := by unfold Warp.setG; split <;> rfl
@[simp] theorem Warp.setG_tepc (w : Warp) (n : Nat) (b : Bool) : (w.setG n b).tepc = w.tepc := by unfold Warp.setG; split <;> rfl
@[simp] theorem Warp.setG_tlane (w : Warp) (n : Nat) (b : Bool) : (w.setG n b).tlane = w.tlane := by unfold Warp.setG; split <;> rfl
@[simp] theorem Warp.setG_taddr (w : Warp) (n : Nat) (b : Bool) : (w.setG n b).taddr = w.taddr := by unfold Warp.setG; split <;> rfl
@[simp] theorem Warp.setG_tmask (w : Warp) (n : Nat) (b : Bool) : (w.setG n b).tmask = w.tmask := by unfold Warp.setG; split <;> rfl
@[simp] theorem Warp.setG_tvec (w : Warp) (n : Nat) (b : Bool) : (w.setG n b).tvec = w.tvec := by unfold Warp.setG; split <;> rfl
@[simp] theorem Warp.setG_hscr (w : Warp) (n : Nat) (b : Bool) : (w.setG n b).hscr = w.hscr := by unfold Warp.setG; split <;> rfl
@[simp] theorem Warp.setG_schk (w : Warp) (n : Nat) (b : Bool) : (w.setG n b).schk = w.schk := by unfold Warp.setG; split <;> rfl
@[simp] theorem Warp.setG_gsave (w : Warp) (n : Nat) (b : Bool) : (w.setG n b).gsave = w.gsave := by unfold Warp.setG; split <;> rfl
@[simp] theorem Warp.setG_wbar (w : Warp) (n : Nat) (b : Bool) : (w.setG n b).wbar = w.wbar := by unfold Warp.setG; split <;> rfl
@[simp] theorem Warp.setG_wbarMem (w : Warp) (n : Nat) (b : Bool) : (w.setG n b).wbarMem = w.wbarMem := by unfold Warp.setG; split <;> rfl
@[simp] theorem Warp.setG_busy (w : Warp) (n : Nat) (b : Bool) : (w.setG n b).busy = w.busy := by unfold Warp.setG; split <;> rfl
@[simp] theorem Warp.setG_spilled (w : Warp) (n : Nat) (b : Bool) : (w.setG n b).spilled = w.spilled := by unfold Warp.setG; split <;> rfl
@[simp] theorem Warp.setG_promoted (w : Warp) (n : Nat) (b : Bool) : (w.setG n b).promoted = w.promoted := by unfold Warp.setG; split <;> rfl
@[simp] theorem Warp.setG_bad (w : Warp) (n : Nat) (b : Bool) : (w.setG n b).bad = w.bad := by unfold Warp.setG; split <;> rfl
@[simp] theorem Warp.setG_turns (w : Warp) (n : Nat) (b : Bool) : (w.setG n b).turns = w.turns := by unfold Warp.setG; split <;> rfl
@[simp] theorem Warp.setG_issued (w : Warp) (n : Nat) (b : Bool) : (w.setG n b).issued = w.issued := by unfold Warp.setG; split <;> rfl
@[simp] theorem Warp.setG_serial (w : Warp) (n : Nat) (b : Bool) : (w.setG n b).serial = w.serial := by unfold Warp.setG; split <;> rfl
@[simp] theorem Warp.setG_recs (w : Warp) (n : Nat) (b : Bool) : (w.setG n b).recs = w.recs := by unfold Warp.setG; split <;> rfl

@[simp] theorem Warp.raise_core (w : Warp) (t fl : Nat) : (w.raise t fl).core = w.core := by unfold Warp.raise; split <;> rfl
@[simp] theorem Warp.raise_slot (w : Warp) (t fl : Nat) : (w.raise t fl).slot = w.slot := by unfold Warp.raise; split <;> rfl
@[simp] theorem Warp.raise_part (w : Warp) (t fl : Nat) : (w.raise t fl).part = w.part := by unfold Warp.raise; split <;> rfl
@[simp] theorem Warp.raise_team (w : Warp) (t fl : Nat) : (w.raise t fl).team = w.team := by unfold Warp.raise; split <;> rfl
@[simp] theorem Warp.raise_wid (w : Warp) (t fl : Nat) : (w.raise t fl).wid = w.wid := by unfold Warp.raise; split <;> rfl
@[simp] theorem Warp.raise_lanes (w : Warp) (t fl : Nat) : (w.raise t fl).lanes = w.lanes := by unfold Warp.raise; split <;> rfl
@[simp] theorem Warp.raise_s (w : Warp) (t fl : Nat) : (w.raise t fl).s = w.s := by unfold Warp.raise; split <;> rfl
@[simp] theorem Warp.raise_g (w : Warp) (t fl : Nat) : (w.raise t fl).g = w.g := by unfold Warp.raise; split <;> rfl
@[simp] theorem Warp.raise_m (w : Warp) (t fl : Nat) : (w.raise t fl).m = w.m := by unfold Warp.raise; split <;> rfl
@[simp] theorem Warp.raise_regs (w : Warp) (t fl : Nat) : (w.raise t fl).regs = w.regs := by unfold Warp.raise; split <;> rfl
@[simp] theorem Warp.raise_privSize (w : Warp) (t fl : Nat) : (w.raise t fl).privSize = w.privSize := by unfold Warp.raise; split <;> rfl
@[simp] theorem Warp.raise_privBase (w : Warp) (t fl : Nat) : (w.raise t fl).privBase = w.privBase := by unfold Warp.raise; split <;> rfl
@[simp] theorem Warp.raise_wch (w : Warp) (t fl : Nat) : (w.raise t fl).wch = w.wch := by unfold Warp.raise; split <;> rfl
@[simp] theorem Warp.raise_oac (w : Warp) (t fl : Nat) : (w.raise t fl).oac = w.oac := by unfold Warp.raise; split <;> rfl
@[simp] theorem Warp.raise_latch (w : Warp) (t fl : Nat) : (w.raise t fl).latch = w.latch := by unfold Warp.raise; split <;> rfl
@[simp] theorem Warp.raise_mode (w : Warp) (t fl : Nat) : (w.raise t fl).mode = w.mode := by unfold Warp.raise; split <;> rfl
@[simp] theorem Warp.raise_tcause (w : Warp) (t fl : Nat) : (w.raise t fl).tcause = w.tcause := by unfold Warp.raise; split <;> rfl
@[simp] theorem Warp.raise_tepc (w : Warp) (t fl : Nat) : (w.raise t fl).tepc = w.tepc := by unfold Warp.raise; split <;> rfl
@[simp] theorem Warp.raise_tlane (w : Warp) (t fl : Nat) : (w.raise t fl).tlane = w.tlane := by unfold Warp.raise; split <;> rfl
@[simp] theorem Warp.raise_taddr (w : Warp) (t fl : Nat) : (w.raise t fl).taddr = w.taddr := by unfold Warp.raise; split <;> rfl
@[simp] theorem Warp.raise_tmask (w : Warp) (t fl : Nat) : (w.raise t fl).tmask = w.tmask := by unfold Warp.raise; split <;> rfl
@[simp] theorem Warp.raise_tvec (w : Warp) (t fl : Nat) : (w.raise t fl).tvec = w.tvec := by unfold Warp.raise; split <;> rfl
@[simp] theorem Warp.raise_hscr (w : Warp) (t fl : Nat) : (w.raise t fl).hscr = w.hscr := by unfold Warp.raise; split <;> rfl
@[simp] theorem Warp.raise_schk (w : Warp) (t fl : Nat) : (w.raise t fl).schk = w.schk := by unfold Warp.raise; split <;> rfl
@[simp] theorem Warp.raise_gsave (w : Warp) (t fl : Nat) : (w.raise t fl).gsave = w.gsave := by unfold Warp.raise; split <;> rfl
@[simp] theorem Warp.raise_wbar (w : Warp) (t fl : Nat) : (w.raise t fl).wbar = w.wbar := by unfold Warp.raise; split <;> rfl
@[simp] theorem Warp.raise_wbarMem (w : Warp) (t fl : Nat) : (w.raise t fl).wbarMem = w.wbarMem := by unfold Warp.raise; split <;> rfl
@[simp] theorem Warp.raise_busy (w : Warp) (t fl : Nat) : (w.raise t fl).busy = w.busy := by unfold Warp.raise; split <;> rfl
@[simp] theorem Warp.raise_spilled (w : Warp) (t fl : Nat) : (w.raise t fl).spilled = w.spilled := by unfold Warp.raise; split <;> rfl
@[simp] theorem Warp.raise_promoted (w : Warp) (t fl : Nat) : (w.raise t fl).promoted = w.promoted := by unfold Warp.raise; split <;> rfl
@[simp] theorem Warp.raise_bad (w : Warp) (t fl : Nat) : (w.raise t fl).bad = w.bad := by unfold Warp.raise; split <;> rfl
@[simp] theorem Warp.raise_turns (w : Warp) (t fl : Nat) : (w.raise t fl).turns = w.turns := by unfold Warp.raise; split <;> rfl
@[simp] theorem Warp.raise_issued (w : Warp) (t fl : Nat) : (w.raise t fl).issued = w.issued := by unfold Warp.raise; split <;> rfl
@[simp] theorem Warp.raise_serial (w : Warp) (t fl : Nat) : (w.raise t fl).serial = w.serial := by unfold Warp.raise; split <;> rfl
@[simp] theorem Warp.raise_recs (w : Warp) (t fl : Nat) : (w.raise t fl).recs = w.recs := by unfold Warp.raise; split <;> rfl

end Sys2Proof.Machine
end

