-- ==== Sys2Proof/Laws/Issue.lean ====
section
/-! SUPPORT. What a shared issue operation answers: for a ready split, for a control core and for a list position. -/

namespace Sys2Proof.Machine

@[simp] theorem Run.tellKernel_clk (r : Run) (i : Instr) (wp : Warp) : (r.tellKernel i wp).clk = r.clk := by
  unfold Run.tellKernel; split <;> rfl
@[simp] theorem Run.tellKernel_mem (r : Run) (i : Instr) (wp : Warp) : (r.tellKernel i wp).mem = r.mem := by
  unfold Run.tellKernel; split <;> rfl
@[simp] theorem Run.tellKernel_w (r : Run) (i : Instr) (wp : Warp) : (r.tellKernel i wp).w = r.w := by
  unfold Run.tellKernel; split <;> rfl
@[simp] theorem Run.tellKernel_cur (r : Run) (i : Instr) (wp : Warp) : (r.tellKernel i wp).cur = r.cur := by
  unfold Run.tellKernel; split <;> rfl

/-- An instruction that tells nothing of its launch leaves all as it was. -/
theorem Run.tellKernel_none {r : Run} {i : Instr} {wp : Warp} (h : i.kernelKind = none) : r.tellKernel i wp = r := by
  unfold Run.tellKernel; rw [h]; split
  · rename_i h1 h2; exact absurd h2 (by simp)
  · rfl

/-- The checks of R80 pass a ready split's instruction on to its own meaning. -/
theorem judge_ready {s : State} {i : Instr} {w l : Nat} {wp : Warp} (h : Ready s i w l wp) (f : Run → Env → Ret) :
    (Run.of s).judge i wp (s.env i w l wp) f = f (s.served i wp) (s.env i w l wp) := by
  have he : (s.env i w l wp).lanes = wp.split l := rfl
  simp only [Run.judge, he, h.mode, h.legal, h.chk, h.sb, h.sound, Bool.not_true, Bool.false_eq_true, if_false, State.served]

/-- Every issue of a ready split answers a next state: the outcome of the instruction's own meaning, settled. -/
theorem issue_ready {s : State} {i : Instr} {w l : Nat} {wp : Warp} (h : Ready s i w l wp) (f : Run → Env → Ret) :
    issue i f s = .next (finish s (((Run.of s).settle i (s.env i w l wp) wp s.cur.stall
      (f (s.served i wp) (s.env i w l wp))).note (f (s.served i wp) (s.env i w l wp)).ended)) := by
  have hs : (wp.split l).isEmpty = false := by cases hh : wp.split l with
    | nil => exact absurd hh h.split
    | cons _ _ => rfl
  have hj := judge_ready h f
  unfold State.env at hj ⊢
  simp only [issue, h.agent, h.warp, hs, Run.issueWarp, h.here, Bool.false_eq_true, if_false, hj, Run.of_cur]

theorem laneOp_ready {s : State} {i : Instr} {w l : Nat} {wp : Warp} (h : Ready s i w l wp) (g : Nat)
    (f : Env → Nat → LaneRes) :
    laneOp i g f s = .next (s.through i w l wp ((s.served i wp).applyLanes (s.env i w l wp) g (f (s.env i w l wp)))) := by
  rw [laneOp, issue_ready h]; rfl

theorem uniOp_ready {s : State} {i : Instr} {w l : Nat} {wp : Warp} (h : Ready s i w l wp) (g : Nat)
    (f : Run → Env → Ret) (hg : (s.env i w l wp).ug g = true) :
    uniOp i g f s = .next (finish s (((Run.of s).settle i (s.env i w l wp) wp s.cur.stall
      (f (s.served i wp) (s.env i w l wp))).note (f (s.served i wp) (s.env i w l wp)).ended)) := by
  rw [uniOp, issue_ready h]; simp only [hg, if_true]

theorem issue_readyCc {s : State} {i : Instr} {k : Nat} (h : ReadyCc s i k) (f : Run → Env → Ret) :
    issue i f s = .next (finish s ((Run.of s).ccSettle ((Run.of s).ccEnv i k) k (f (Run.of s) ((Run.of s).ccEnv i k)))) := by
  simp only [issue, h.agent, h.core, h.runs, Run.issueCc, h.mode, h.legal, h.here, h.sys, true_and, if_true]
  rfl

theorem uniOp_readyCc {s : State} {i : Instr} {k : Nat} (h : ReadyCc s i k) (g : Nat) (f : Run → Env → Ret)
    (hg : ((Run.of s).ccEnv i k).ug g = true) :
    uniOp i g f s = .next (finish s ((Run.of s).ccSettle ((Run.of s).ccEnv i k) k (f (Run.of s) ((Run.of s).ccEnv i k)))) := by
  rw [uniOp, issue_readyCc h]; simp only [hg, if_true]

theorem listOp_ready {s : State} {i : Instr} {e p : Nat} {x : CmdList} (h : ReadyList s e p x) (hi : i.wf = true)
    (f : Run → Nat → CmdList → LRet) :
    listOp i f s = .next (finish s ((Run.of s).listSettle (e * 16 + p) x (f (Run.of s) (e * 16 + p) x))) := by
  simp only [listOp, h.agent, h.list, h.runs, hi, if_true]

/-- A transfer command that is not held back goes on as any other command. -/
theorem transferOp_ready {s : State} {i : Instr} {e p q mask : Nat} {x : CmdList} {r : Run} (h : ReadyList s e p x)
    (hi : i.wf = true) {f : Run → Nat → CmdList → LRet} (hf : f (Run.of s) (e * 16 + p) x = .next r) :
    transferOp i q mask f s = .next (finish s ((Run.of s).listSettle (e * 16 + p) x (.next r))) := by
  simp only [transferOp, h.agent, h.list, h.runs, hi, hf, if_true]

end Sys2Proof.Machine
end

