-- ==== Sys2Proof/Laws/Through.lean ====
section
/-! SUPPORT. What the end of an issue does once an instruction has completed: its warp's lanes, the use of a port, and nothing else. -/

namespace Sys2Proof.Machine

theorem nthD_none {α : Type} {l : List α} {k : Nat} (d : α) (h : ¬ k < l.length) : nthD l k d = d := by
  simp [nthD, Nat.le_of_not_lt h]

/-- Lanes changed by `onLanes`: those of the list. -/
theorem Warp.onLanes_lane (wp : Warp) (ls : List Nat) (f : Nat → Lane → Lane) (k : Nat) (h : k < wp.lanes.length) :
    nthD (wp.onLanes ls f).lanes k Lane.absent =
      if k ∈ ls then f k (nthD wp.lanes k Lane.absent) else nthD wp.lanes k Lane.absent := by
  rw [Warp.onLanes_lanes, nthD_mapIdx _ _ _ _ h]
  simp

theorem Warp.onLanes_length (wp : Warp) (ls : List Nat) (f : Nat → Lane → Lane) :
    (wp.onLanes ls f).lanes.length = wp.lanes.length := by simp

theorem Warp.onLanes_other (wp : Warp) (ls : List Nat) (f : Nat → Lane → Lane) (k : Nat) (h : k ∉ ls) :
    nthD (wp.onLanes ls f).lanes k Lane.absent = nthD wp.lanes k Lane.absent := by
  by_cases hk : k < wp.lanes.length
  · rw [Warp.onLanes_lane wp ls f k hk, if_neg h]
  · rw [nthD_none _ hk, nthD_none]
    simpa using hk

/-- The lanes of a split exist. -/
theorem Warp.split_lt {wp : Warp} {l k : Nat} (h : k ∈ wp.split l) : k < wp.lanes.length := by
  unfold Warp.split at h
  split at h
  · split at h
    · rw [List.mem_filter] at h
      rcases hk : wp.lanes[k]? with _ | y
      · simp [hk] at h
      · exact (List.getElem?_eq_some_iff.1 hk).1
    · exact absurd h List.not_mem_nil
  · exact absurd h List.not_mem_nil

@[simp] theorem Lane.absent_bystand (ws : List Res) : Lane.absent.bystand ws = Lane.absent := rfl

@[simp] theorem Lane.bystand_nil (x : Lane) : x.bystand [] = x := by
  unfold Lane.bystand; rw [List.filter_eq_self.2 (by simp)]

@[simp] theorem Lane.bystand_still (x : Lane) (ws : List Res) : (x.bystand ws).still = x.still := rfl

@[simp] theorem Lane.issued_v (x : Lane) (wp : Warp) (l : Lane) (u : Use) (now stall : Nat) (ws : List Res) :
    (x.issued wp l u now stall ws).v = x.v := rfl
@[simp] theorem Lane.issued_p (x : Lane) (wp : Warp) (l : Lane) (u : Use) (now stall : Nat) (ws : List Res) :
    (x.issued wp l u now stall ws).p = x.p := rfl
@[simp] theorem Lane.issued_pc (x : Lane) (wp : Warp) (l : Lane) (u : Use) (now stall : Nat) (ws : List Res) :
    (x.issued wp l u now stall ws).pc = x.pc := rfl
@[simp] theorem Lane.issued_wait (x : Lane) (wp : Warp) (l : Lane) (u : Use) (now stall : Nat) (ws : List Res) :
    (x.issued wp l u now stall ws).wait = x.wait := rfl
@[simp] theorem Lane.issued_rest (x : Lane) (wp : Warp) (l : Lane) (u : Use) (now stall : Nat) (ws : List Res) :
    (x.issued wp l u now stall ws).rest = x.rest := rfl

/-- Results that a false guard leaves are none. -/
theorem resWritten_none {u : Use} (h : ∀ x ∈ u.w, x.uniform = false) (any : Bool) : resWritten u false any = [] := by
  unfold resWritten
  rw [List.filter_eq_nil_iff]
  intro x hx
  simp [h x hx]

/-- A lane of the split after an instruction. -/
def Lane.after (wp : Warp) (i : Instr) (e : Env) (now stall k : Nat) (x : Lane) : Lane :=
  let guard := fun k => if i.isLane then e.p k i.guard else e.ug i.guard
  let y := x.issued wp (nthD wp.lanes k Lane.absent) i.use now stall (resWritten i.use (guard k) (e.lanes.any guard))
  { y with pc := nextPc x.pc e.words, wait := .none }

/-- The uniform registers and predicates that an instruction has written, once for its split. -/
def Env.uniforms (e : Env) (i : Instr) : List Res :=
  resWritten i.use false (e.lanes.any (fun k => if i.isLane then e.p k i.guard else e.ug i.guard))

/-- The warp of an instruction that has completed. -/
def Warp.through (x : Warp) (wp : Warp) (i : Instr) (e : Env) (now stall port : Nat) : Warp :=
  (x.issuedBy e wp i now stall port).onLanes e.lanes (fun _ y => { y with pc := nextPc y.pc e.words, wait := .none })

theorem Warp.through_in (x wp : Warp) (i : Instr) (e : Env) (now stall port k : Nat) (h : k ∈ e.lanes) (hk : k < x.lanes.length) :
    nthD (x.through wp i e now stall port).lanes k Lane.absent = (nthD x.lanes k Lane.absent).after wp i e now stall k := by
  have hl : (x.issuedBy e wp i now stall port).lanes.length = x.lanes.length := by simp [Warp.issuedBy, Warp.mapLanes]
  unfold Warp.through
  rw [Warp.onLanes_lane _ _ _ _ (hl ▸ hk), if_pos h]
  simp only [Warp.issuedBy, Warp.mapLanes]
  rw [nthD_mapIdx _ _ _ _ hk, if_pos (by simpa using h)]
  rfl

theorem Warp.through_out (x wp : Warp) (i : Instr) (e : Env) (now stall port k : Nat) (h : k ∉ e.lanes) :
    nthD (x.through wp i e now stall port).lanes k Lane.absent = (nthD x.lanes k Lane.absent).bystand (e.uniforms i) := by
  unfold Warp.through
  rw [Warp.onLanes_other _ _ _ _ h]
  by_cases hk : k < x.lanes.length
  · simp only [Warp.issuedBy, Warp.mapLanes]
    rw [nthD_mapIdx _ _ _ _ hk, if_neg (by simpa using h)]
    rfl
  · rw [nthD_none _ hk, nthD_none, Lane.absent_bystand]
    simpa [Warp.issuedBy, Warp.mapLanes] using hk

@[simp] theorem Warp.through_still (x wp : Warp) (i : Instr) (e : Env) (now stall port : Nat) :
    (x.through wp i e now stall port).still = x.still := rfl

@[simp] theorem Warp.through_s (x wp : Warp) (i : Instr) (e : Env) (now stall port : Nat) :
    (x.through wp i e now stall port).s = x.s := rfl

@[simp] theorem Warp.through_wst (x wp : Warp) (i : Instr) (e : Env) (now stall port : Nat) :
    (x.through wp i e now stall port).wst = x.wst := rfl

theorem through_warp (s : State) (i : Instr) (w l : Nat) (wp : Warp) (r : Run) :
    lookM (s.through i w l wp r).dev.warps w =
      (lookM r.dev.warps w).map (fun x => x.through wp i (s.env i w l wp) r.clk.cycles s.cur.stall r.cur.port) := by
  have hew : (s.env i w l wp).w = w := rfl
  simp only [State.through, finish_dev, Run.note, Run.advance, Run.onLanes, Run.issued, Run.took, Run.modWarp_dev, Run.modCore_dev, hew,
    lookM_modM_self, Option.map_map]
  rfl

/-- What the end of an issue leaves of a run outside the warp. -/
theorem through_frame (s : State) (i : Instr) (w l : Nat) (wp : Warp) (r : Run) :
    (s.through i w l wp r).clk = s.clk ∧ (s.through i w l wp r).mem = s.mem.writes r.w.reverse ∧
    (s.through i w l wp r).agenda = s.agenda ∧ (s.through i w l wp r).cur = { r.cur with ended := .ok } ∧
    (∀ k, k ≠ w → lookM (s.through i w l wp r).dev.warps k = lookM r.dev.warps k) ∧
    (∀ c, ((Run.of (s.through i w l wp r)).core c).still = (r.core c).still) ∧
    { (s.through i w l wp r).dev with warps := [], cores := [], nonce := 0 } =
      { r.dev with warps := [], cores := [], nonce := 0 } := by
  have hew : (s.env i w l wp).w = w := rfl
  refine ⟨rfl, rfl, rfl, rfl, ?_, ?_, rfl⟩
  · intro k hk
    simp [State.through, Run.note, Run.advance, Run.onLanes, Run.issued, Run.took, hew, lookM_modM_ne _ _ hk]
  · intro c
    simp only [State.through, finish_dev, Run.note, Run.advance, Run.onLanes, Run.issued, Run.took, Run.modWarp_dev, Run.modCore_dev, Run.core,
      Run.of_dev, lookD]
    by_cases hc : c = wp.core
    · subst hc
      simp [Core.take, Core.still]
    · rw [lookM_putM_ne _ _ hc]

/-- A run that differs from the state in warp `w` alone makes a frame. -/
theorem through_frameWarp {s : State} {i : Instr} {w l : Nat} {wp : Warp} {r : Run} (hw : r.w = []) (hc : r.cur = s.cur)
    (hk : ∀ k, k ≠ w → lookM r.dev.warps k = lookM s.dev.warps k)
    (hd : { r.dev with warps := [], nonce := 0 } = { s.dev with warps := [], nonce := 0 }) :
    FrameWarp s (s.through i w l wp r) w := by
  obtain ⟨f1, f2, f3, f4, f5, f6, f7⟩ := through_frame s i w l wp r
  have hco : r.dev.cores = s.dev.cores := by have := congrArg Dev.cores hd; exact this
  refine ⟨f1, ?_, f3, by rw [f4, hc], fun k h => (f5 k h).trans (hk k h), fun c => ?_, ?_⟩
  · rw [f2, hw]; rfl
  · rw [f6]; unfold Run.core; rw [hco]; rfl
  · rw [f7]; exact congrArg (fun d : Dev => { d with cores := [] }) hd

/-- Every instruction that has completed with a run in which the split's program counters are as they were is past. -/
theorem through_past {s : State} {i : Instr} {w l : Nat} {wp : Warp} (h : Ready s i w l wp) (r : Run) (x : Warp)
    (hx : lookM r.dev.warps w = some x) (hn : x.lanes.length = wp.lanes.length)
    (hl : ∀ k, k ∈ wp.split l → (nthD x.lanes k Lane.absent).pc = (nthD wp.lanes k Lane.absent).pc) :
    Past s (s.through i w l wp r) w (wp.split l) i.words := by
  intro k hk
  have hlt : k < x.lanes.length := hn ▸ Warp.split_lt hk
  unfold State.laneOf
  rw [through_warp, hx, h.warp]
  dsimp only [Option.map_some]
  rw [Warp.through_in _ _ _ _ _ _ _ _ hk hlt]
  exact ⟨congrArg (fun q => nextPc q i.words) (hl k hk), rfl⟩

end Sys2Proof.Machine
end

