-- ==== Sys2Proof/Laws/Lane.lean ====
section
/-! SUPPORT. Everything that a lane instruction does when it issues: its own lanes, and nothing else. -/

namespace Sys2Proof.Machine

/-- The warp whose participating lanes have taken their results, flags and all. -/
def Warp.taken (wp : Warp) (e : Env) (g : Nat) (f : Nat → LaneRes) (done : Nat) : Warp :=
  (wp.onLanes (e.on g) (fun k y => y.apply (f k))).raise done ((e.on g).foldl (fun a k => orFl a (f k).fl) 0)

theorem Warp.taken_lane (wp : Warp) (e : Env) (g : Nat) (f : Nat → LaneRes) (done k : Nat) (hk : k < wp.lanes.length) :
    nthD (wp.taken e g f done).lanes k Lane.absent =
      if k ∈ e.on g then (nthD wp.lanes k Lane.absent).apply (f k) else nthD wp.lanes k Lane.absent := by
  unfold Warp.taken
  rw [Warp.raise_lanes, Warp.onLanes_lane _ _ _ _ hk]

theorem Warp.taken_other (wp : Warp) (e : Env) (g : Nat) (f : Nat → LaneRes) (done k : Nat) (hk : k ∉ e.on g) :
    nthD (wp.taken e g f done).lanes k Lane.absent = nthD wp.lanes k Lane.absent := by
  unfold Warp.taken
  rw [Warp.raise_lanes, Warp.onLanes_other _ _ _ _ hk]

theorem Warp.taken_still (wp : Warp) (e : Env) (g : Nat) (f : Nat → LaneRes) (done : Nat) :
    { (wp.taken e g f done).still with wst := 0 } = { wp.still with wst := 0 } := by
  unfold Warp.taken Warp.raise
  split <;> rfl

/-- A lane instruction of a ready split: its warp afterwards, and everything else. -/
theorem laneOp_warp {s : State} {i : Instr} {w l : Nat} {wp : Warp} (h : Ready s i w l wp) (hi : i.kernelKind = none) (g : Nat)
    (f : Env → Nat → LaneRes) :
    ∃ t, laneOp i g f s = .next t ∧
      lookM t.dev.warps w = some ((wp.taken (s.env i w l wp) g (f (s.env i w l wp)) (s.clk.cycles + (s.env i w l wp).lat)).through wp i (s.env i w l wp)
        s.clk.cycles s.cur.stall s.cur.port) ∧
      FrameWarp s t w := by
  have he : (s.env i w l wp).w = w := rfl
  refine ⟨_, laneOp_ready h g f, ?_, ?_⟩
  · rw [through_warp, State.served, Run.tellKernel_none hi]
    simp [Run.applyLanes, Run.raise, Run.onLanes, he, h.warp, Warp.taken]
  · rw [State.served, Run.tellKernel_none hi]
    refine through_frameWarp rfl rfl (fun k hk => ?_) rfl
    simp [Run.applyLanes, Run.raise, Run.onLanes, he, lookM_modM_ne _ _ hk]

/-! ### What one lane's result changes -/

/-- A result names no register or predicate but those of a list. -/
def LaneRes.within (x : LaneRes) (ds : List Res) : Prop :=
  (∀ y ∈ x.v, Res.v y.1 ∈ ds) ∧ (∀ y ∈ x.p, y.1 < 12 → Res.p y.1 ∈ ds)

theorem Lane.setV_other (y : Lane) (d n : Nat) (x : Word) (h : n ≠ d) : lookD (y.setV d x).v n 0 = lookD y.v n 0 := by
  rw [Lane.setV_v, lookD_putD_ne _ _ _ h]

theorem Lane.setP_other (y : Lane) (d n : Nat) (b : Bool) (h : n ≠ d) : (y.setP d b).p.getLsbD n = y.p.getLsbD n := by
  unfold Lane.setP
  split
  · split
    · by_cases hn : n < 12
      · simp [BitVec.getLsbD_or, BitVec.getLsbD_shiftLeft, hn]; omega
      · simp [BitVec.getLsbD_of_ge _ _ (Nat.le_of_not_lt hn)]
    · by_cases hn : n < 12
      · simp [BitVec.getLsbD_and, BitVec.getLsbD_not, BitVec.getLsbD_shiftLeft, hn]; omega
      · simp [BitVec.getLsbD_of_ge _ _ (Nat.le_of_not_lt hn)]
  · rfl

theorem Lane.setVs_other (l : List (Nat × Word)) (y : Lane) (n : Nat) (h : ∀ e ∈ l, n ≠ e.1) :
    lookD (l.foldl (fun y e => y.setV e.1 e.2) y).v n 0 = lookD y.v n 0 := by
  induction l generalizing y with
  | nil => rfl
  | cons e l ih =>
    rw [List.foldl_cons, ih _ (fun x hx => h x (List.mem_cons_of_mem _ hx)), Lane.setV_other _ _ _ _ (h e List.mem_cons_self)]

theorem Lane.setPs_v (l : List (Nat × Bool)) (y : Lane) : (l.foldl (fun y e => y.setP e.1 e.2) y).v = y.v := by
  induction l generalizing y with
  | nil => rfl
  | cons e l ih => rw [List.foldl_cons, ih, Lane.setP_v]

theorem Lane.setVs_p (l : List (Nat × Word)) (y : Lane) : (l.foldl (fun y e => y.setV e.1 e.2) y).p = y.p := by
  induction l generalizing y with
  | nil => rfl
  | cons e l ih => rw [List.foldl_cons, ih, Lane.setV_p]

theorem Lane.setPs_other (l : List (Nat × Bool)) (y : Lane) (n : Nat) (h : ∀ e ∈ l, n ≠ e.1) :
    (l.foldl (fun y e => y.setP e.1 e.2) y).p.getLsbD n = y.p.getLsbD n := by
  induction l generalizing y with
  | nil => rfl
  | cons e l ih =>
    rw [List.foldl_cons, ih _ (fun x hx => h x (List.mem_cons_of_mem _ hx)), Lane.setP_other _ _ _ _ (h e List.mem_cons_self)]

theorem Lane.setVs_pc (l : List (Nat × Word)) (y : Lane) : (l.foldl (fun y e => y.setV e.1 e.2) y).pc = y.pc := by
  induction l generalizing y with
  | nil => rfl
  | cons e l ih => rw [List.foldl_cons, ih, Lane.setV_pc]

theorem Lane.setPs_pc (l : List (Nat × Bool)) (y : Lane) : (l.foldl (fun y e => y.setP e.1 e.2) y).pc = y.pc := by
  induction l generalizing y with
  | nil => rfl
  | cons e l ih => rw [List.foldl_cons, ih, Lane.setP_pc]

@[simp] theorem Lane.apply_pc (y : Lane) (x : LaneRes) : (y.apply x).pc = y.pc := by
  rw [Lane.apply, Lane.setPs_pc, Lane.setVs_pc]

theorem Lane.apply_v_other {y : Lane} {x : LaneRes} {ds : List Res} (h : x.within ds) {n : Nat} (hn : Res.v n ∉ ds) :
    lookD (y.apply x).v n 0 = lookD y.v n 0 := by
  rw [Lane.apply, Lane.setPs_v, Lane.setVs_other]
  intro e he hne
  exact hn (hne ▸ h.1 e he)

theorem Lane.apply_p_other {y : Lane} {x : LaneRes} {ds : List Res} (h : x.within ds) {n : Nat} (hn : Res.p n ∉ ds) :
    (y.apply x).p.getLsbD n = y.p.getLsbD n := by
  by_cases h12 : n < 12
  · rw [Lane.apply, Lane.setPs_other, Lane.setVs_p]
    intro e he hne
    exact hn (hne ▸ h.2 e he (hne ▸ h12))
  · rw [BitVec.getLsbD_of_ge _ _ (Nat.le_of_not_lt h12), BitVec.getLsbD_of_ge _ _ (Nat.le_of_not_lt h12)]

/-- The fields of a lane that no result touches. -/
theorem Lane.setV_rest (y : Lane) (n : Nat) (x : Word) : (y.setV n x).rest = y.rest := rfl

theorem Lane.setP_rest (y : Lane) (n : Nat) (b : Bool) : (y.setP n b).rest = y.rest := by
  unfold Lane.setP; split <;> rfl

@[simp] theorem Lane.apply_rest (y : Lane) (x : LaneRes) : (y.apply x).rest = y.rest := by
  have fold : ∀ {α : Type} (f : Lane → α → Lane) (_ : ∀ z a, (f z a).rest = z.rest) (q : List α) (z : Lane),
      (q.foldl f z).rest = z.rest := by
    intro α f hf q
    induction q with
    | nil => exact fun _ => rfl
    | cons a q ih => exact fun z => (ih (f z a)).trans (hf z a)
  exact (fold _ (fun z e => Lane.setP_rest z e.1 e.2) x.p _).trans (fold _ (fun z e => Lane.setV_rest z e.1 e.2) x.v y)

/-- The whole of a lane instruction whose results name its own destinations alone, none of them a register of the warp. -/
theorem laneOp_effect {s : State} {i : Instr} {w l : Nat} {wp : Warp} (h : Ready s i w l wp) (hi : i.kernelKind = none)
    (hu : ∀ x ∈ i.use.w, x.uniform = false) (g : Nat) (f : Env → Nat → LaneRes) (hf : ∀ e k, (f e k).within i.use.w) :
    ∃ t, laneOp i g f s = .next t ∧ LaneEffect s t i g w l wp ∧
      ∀ k, k ∈ (s.env i w l wp).on g → ∀ n,
        t.v w k n = lookD ((s.laneOf w k).apply (f (s.env i w l wp) k)).v n 0 ∧
        t.p w k n = (n == 15 || ((s.laneOf w k).apply (f (s.env i w l wp) k)).p.getLsbD n) := by
  obtain ⟨t, ht, hw, hfr⟩ := laneOp_warp h hi g f
  have hon : ∀ k, k ∈ (s.env i w l wp).on g → k ∈ wp.split l := fun k hk => (List.mem_filter.1 hk).1
  have hs : ∀ k, s.laneOf w k = nthD wp.lanes k Lane.absent := fun k => by simp [State.laneOf, h.warp]
  have hlen : (wp.taken (s.env i w l wp) g (f (s.env i w l wp)) (s.clk.cycles + (s.env i w l wp).lat)).lanes.length = wp.lanes.length := by
    simp [Warp.taken]
  have hout : ∀ k, k ∉ wp.split l → t.laneOf w k = s.laneOf w k := fun k hk => by
    have hn : (s.env i w l wp).uniforms i = [] := resWritten_none hu _
    simp only [State.laneOf, hw]
    rw [Warp.through_out _ _ _ _ _ _ _ _ hk, Warp.taken_other _ _ _ _ _ _ (fun x => hk (hon k x)), hn, Lane.bystand_nil]
    exact (hs k).symm
  have hin : ∀ k, k ∈ wp.split l → t.laneOf w k =
      (if k ∈ (s.env i w l wp).on g then (s.laneOf w k).apply (f (s.env i w l wp) k) else s.laneOf w k).after wp i
        (s.env i w l wp) s.clk.cycles s.cur.stall k := fun k hk => by
    simp only [State.laneOf, hw]
    rw [Warp.through_in _ _ _ _ _ _ _ _ hk (hlen ▸ Warp.split_lt hk), Warp.taken_lane _ _ _ _ _ _ (Warp.split_lt hk)]
    simp only [h.warp]
  refine ⟨t, ht, ⟨hfr, ?_, hout, ?_, ?_, ?_, ?_, ?_⟩, ?_⟩
  · intro k hk
    rw [hin k hk]
    refine ⟨?_, rfl⟩
    show nextPc _ _ = _
    split
    · rw [Lane.apply_pc]; rfl
    · rfl
  · intro k n hn
    unfold State.v
    by_cases hk : k ∈ wp.split l
    · rw [hin k hk]
      show lookD (ite _ _ _ : Lane).v n 0 = _
      split
      · exact Lane.apply_v_other (hf _ _) hn
      · rfl
    · rw [hout k hk]
  · intro k n hn
    unfold State.p
    by_cases hk : k ∈ wp.split l
    · rw [hin k hk]
      show (n == 15 || (ite _ _ _ : Lane).p.getLsbD n) = _
      split
      · rw [Lane.apply_p_other (hf _ _) hn]
      · rfl
    · rw [hout k hk]
  · intro k hk n
    have hno : k ∉ (s.env i w l wp).on g := fun hx => by
      have := (List.mem_filter.1 hx).2
      rw [hk] at this
      exact absurd this (by decide)
    unfold State.v State.p
    by_cases hkl : k ∈ wp.split l
    · rw [hin k hkl, if_neg hno]
      exact ⟨rfl, rfl⟩
    · rw [hout k hkl]
      exact ⟨rfl, rfl⟩
  · intro k
    by_cases hk : k ∈ wp.split l
    · rw [hin k hk]
      show (ite _ _ _ : Lane).rest = _
      split
      · rw [Lane.apply_rest]
      · rfl
    · rw [hout k hk]
  · refine ⟨_, hw, ?_, ?_⟩
    · rw [Warp.through_wst]
      unfold Warp.taken Warp.raise
      split
      · exact ⟨0, by omega, by rw [Warp.onLanes_wst]; simp [word]⟩
      · exact ⟨_ % 32, Nat.mod_lt _ (by omega), by rw [Warp.onLanes_wst]⟩
    · rw [Warp.through_still, Warp.taken_still]
  · intro k hk n
    unfold State.v State.p
    rw [hin k (hon k hk), if_pos hk]
    exact ⟨rfl, rfl⟩

end Sys2Proof.Machine
end

