-- ==== Sys2Proof/Laws/Uniform.lean ====
section
/-! SUPPORT. Everything that a uniform instruction of one result does when a warp issues it. -/

namespace Sys2Proof.Machine

theorem Warp.getS_setS (wp : Warp) (d n : Nat) (x : Word) :
    (wp.setS d x).getS n = if n = d ∧ d < 192 then x else wp.getS n := by
  unfold Warp.setS Warp.getS
  by_cases hd : d < 192
  · rw [if_pos hd]
    by_cases hn : n = d
    · subst hn; simp [hd]
    · simp [hn, lookD_putD_ne _ _ _ hn]
  · rw [if_neg hd, if_neg (fun h : n = d ∧ d < 192 => hd h.2)]

/-- What an instruction that a uniform result settles leaves of a lane. -/
theorem Lane.after_keeps (x wp' : Lane) (wp : Warp) (i : Instr) (e : Env) (now stall k : Nat) (h : x = wp') :
    (x.after wp i e now stall k).v = wp'.v ∧ (x.after wp i e now stall k).p = wp'.p ∧
      (x.after wp i e now stall k).rest = wp'.rest := by
  subst h; exact ⟨rfl, rfl, rfl⟩

/-- A run whose warp differs from the state's in one uniform register ends the issue of an instruction of one result. -/
theorem through_uniEffect {s : State} {i : Instr} {w l d : Nat} {wp : Warp} (h : Ready s i w l wp) (r : Run) (y : Warp)
    (hy : lookM r.dev.warps w = some y) (hl : y.lanes = wp.lanes) (hw : r.w = []) (hc : r.cur = s.cur)
    (hk : ∀ k, k ≠ w → lookM r.dev.warps k = lookM s.dev.warps k)
    (hd : { r.dev with warps := [], nonce := 0 } = { s.dev with warps := [], nonce := 0 })
    (hs : ∀ n, n ≠ d → y.getS n = wp.getS n) (he : { y.still with s := [] } = { wp.still with s := [] }) :
    UniEffect s (s.through i w l wp r) i d w l wp ∧ (s.through i w l wp r).s w d = y.getS d := by
  have hz := through_warp s i w l wp r
  rw [hy, Option.map_some] at hz
  have hlt : ∀ k, (s.through i w l wp r).laneOf w k = nthD (y.through wp i (s.env i w l wp) r.clk.cycles s.cur.stall
      r.cur.port).lanes k Lane.absent := fun k => by unfold State.laneOf; rw [hz]
  have hls : ∀ k, s.laneOf w k = nthD wp.lanes k Lane.absent := fun k => by unfold State.laneOf; rw [h.warp]
  have hout : ∀ k, k ∉ wp.split l → (s.through i w l wp r).laneOf w k = (s.laneOf w k).bystand ((s.env i w l wp).uniforms i) :=
    fun k hk => by rw [hlt, hls, Warp.through_out _ _ _ _ _ _ _ _ hk, hl]
  refine ⟨⟨through_frameWarp hw hc hk hd, through_past h r y hy (by rw [hl]) (fun k _ => by rw [hl]), ?_, ?_, ?_, ?_⟩, ?_⟩
  · intro k hk; rw [hout k hk, Lane.bystand_still]
  · intro k
    by_cases hk : k ∈ wp.split l
    · rw [hlt, hls, Warp.through_in _ _ _ _ _ _ _ _ hk (hl ▸ Warp.split_lt hk)]
      exact Lane.after_keeps _ _ _ _ _ _ _ _ (by rw [hl])
    · rw [hout k hk]; exact ⟨rfl, rfl, rfl⟩
  · intro n hn
    have := hs n hn
    unfold State.s
    rw [hz, h.warp]
    exact this
  · exact ⟨_, hz, he⟩
  · unfold State.s
    rw [hz]
    rfl

/-- The whole of a uniform instruction of one result that a warp issues. -/
theorem uniReg_effect {s : State} {i : Instr} {w l : Nat} {wp : Warp} (h : Ready s i w l wp) (hi : i.kernelKind = none)
    (g d : Nat) (f : Env → Word) :
    ∃ t, uniReg i g d f s = .next t ∧ UniEffect s t i d w l wp ∧
      ((s.env i w l wp).ug g = true → d < 192 → t.s w d = f (s.env i w l wp)) ∧
      ((s.env i w l wp).ug g = false → t.s w d = s.s w d) := by
  have hag : (s.env i w l wp).agent = .warp w l := h.agent
  have hew : (s.env i w l wp).w = w := rfl
  by_cases hg : (s.env i w l wp).ug g = true
  · have hr : (Run.of s).putS (s.env i w l wp) d (f (s.env i w l wp)) =
        (Run.of s).modWarp w (fun x => x.setS d (f (s.env i w l wp))) := by unfold Run.putS; rw [hag]; rfl
    obtain ⟨he, hv⟩ := through_uniEffect (d := d) h ((Run.of s).putS (s.env i w l wp) d (f (s.env i w l wp)))
      (wp.setS d (f (s.env i w l wp))) (by rw [hr]; simp [h.warp]) (by simp) (by rw [hr]; rfl) (by rw [hr]; rfl)
      (fun k hk => by rw [hr]; simp [lookM_modM_ne _ _ hk]) (by rw [hr]; rfl)
      (fun n hn => by rw [Warp.getS_setS, if_neg (fun q => hn q.1)]) (by unfold Warp.setS; split <;> rfl)
    refine ⟨_, ?_, he, fun _ hd => ?_, fun hn => absurd hg (by simp [hn])⟩
    · rw [uniReg, uniOp_ready h g _ hg, State.served, Run.tellKernel_none hi]; rfl
    · rw [hv, Warp.getS_setS, if_pos ⟨rfl, hd⟩]
  · obtain ⟨he, hv⟩ := through_uniEffect (d := d) h (Run.of s) wp h.warp rfl rfl rfl (fun _ _ => rfl) rfl (fun _ _ => rfl) rfl
    refine ⟨_, ?_, he, fun hn => absurd hn hg, fun _ => ?_⟩
    · rw [uniReg, uniOp, issue_ready h, State.served, Run.tellKernel_none hi]; simp only [hg]; rfl
    · rw [hv]; unfold State.s; rw [h.warp]

end Sys2Proof.Machine
end

