-- ==== Sys2Proof/Tests/Slice0.lean ====
section
/-! SUPPORT. The package's own tests: ill-formed terms, words written out from the manual's encodings, one step of an
instruction at a time, and for every statement with hypotheses a state and operands that meet them. Expected values come from
the manual's text or from hand calculation. -/

namespace Sys2Proof.Tests

-- The kernel decides one test after another: many at once would each hold a thread.
set_option Elab.async false

open Sys2Proof Sys2Proof.Machine

set_option maxRecDepth 100000

/-! ### Small states -/

/-- The test machine: one grid of one team with 4 KiB of team memory and 24 banks, and its one warp, number 2, whose 32 lanes
are live at 0x2000004 and whose first lane is the one to issue. Lane `k` holds `k` in v0, and p0 in lane 0 alone is true. -/
def lanes0 : List Lane :=
  (List.range 32).map (fun k => { Lane.start true 0x2000004 with v := if k = 0 then [] else [(0, word k)], p := if k = 0 then 1 else 0 })

def warp0 : Warp := { Warp.start probePacket 0 0 0 1 0 (fun _ => true) 0x4000000 barsDefault with lanes := lanes0 }

def pkt0 : Packet := { probePacket with banks := 24, team := 32 }

def grid0 (cont : Bool) : Grid :=
  { Grid.start pkt0 0 0 (some 0) 0 none 0 0 none with st := .running, nextTeam := 1, contKernel := some cont }

def sched0 (cont : Bool) : Sched :=
  { Dev.reset.sched with
    parts := [(0, probePart)], queues := [(qkey 0 0, probeQueue)], grids := [(0, grid0 cont)],
    teams := [(1, Team.start pkt0 0 0 [0] pkt0.tbarDefault)], nextUid := 3 }

def mach (cont : Bool) (wp : Warp) : State :=
  { State.reset with
    mem := (State.reset.mem).writes probeTables
    clk := { dtime := 1000, cycles := 100, sub := 0 }
    cur := { Issue.idle with agent := .warp 2 0 }
    dev := { Dev.reset with warps := [(2, wp)], sched := sched0 cont } }

/-- The test machine. -/
def s0 : State := mach false warp0

/-- The same with a change of its warp, of its lanes, and of the rest of the device. -/
def withW (f : Warp → Warp) : State := mach false (f warp0)
def withL (f : Lane → Lane) : State := withW (fun w => { w with lanes := w.lanes.map f })
def dv (f : Dev → Dev) (s : State) : State := { s with dev := f s.dev }

/-- Lane registers `n` of every lane. -/
def lv (l : List (Nat × Word)) : State := withL (fun y => { y with v := l })
/-- Uniform registers of the warp. -/
def us (l : List (Nat × Word)) : State := withW (fun w => { w with s := l })

/-- The warp of the test machine as a state holds it. -/
def wpOf (s : State) : Warp := (lookM s.dev.warps 2).getD warp0

def readyB (s : State) (i : Instr) : Bool :=
  match lookM s.dev.warps 2 with
  | none => false
  | some wp => decide (s.cur.agent = .warp 2 0) && !(wp.split 0).isEmpty && !wp.spilled && i.warpMode wp.mode &&
      i.legalFor wp ((Run.of s).kernelFor i wp) && !(wp.chk && underrun wp (wp.split 0) i.use) &&
      !scoreboard wp (wp.split 0) i.use && !badRegs wp (wp.split 0) i.use

theorem ready_of {s : State} {i : Instr} (h : readyB s i = true) : Ready s i 2 0 (wpOf s) := by
  unfold readyB at h
  split at h
  · cases h
  · rename_i wp hw
    have : wpOf s = wp := by simp [wpOf, hw]
    rw [this]
    simp only [Bool.and_eq_true, decide_eq_true_eq, Bool.not_eq_true', List.isEmpty_eq_false_iff] at h
    obtain ⟨⟨⟨⟨⟨⟨⟨h1, h2⟩, h3⟩, h4⟩, h5⟩, h6⟩, h7⟩, h8⟩ := h
    exact ⟨h1, hw, h2, h3, h4, h5, h6, h7, h8⟩

/-- The control core `k` of the machine is the one to issue. -/
def cc (k : Nat) : State := { s0 with cur := { Issue.idle with agent := .cc k }, dev := { s0.dev with sys := { s0.dev.sys with ccrun := 15 } } }

def readyCcB (s : State) (i : Instr) (k : Nat) : Bool :=
  decide (s.cur.agent = .cc k) && decide (k < 4) && s.dev.sys.ccrun.getLsbD k && i.ccMode ((Run.of s).cc k).mode && i.wf && i.onCc &&
    i.sysCause (some k) ((Run.of s).cc k).mode == 0

theorem ready_cc_of {s : State} {i : Instr} {k : Nat} (h : readyCcB s i k = true) : ReadyCc s i k := by
  unfold readyCcB at h
  simp only [Bool.and_eq_true, decide_eq_true_eq, beq_iff_eq] at h
  obtain ⟨⟨⟨⟨⟨⟨h1, h2⟩, h3⟩, h4⟩, h5⟩, h6⟩, h7⟩ := h
  exact ⟨h1, h2, h3, h4, h5, h6, h7⟩

/-- The state that an outcome goes on to. -/
def after (o : Host.Outcome State Fault Refusal) : State :=
  match o with
  | .next t => t
  | _ => State.reset

def goes (o : Host.Outcome State Fault Refusal) : Bool :=
  match o with
  | .next _ => true
  | _ => false

theorem next_of {o : Host.Outcome State Fault Refusal} (h : goes o = true) : o = .next (after o) := by
  cases o with
  | next t => rfl
  | fault r => cases h
  | refused r => cases h

/-- The instruction's result on the test machine. -/
def run1 (s : State) (i : Instr) : State := after (exec i s)
/-! ### Words written out from the manual's encoding tables -/

/-- The words of a row decode to its instruction. -/
def reads (e : Nat × Option Nat × Option Nat × Instr) : Bool :=
  match decode { w := e.1, x := e.2.1, l := e.2.2.1 } with
  | .ok i => decide (i = e.2.2.2)
  | .error _ => false

/-- The integer lane forms (Tables 4.6a, 5.1, 5.2; R86). -/
theorem test_words_int_1 : List.all (α := Nat × Option Nat × Option Nat × Instr)
    [(0x583FC103, some 0x016B0000, none, .iadd ⟨11, 127, 2, 3, some ⟨0, 11, false, true, false, true, true, 0⟩⟩),
      (0x78407F80, some 0x01F4FFFF, none, .isub ⟨15, 1, 127, 0, some ⟨0, 15, true, false, true, false, false, 65535⟩⟩),
      (0x7860417F, some 0x000C0000, none, .imul ⟨15, 1, 2, 127, some ⟨0, 0, false, true, true, false, false, 0⟩⟩),
      (0x7882450B, some 0xFE040000, none, .imad ⟨15, 9, 10, 11, ⟨127, 0, false, false, true, false, false, 0⟩⟩),
      (0x00A10286, some 0x00080000, none, .imin ⟨0, 4, 5, 6, some ⟨0, 0, false, true, false, false, false, 0⟩⟩),
      (0x78C10280, some 0x00108000, none, .imax ⟨15, 4, 5, 0, some ⟨0, 0, true, false, false, false, false, 32768⟩⟩),
      (0x78E04103, none, none, .and ⟨15, 1, 2, 3, none⟩),
      (0x79004100, some 0x00100007, none, .or ⟨15, 1, 2, 0, some ⟨0, 0, true, false, false, false, false, 7⟩⟩),
      (0x193020C2, none, none, .xor ⟨3, 64, 65, 66, none⟩),
      (0x79404103, some 0x08000096, none, .logt ⟨15, 1, 2, 3, some ⟨4, 0, false, false, false, false, false, 150⟩⟩),
      (0x79614307, none, none, .shl ⟨15, 5, 6, 7, none⟩),
      (0x79814300, some 0x0010001F, none, .shr ⟨15, 5, 6, 0, some ⟨0, 0, true, false, false, false, false, 31⟩⟩),
      (0x79A14307, none, none, .sar ⟨15, 5, 6, 7, none⟩),
      (0x79C14307, some 0x10040000, none, .shf ⟨15, 5, 6, 7, some ⟨8, 0, false, false, true, false, false, 0⟩⟩),
      (0x79E14300, some 0x00180804, none, .bfe ⟨15, 5, 6, 0, some ⟨0, 0, true, true, false, false, false, 2052⟩⟩),
      (0x7A014307, some 0x12000000, none, .bfi ⟨15, 5, 6, 7, some ⟨9, 0, false, false, false, false, false, 0⟩⟩)] reads = true := by decide +kernel

/-- The integer lane forms (Tables 4.6a, 5.1, 5.2; R86). -/
theorem test_words_int_2 : List.all (α := Nat × Option Nat × Option Nat × Instr)
    [(0x7A20C200, none, none, .popc ⟨15, 3, 4, none⟩),
      (0x7A20C201, none, none, .clz ⟨15, 3, 4, none⟩),
      (0x7A20C202, none, none, .ctz ⟨15, 3, 4, none⟩),
      (0x7A20C203, none, none, .brev ⟨15, 3, 4, none⟩),
      (0x7A20C200, some 0x00480000, none, .iabs ⟨15, 3, 4, some true⟩),
      (0x7A20C205, none, none, .ineg ⟨15, 3, 4, none⟩)] reads = true := by decide +kernel

/-- The predicate and move forms (R87 to R93). -/
theorem test_words_pred : List.all (α := Nat × Option Nat × Option Nat × Instr)
    [(0x7A4AC409, some 0x152C0000, none, .isetp ⟨15, 2, 11, 8, 9, some ⟨10, 9, 2, false, true, 0⟩⟩),
      (0x7A540409, none, none, .isetp ⟨15, 5, 0, 8, 9, none⟩),
      (0x7A61430B, none, none, .sel ⟨15, 5, 6, 11, none⟩),
      (0x7A614307, some 0x00600000, none, .sel ⟨15, 5, 6, 7, some ⟨0, 3, false, false, false, false, false, 0⟩⟩),
      (0x7A810300, some 0x00010000, none, .mov ⟨15, 4, 6, some true⟩),
      (0x7AA13FFE, none, none, .movi 15 4 16382 false),
      (0x7AA10000, some 0xDEADBEEF, none, .movi 15 4 0xDEADBEEF true),
      (0x7AC100BF, none, none, .movu 15 4 191 none),
      (0x7AC10006, some 0x00010000, none, .movu 15 4 6 (some true)),
      (0x7AE11100, none, none, .spr 15 4 0x22),
      (0x7B00CA55, none, none, .pset ⟨15, 3, 4, true, 5, true, 2, none⟩),
      (0x7B00C225, some 0x2C040000, none, .pset ⟨15, 3, 4, false, 5, false, 1, some (6, true, 2)⟩),
      (0x7B21C000, some 0x00000FFF, none, .p2v 15 7 (some 0xFFF)),
      (0x7B200381, none, none, .v2p 15 7 none)] reads = true := by decide +kernel

/-- The cross-lane forms (R95 to R98). -/
theorem test_words_cross : List.all (α := Nat × Option Nat × Option Nat × Instr)
    [(0x7B410280, some 0x0029001F, none, .shfl ⟨15, 4, 5, 0, some ⟨2, true, 2, 31⟩⟩),
      (0x7B610983, none, none, .vote ⟨15, 3, 4, 3, true, none⟩),
      (0x7B610180, some 0x00150000, none, .vote ⟨15, 1, 4, 3, false, some (5, 0)⟩),
      (0x7B610180, some 0x0030BF00, none, .vote ⟨15, 3, 4, 3, false, some (0, 191)⟩),
      (0x7B810280, some 0x008CFF00, none, .redw ⟨15, 4, 5, 8, some (3, 255)⟩),
      (0x7B81028A, none, none, .redw ⟨15, 4, 5, 10, none⟩),
      (0x7BA10300, some 0x0011B000, none, .matchw ⟨15, 4, 6, true, some (true, 11)⟩),
      (0x7BA10380, none, none, .matchw ⟨15, 4, 7, false, none⟩)] reads = true := by decide +kernel

/-- The floating-point forms (Table 6.1, R108 to R115). -/
theorem test_words_float_1 : List.all (α := Nat × Option Nat × Option Nat × Instr)
    [(0x7BC04103, some 0x01B00000, none, .fadd ⟨15, 1, 2, 3, some ⟨0, 3, 1, 2, 0, false, 0, 0, 0, false, false, 0⟩⟩),
      (0x7BE04100, some 0x00013FC0, none, .fmul ⟨15, 1, 2, 0, some ⟨0, 0, 0, 0, 0, true, 16320, 0, 0, false, false, 0⟩⟩),
      (0x7C004103, some 0x08EC0000, none, .ffma ⟨15, 1, 2, 3, some ⟨4, 1, 3, 1, 2, false, 0, 0, 0, false, false, 0⟩⟩),
      (0x7C004103, none, none, .ffma ⟨15, 1, 2, 3, none⟩),
      (0x7C208206, some 0x00000040, none, .fmin ⟨15, 2, 4, 6, some ⟨0, 0, 0, 0, 0, false, 0, 0, 0, false, false, 1⟩⟩),
      (0x7C404103, some 0x00100000, none, .fmax ⟨15, 1, 2, 3, some ⟨0, 0, 0, 2, 0, false, 0, 0, 0, false, false, 0⟩⟩),
      (0x7C7CC409, some 0x0A0048C0, none, .fsetp ⟨15, 7, 3, 8, 9, some ⟨5, 0, 0, 0, 0, false, 0, 4, 2, false, false, 3⟩⟩),
      (0x7C68C409, none, none, .fsetp ⟨15, 2, 3, 8, 9, none⟩),
      (0x7C804106, none, none, .func ⟨15, 1, 2, 6, none⟩),
      (0x7C804100, some 0x003C0000, none, .func ⟨15, 1, 2, 3, some (true, 2)⟩),
      (0x7CA04103, some 0x0A000000, none, .flerp ⟨15, 1, 2, 3, some ⟨5, false, 0⟩⟩),
      (0x7CC04103, some 0x01000100, none, .pkadd ⟨15, 1, 2, 3, some ⟨0, 2, 0, 0, 0, false, 0, 0, 0, false, true, 0⟩⟩),
      (0x7CE04103, some 0x00200000, none, .pkmul ⟨15, 1, 2, 3, some ⟨0, 0, 1, 0, 0, false, 0, 0, 0, false, false, 0⟩⟩),
      (0x7D004103, some 0x08020000, none, .pkfma ⟨15, 1, 2, 3, some ⟨4, 0, 0, 0, 1, false, 0, 0, 0, false, false, 0⟩⟩),
      (0x7D204103, some 0x00000200, none, .pkmnmx ⟨15, 1, 2, 3, some ⟨0, 0, 0, 0, 0, false, 0, 0, 0, true, false, 0⟩⟩),
      (0x7D408206, some 0x00800000, none, .dadd ⟨15, 2, 4, 6, some ⟨0, 1, 0, 0, 0, false, 0, 0, 0, false, false, 0⟩⟩)] reads = true := by decide +kernel

/-- The floating-point forms (Table 6.1, R108 to R115). -/
theorem test_words_float_2 : List.all (α := Nat × Option Nat × Option Nat × Instr)
    [(0x7D608206, none, none, .dmul ⟨15, 2, 4, 6, none⟩),
      (0x7D808206, some 0x10020000, none, .dfma ⟨15, 2, 4, 6, some ⟨8, 0, 0, 0, 1, false, 0, 0, 0, false, false, 0⟩⟩),
      (0x7DA50200, some 0x0013F030, none, .cvt 15 20 4 (.lx ⟨1, 7, 3, true, false, 0, 0, 1, true⟩)),
      (0x7DA50207, none, none, .cvt 15 20 4 (.lr 7)),
      (0x7DC08200, none, none, .plnp 15 2 4 false),
      (0x7DC08200, some 0x00188000, none, .plnu 15 2 4 (some (8, true))),
      (0x7DE04103, some 0x00019876, none, .bysel ⟨15, 1, 2, 3, some ⟨0, true, 0x9876⟩⟩)] reads = true := by decide +kernel

/-- The memory forms (Tables 7.4 to 7.8 and the words of Table 7.5). -/
theorem test_words_mem_1 : List.all (α := Nat × Option Nat × Option Nat × Instr)
    [(0x7E010100, some 0x00114010, none, .ld ⟨15, 4, 2, .global, 4, 1, 2, 0, false, false, 16, 0, 0, false⟩),
      (0x7E214380, some 0x00300000, none, .st ⟨15, 5, 7, .priv, 4, 0, 0, 0, false, false, 0, 0, 0, false⟩),
      (0x7E018012, some 0x09700040, none, .ld ⟨15, 6, 0, .quire, 4, 0, 0, 0, false, false, 64, 2, 9, true⟩),
      (0x7E604104, some 0x00000000, none, .atom ⟨15, 1, 2, 4, 0, 0, false, 0, 0, 0, 0⟩),
      (0x7EC00000, some 0x00024000, none, .fenceRel 15 2),
      (0x7E01017F, some 0x00199FFF, none, .ld ⟨15, 4, 2, .global, 6, 1, 4, 3, true, true, -1, 0, 0, false⟩),
      (0x7E2101C0, some 0x00562000, none, .st ⟨15, 4, 3, .team, 5, 2, 1, 0, false, false, -32768, 0, 0, false⟩),
      (0x7E404105, some 0x00080B00, none, .ldp ⟨15, 1, 2, 5, .global, 2, 1, false, true, -256, 0, 0, false⟩),
      (0x7E404005, some 0x097F6000, none, .ldp ⟨15, 1, 0, 5, .quire, 7, 0, false, false, 0, 11, 9, true⟩),
      (0x7E800184, some 0x00966405, none, .red ⟨15, 0, 3, 4, 0, 9, true, 4, 3, 1, 5⟩),
      (0x7EA10108, some 0x18200000, none, .cas ⟨15, 4, 2, 8, 12, 2, false, 0, 0, 0, 0⟩),
      (0x7EC00000, some 0x00018000, none, .fenceAcq 15 4),
      (0x7EC00000, some 0x00032000, none, .fenceAr 15 1),
      (0x7EC00000, some 0x000B6000, none, .fenceSc 15 3),
      (0x7EE00101, some 0x00001001, none, .cctlPf ⟨15, 2, false, 2, 513⟩),
      (0x7EE00100, some 0x00100000, none, .cctlPf2 ⟨15, 2, false, 0, 0⟩)] reads = true := by decide +kernel

/-- The memory forms (Tables 7.4 to 7.8 and the words of Table 7.5). -/
theorem test_words_mem_2 : List.all (α := Nat × Option Nat × Option Nat × Instr)
    [(0x7EE00100, some 0x00200000, none, .cctlInv ⟨15, 2, false, 0, 0⟩),
      (0x7EE00180, some 0x00340000, none, .cctlWb ⟨15, 3, true, 0, 0⟩),
      (0x7EE00100, some 0x00400000, none, .cctlInvall ⟨15, 2, false, 0, 0⟩)] reads = true := by decide +kernel

/-- The lane control forms (Table 9.1 and the words of Table 9.2). -/
theorem test_words_ctl : List.all (α := Nat × Option Nat × Option Nat × Instr)
    [(0x7F1FFFFB, none, none, .bra 15 (-5)),
      (0x7F200300, none, none, .brx 15 6 none),
      (0x7F200300, some 0x00001234, none, .brx 15 6 (some 0x1234)),
      (0x7F45000C, none, none, .call 15 20 12),
      (0x7F6040BF, none, none, .rjn 15 1 (.reg 191)),
      (0x7F63C000, some 0x000000FF, none, .rjn 15 15 (.lit 0xFF)),
      (0x17808000, none, none, .exit 2 2),
      (0x7F98C001, none, none, .trap 15 99),
      (0x7F800002, none, none, .bkpt 15)] reads = true := by decide +kernel

/-- The texture, continuation, compositing and media lane forms (R230, R237, R249, R250, Table 15.2, R266, R274, R276). -/
theorem test_words_unit : List.all (α := Nat × Option Nat × Option Nat × Instr)
    [(0x7FA10008, some 0x00000000, none, .sample 15 4 0 8),
      (0x7FA10008, some 0x00100000, none, .txf 15 4 0 8),
      (0x7FC30008, some 0x00000002, none, .trace 15 12 0 8 2),
      (0x7FC30008, some 0x181B8002, none, .march 15 12 0 8 12 true false 7 2),
      (0x7FC30008, some 0x20147FFF, none, .march 15 12 0 8 16 false true 0 (-1)),
      (0x7FC10000, some 0x00200002, none, .susp 15 4 2),
      (0x7FC20004, some 0x00300002, none, .samplec 15 8 0 4 2),
      (0x7FE04205, some 0x0C000000, none, .cadd 15 1 4 5 6),
      (0x7FE10005, some 0x00100000, none, .crd 15 4 5),
      (0x7FE10005, some 0x00180000, none, .crdCnt 15 4 5),
      (0x7FE20805, some 0x00200000, none, .crpl 15 8 16 5),
      (0x7FE0C006, some 0x00300000, none, .rnd 15 3 0 6 false),
      (0x7FE20080, some 0x00490000, none, .srd 15 8 1 true 2 0),
      (0x7FE00401, some 0x00502000, none, .swr 15 8 1 false 1),
      (0x7FE10086, none, none, .tnow 15 4 1)] reads = true := by decide +kernel

/-- The uniform forms (Tables 4.6b, 4.7, 5.4). -/
theorem test_words_uni_1 : List.all (α := Nat × Option Nat × Option Nat × Instr)
    [(0x80BF01FF, none, none, .uadd ⟨0, 191, 1, 255, none⟩),
      (0x91BF02FF, none, none, .usub ⟨1, 191, 2, 255, none⟩),
      (0xA2BF03FF, none, none, .umul ⟨2, 191, 3, 255, none⟩),
      (0xB3BF04FF, none, none, .uand ⟨3, 191, 4, 255, none⟩),
      (0xC4BF05FF, none, none, .uor ⟨4, 191, 5, 255, none⟩),
      (0xD5BF06FF, none, none, .uxor ⟨5, 191, 6, 255, none⟩),
      (0xE6BF07FF, none, none, .ushl ⟨6, 191, 7, 255, none⟩),
      (0xF7BF08FF, none, none, .ushr ⟨7, 191, 8, 255, none⟩),
      (0x88BF09FF, none, none, .usar ⟨0, 191, 9, 255, none⟩),
      (0x99BF0AFF, none, none, .umin ⟨1, 191, 10, 255, none⟩),
      (0xAABF0BFF, none, none, .umax ⟨2, 191, 11, 255, none⟩),
      (0xBBBF0CFF, none, none, .uminu ⟨3, 191, 12, 255, none⟩),
      (0xCCBF0DFF, none, none, .umaxu ⟨4, 191, 13, 255, none⟩),
      (0xFD070000, some 0xFFFFFFFF, none, .umov ⟨7, 7, 0, 0, some 0xFFFFFFFF⟩),
      (0xFEFFFFFD, none, none, .ubra 7 (-3)),
      (0xFF080000, some 0x00010000, none, .umovi 7 8 0x10000 false)] reads = true := by decide +kernel

/-- The uniform forms (Tables 4.6b, 4.7, 5.4). -/
theorem test_words_uni_2 : List.all (α := Nat × Option Nat × Option Nat × Instr)
    [(0xFF080000, some 0x00800000, some 0x80000000, .umovi 7 8 0x80000000 true),
      (0xFF030405, some 0x014A4000, none, .usetp ⟨7, 3, 4, 5, 4, true, 2, 1, none⟩),
      (0xFF070A03, some 0x02000002, none, .upset ⟨7, 7, 2, true, 3, false, 2⟩),
      (0xFF030400, some 0x03800006, some 0x00000009, .usel ⟨7, 3, 4, 0, some 9⟩ 6),
      (0xFF030405, some 0x04000001, none, .ubfe ⟨7, 3, 4, 5, none⟩ true),
      (0xFF030400, some 0x0500000D, none, .ubit 7 3 4 5 true),
      (0xFF030405, some 0x06000000, none, .umulh ⟨7, 3, 4, 5, none⟩ false),
      (0xFF030000, some 0x09000015, none, .usprRead 7 3 0x15),
      (0xFFFF0400, some 0x090000A0, none, .usprWrite 7 4 0x20),
      (0xFF037F00, some 0x0D00001F, none, .ureadl 7 3 127 31 false),
      (0xFF037F00, some 0x0D000020, none, .ureadl 7 3 127 0 true)] reads = true := by decide +kernel

/-- The uniform memory, control and barrier forms (R141, Tables 9.3, 9.5, R168, R294, R267, R40). -/
theorem test_words_ux : List.all (α := Nat × Option Nat × Option Nat × Instr)
    [(0xFF040600, some 0x0715FFFF, none, .uld ⟨7, 4, 6, false, 2, true, 3, -1, false⟩),
      (0xFF04FF00, some 0x08800000, some 0x00010000, .ust ⟨7, 4, 255, false, 0, false, 0, 65536, true⟩),
      (0xFF140000, some 0x0A000009, none, .ucall 7 20 9),
      (0xFF000500, some 0x0B000000, none, .uret 7 5),
      (0xFF000506, some 0x0C000064, none, .ujmpx 7 5 6 100),
      (0xFF000000, some 0x10080003, none, .barSync ⟨7, 1, 3⟩),
      (0xFF000000, some 0x10300002, none, .barArrive ⟨7, 2, 2⟩),
      (0xFF060A00, some 0x12000000, none, .tsleep 7 6 10),
      (0xFF040A00, some 0x11000000, none, .tbar 7 4 10 0),
      (0xFF060000, some 0x13000001, none, .utime 7 6 1),
      (0xFF040A00, some 0x14000000, none, .launch 7 4 10)] reads = true := by decide +kernel

/-- The quire and matrix forms (Tables 12.3, 13.3 and the words of Table 13.6). -/
theorem test_words_mat_1 : List.all (α := Nat × Option Nat × Option Nat × Instr)
    [(0xFF080400, some 0x18000000, none, .qbind 7 8 4 false 0),
      (0xFF090000, some 0x19000001, none, .sego ⟨7, 9, 0, 0⟩ true),
      (0xFFFF0900, some 0x1A000002, none, .qwait 7 255 9 2),
      (0xFFFF0A00, some 0x1B000000, none, .qrel 7 255 10 0),
      (0xFF030000, some 0x1C000041, none, .qstat 7 3 4 1),
      (0xFF050900, some 0x1D000000, none, .secan 7 5 9),
      (0xFF0E0000, some 0x20000001, none, .mclaim 7 14 false 1),
      (0xFF0F0000, some 0x20000101, none, .mclaim 7 15 true 1),
      (0xFF030400, some 0x21000020, none, .mrel 7 3 4 false 32),
      (0xFF000E14, some 0x2200FC00, none, .mlds 7 14 20 4096 4096),
      (0xFF000E14, some 0x2241F800, none, .mldsQ 7 14 20 0 8192 0),
      (0xFF000E0F, some 0x23000045, none, .mwld 7 14 15 4 5),
      (0xFF001800, some 0x24000000, none, .mma 7 24),
      (0xFF000E00, some 0x25001032, none, .mhad 7 14 (-16) 3 2),
      (0xFF001011, some 0x26000600, none, .maccSt 7 16 17 4 0),
      (0xFF001011, some 0x2600FF02, none, .maccLd 7 16 17 128 2)] reads = true := by decide +kernel

/-- The quire and matrix forms (Tables 12.3, 13.3 and the words of Table 13.6). -/
theorem test_words_mat_2 : List.all (α := Nat × Option Nat × Option Nat × Instr)
    [(0xFF001000, some 0x27000000, none, .mzero 7 16),
      (0xFF121000, some 0x28000000, none, .mwait 7 18 16)] reads = true := by decide +kernel

/-- The compositing bank, media, collective and system forms (R254, R258, R240, R273, R278, Tables 19.4, 20.7). -/
theorem test_words_sys_1 : List.all (α := Nat × Option Nat × Option Nat × Instr)
    [(0xFF080400, some 0x30000401, none, .cbind 7 8 4 true 4),
      (0xFF080400, some 0x30000002, none, .cbindUnb 7 8 4),
      (0xFF090400, some 0x31000000, none, .cflush 7 9 4),
      (0xFF040A0C, some 0x32000001, none, .trisub ⟨7, 4, 10, 12⟩ 2),
      (0xFF030800, some 0x38000000, none, .mbindRx 7 3 8 0),
      (0xFF030C00, some 0x3800000D, none, .mbindOut 7 3 12 1 (some 0)),
      (0xFF040A00, some 0x39000001, none, .frpub 7 4 10 1),
      (0xFF050800, some 0x40000000, none, .cstart 7 5 8),
      (0xFF060805, some 0x41000000, none, .cwait ⟨7, 6, 8, 5⟩),
      (0xFF070800, some 0x42000001, none, .cstat 7 7 8 1),
      (0xFF040000, some 0x80000001, none, .mfsr 7 4 false 1),
      (0xFF000600, some 0x81001002, none, .mtsr 7 6 true 2),
      (0xFF000000, some 0x82000000, none, .eret 7),
      (0xFF00080A, some 0x83000008, none, .tlbiPage 7 8 10 2),
      (0xFF000000, some 0x8300001D, none, .tlbiPart 7 7),
      (0xFF000000, some 0x83000002, none, .tlbiAll 7 0)] reads = true := by decide +kernel

/-- The compositing bank, media, collective and system forms (R254, R258, R240, R273, R278, Tables 19.4, 20.7). -/
theorem test_words_sys_2 : List.all (α := Nat × Option Nat × Option Nat × Instr)
    [(0xFF000000, some 0x8400000C, none, .cinvIcache 7 3),
      (0xFF000000, some 0x8400000D, none, .cinvCcache 7 3),
      (0xFF000000, some 0x84000002, none, .cinvL1 7 0),
      (0xFF000000, some 0x85000000, none, .wfi 7),
      (0xFF000300, some 0x86000000, none, .hirq 7 3 0),
      (0xFF040800, some 0x87000003, none, .ecall 7 4 8 3),
      (0xFF000000, some 0x88000000, none, .halt 7)] reads = true := by decide +kernel

/-- A command's word is opcode times 2^58 plus its fields (Table 12.6). -/
theorem test_commands : List.all (α := Nat × Instr)
    [(0x0000000000000000, .streamNop),
      (0x060123456789ABCD, .base true 0x123456789ABCD),
      (0x0800000400000080, .dim 0 4 128),
      (0x0BFFFFFF80000000, .dim 3 0xFFFFFF (-2147483648)),
      (0x0E00000004FFFFFF, .tile 65536 4 (-1)),
      (0x13D0002000000000, .push 15 0x8001),
      (0x14C0004000000000, .pull 3 2),
      (0x18C0004000000000, .gath 3 2),
      (0x1D40000000000000, .conv 5),
      (0x2200000000000000, .loop 2),
      (0x2700000000000000, .next 3),
      (0x280FFFFFFFFFFFF8, .sig 0xFFFFFFFFFFFF8),
      (0x2C00000000000000, .stop)]
    (fun e => match decodeCommand e.1 with
      | .ok i => decide (i = e.2)
      | .error _ => false) = true := by decide +kernel

/-- Words that are no instruction are rejected by name: the all-zero word, IMAD without X, BRA with X, the unassigned sub-major 0x0E,
L on UPSET, a reserved bit of MOV's extension, predicate field 12 and stream opcode 0x0C. -/
theorem test_rejects :
    (match decode ⟨0, none, none⟩ with | .error .noMajor => true | _ => false) = true ∧
    (match decode ⟨0x78800000, none, none⟩ with | .error .needsX => true | _ => false) = true ∧
    (match decode ⟨0x7F1FFFFB, some 0, none⟩ with | .error .takesNoX => true | _ => false) = true ∧
    (match decode ⟨0xFF000000, some 0x0E000000, none⟩ with | .error .subOp => true | _ => false) = true ∧
    (match decode ⟨0xFF070203, some 0x02800002, some 0⟩ with | .error .takesNoL => true | _ => false) = true ∧
    (match decode ⟨0x7A810300, some 0x00010001, none⟩ with | .error .reserved => true | _ => false) = true ∧
    (match decode ⟨0x60200104, none, none⟩ with | .error .field => true | _ => false) = true ∧
    (match decodeCommand (0x0C * 2 ^ 58) with | .error .badCommand => true | _ => false) = true := by decide +kernel

/-! ### Ill-formed terms, one for each check -/

def bad (is : List Instr) : Bool := is.all (fun i => !i.wf)

def ie0 : IExt := ⟨0, 0, false, false, false, false, false, 0⟩
def fe0 : FExt := ⟨0, 0, 0, 0, 0, false, 0, 0, 0, false, false, 0⟩
def cv0 : CvtExt := ⟨0, 6, 0, false, false, 0, 0, 0, false⟩

/-- Guards, registers and the fields that a major does not use (R61, R62, Table 5.2, R86 to R98). -/
theorem test_wf_lane : bad
    [.iadd ⟨12, 0, 0, 0, none⟩, .iadd ⟨15, 128, 0, 0, none⟩, .iadd ⟨15, 0, 128, 0, none⟩, .iadd ⟨15, 0, 0, 128, none⟩,
      .iadd ⟨15, 0, 0, 0, some { ie0 with c := 1 }⟩, .iadd ⟨15, 0, 0, 0, some { ie0 with q := 12 }⟩,
      .iadd ⟨15, 0, 0, 0, some { ie0 with m := true, ci := true }⟩, .iadd ⟨15, 0, 0, 1, some { ie0 with k := true }⟩,
      .iadd ⟨15, 0, 0, 0, some { ie0 with k := true, imm := 65536 }⟩, .iadd ⟨15, 0, 0, 0, some { ie0 with imm := 1 }⟩,
      .imul ⟨15, 0, 0, 0, some { ie0 with co := true }⟩, .imul ⟨15, 0, 0, 0, some { ie0 with q := 1 }⟩,
      .and ⟨15, 0, 0, 0, some { ie0 with u := true }⟩, .shl ⟨15, 0, 0, 0, some { ie0 with m := true }⟩,
      .logt ⟨15, 0, 0, 0, some { ie0 with k := true }⟩, .logt ⟨15, 0, 0, 0, some { ie0 with imm := 256 }⟩,
      .imad ⟨15, 0, 0, 0, { ie0 with c := 128 }⟩, .popc ⟨15, 0, 0, some true⟩, .sel ⟨15, 0, 0, 12, none⟩] = true := by
  decide +kernel

theorem test_wf_predicates : bad
    [.isetp ⟨15, 6, 0, 0, 0, none⟩, .isetp ⟨15, 0, 12, 0, 0, none⟩, .isetp ⟨15, 0, 3, 0, 0, some ⟨15, 3, 0, false, false, 0⟩⟩,
      .isetp ⟨15, 0, 3, 0, 0, some ⟨15, 4, 3, false, false, 0⟩⟩, .isetp ⟨15, 0, 3, 0, 0, some ⟨12, 4, 0, false, false, 0⟩⟩,
      .isetp ⟨15, 0, 3, 0, 1, some ⟨15, 4, 0, true, false, 0⟩⟩, .isetp ⟨15, 0, 3, 0, 0, some ⟨15, 4, 0, false, false, 1⟩⟩,
      .pset ⟨15, 0, 0, false, 0, false, 3, none⟩, .pset ⟨15, 0, 12, false, 0, false, 0, none⟩,
      .pset ⟨15, 0, 0, false, 0, false, 0, some (0, false, 3)⟩, .mov ⟨15, 1, 0, some true⟩, .movi 15 0 16384 false,
      .movi 15 0 4294967296 true, .movu 15 0 192 none, .movu 15 1 0 (some true), .spr 15 0 0x19, .p2v 15 0 (some 4096),
      .v2p 15 0 (some 4096), .shfl ⟨15, 0, 0, 0, some ⟨4, false, 15, 0⟩⟩, .shfl ⟨15, 0, 0, 0, some ⟨0, true, 15, 32⟩⟩,
      .shfl ⟨15, 0, 0, 0, some ⟨0, false, 12, 0⟩⟩, .vote ⟨15, 4, 0, 0, false, none⟩, .vote ⟨15, 0, 12, 0, false, none⟩,
      .vote ⟨15, 0, 0, 0, false, some (8, 0)⟩, .vote ⟨15, 3, 0, 0, false, some (0, 192)⟩, .redw ⟨15, 0, 0, 11, none⟩,
      .redw ⟨15, 0, 0, 0, some (1, 255)⟩, .redw ⟨15, 0, 0, 8, some (0, 192)⟩, .matchw ⟨15, 0, 0, false, some (false, 3)⟩,
      .matchw ⟨15, 0, 1, true, some (true, 15)⟩] = true := by decide +kernel

/-- Table 6.2's fields, alignment of pairs, FUNC, CVT and the plane forms (R107 to R115). -/
theorem test_wf_float : bad
    [.fadd ⟨15, 0, 0, 0, some { fe0 with c := 1 }⟩, .fadd ⟨15, 0, 0, 0, some { fe0 with bf := true }⟩,
      .fadd ⟨15, 0, 0, 0, some { fe0 with q := 1 }⟩, .fadd ⟨15, 0, 0, 0, some { fe0 with rm := 4 }⟩,
      .fadd ⟨15, 0, 0, 0, some { fe0 with imm := 1 }⟩, .fadd ⟨15, 0, 0, 1, some { fe0 with k := true }⟩,
      .fmin ⟨15, 0, 0, 0, some { fe0 with rm := 1 }⟩, .fmin ⟨15, 0, 0, 0, some { fe0 with ft := 2 }⟩,
      .fmin ⟨15, 1, 0, 0, some { fe0 with ft := 1 }⟩, .pkadd ⟨15, 0, 0, 0, some { fe0 with k := true }⟩,
      .pkadd ⟨15, 0, 0, 0, some { fe0 with u := true }⟩, .dadd ⟨15, 1, 0, 0, none⟩, .dadd ⟨15, 0, 0, 3, none⟩,
      .dfma ⟨15, 0, 0, 0, some { fe0 with c := 1 }⟩, .fsetp ⟨15, 8, 0, 0, 0, none⟩, .fsetp ⟨15, 6, 0, 0, 0, some { fe0 with u := true, q := 1 }⟩,
      .fsetp ⟨15, 0, 3, 0, 0, some { fe0 with q := 3 }⟩, .fsetp ⟨15, 0, 3, 0, 0, some { fe0 with q := 4, cb := 3 }⟩,
      .fsetp ⟨15, 0, 3, 1, 0, some { fe0 with q := 4, ft := 1 }⟩, .func ⟨15, 0, 0, 7, none⟩, .func ⟨15, 0, 0, 0, some (false, 4)⟩,
      .flerp ⟨15, 0, 0, 0, some ⟨1, true, 0⟩⟩, .bysel ⟨15, 0, 0, 0, some ⟨0, false, 1⟩⟩, .cvt 15 0 0 (.lr 8),
      .cvt 15 0 0 (.lx { cv0 with df := 18 }), .cvt 15 0 0 (.lx { cv0 with sp := 1 }), .cvt 15 0 0 (.lx { cv0 with ri := true }),
      .cvt 15 0 0 (.lx { cv0 with so := 1 }), .cvt 15 0 1 (.lx { cv0 with sf := 5 }), .plnp 15 1 0 false, .plnp 15 0 3 false,
      .plnu 15 0 0 (some (9, false)), .plnu 15 0 0 (some (1, false))] = true := by decide +kernel

def m0 : MemOp := ⟨15, 0, 0, .global, 4, 0, 0, 0, false, false, 0, 0, 0, false⟩
def a0 : AtomOp := ⟨15, 0, 0, 0, 0, 0, false, 0, 0, 0, 0⟩

/-- Tables 7.4 to 7.8, Table 9.1 and the lane forms of chapters 14, 15 and 17. -/
theorem test_wf_memory : bad
    [.ld { m0 with ty := 7 }, .ld { m0 with a := 1 }, .ld { m0 with ty := 5, d := 1 }, .ld { m0 with ord := 2 },
      .ld { m0 with scope := 1 }, .ld { m0 with ord := 1, scope := 5 }, .ld { m0 with off := 32768 }, .ld { m0 with sk := 1 },
      .ld { m0 with space := .team, rd := 1 }, .ld { m0 with space := .priv, poll := true },
      .ld { m0 with space := .quire, off := 256 }, .ld { m0 with space := .quire, sk := 192 },
      .ld { m0 with space := .quire, a := 1, nr := true }, .st { m0 with ord := 1 }, .st { m0 with ty := 1 }, .st { m0 with poll := true },
      .ldp ⟨15, 0, 0, 0, .priv, 1, 0, false, false, 0, 0, 0, false⟩, .ldp ⟨15, 0, 0, 0, .team, 0, 0, false, false, 0, 0, 0, false⟩,
      .ldp ⟨15, 0, 0, 0, .quire, 1, 0, true, false, 0, 0, 0, false⟩, .atom { a0 with op := 9 }, .atom { a0 with op := 3, ty := 1 },
      .atom { a0 with c := 1 }, .atom { a0 with ty := 2, d := 1 }, .red { a0 with d := 1 }, .cas { a0 with op := 3 },
      .cas { a0 with op := 2, c := 2 }, .fenceAcq 15 5, .fenceRel 15 5, .fenceAr 15 5, .fenceSc 15 5,
      .cctlPf ⟨15, 0, false, 3, 0⟩, .cctlInv ⟨15, 0, false, 1, 0⟩, .cctlWb ⟨15, 1, false, 0, 0⟩, .bra 15 1048576, .brx 15 128 none,
      .call 15 0 8192, .rjn 15 12 (.lit 0), .rjn 15 0 (.reg 192), .exit 15 0, .exit 15 5, .trap 15 128, .bkpt 13,
      .sample 15 2 0 0, .txf 15 0 0 1, .trace 15 0 4 0 0, .march 15 0 0 0 2 false false 0 0, .march 15 0 0 0 0 false false 8 0,
      .susp 15 0 16384, .samplec 15 128 0 0 0, .cadd 15 0 2 0 0, .crd 15 2 0, .crdCnt 15 0 128, .crpl 15 4 0 0, .rnd 15 0 1 0 false,
      .srd 15 2 0 false 0 0, .srd 15 0 0 false 0 4, .swr 15 2 0 false 0, .tnow 15 1 0, .tnow 15 0 2] = true := by decide +kernel

def u0 : UOp := ⟨7, 0, 0, 0, none⟩
def um0 : UMemOp := ⟨7, 0, 0, false, 0, false, 0, 0, false⟩

theorem test_wf_uniform : bad
    [.uadd { u0 with g := 8 }, .uadd { u0 with d := 192 }, .uadd { u0 with a := 254 }, .uadd { u0 with b := 1, lit := some 0 },
      .uadd { u0 with lit := some 4294967296 }, .umov { u0 with a := 1 }, .ubra 7 8388608, .umovi 7 0 8388608 false,
      .usetp ⟨7, 8, 0, 0, 0, false, 0, 0, none⟩, .usetp ⟨7, 0, 0, 0, 6, false, 0, 0, none⟩, .usetp ⟨7, 0, 0, 0, 0, false, 0, 3, none⟩,
      .upset ⟨7, 0, 8, false, 0, false, 0⟩, .upset ⟨7, 0, 0, false, 0, false, 3⟩, .usel u0 8, .ubit 7 0 0 6 false, .ubit 7 0 0 3 true,
      .usprRead 7 0 0x19, .usprWrite 7 0 0x21, .ureadl 7 0 0 32 false, .ureadl 7 0 0 1 true, .uld { um0 with width := 3 },
      .uld { um0 with a := 1 }, .uld { um0 with cst := true, ord := true }, .uld { um0 with scope := 1 }, .uld { um0 with width := 1, d := 1 },
      .uld { um0 with off := 16384 }, .ust { um0 with cst := true }, .ucall 7 0 4194304, .uret 7 192, .ujmpx 7 0 0 8388608,
      .barSync ⟨7, 3, 0⟩, .barArrive ⟨7, 0, 16⟩, .tsleep 7 0 1, .tbar 7 0 0 4, .utime 7 0 3, .utime 7 1 0, .launch 7 0 1,
      .qbind 7 0 2 false 0, .qbind 7 0 0 false 16, .sego ⟨7, 0, 0, 1⟩ true, .qwait 7 0 0 16, .qrel 7 0 0 16, .qstat 7 0 6 0,
      .secan 7 0 200, .mclaim 7 0 false 0, .mclaim 7 0 true 2, .mrel 7 0 0 false 33, .mlds 7 0 0 8192 128, .mldsQ 7 0 0 16 128 0,
      .mwld 7 0 0 1 0, .mwld 7 0 0 9 5, .mwld 7 0 0 0 6, .mma 7 4, .mma 7 192, .mhad 7 0 16 1 0, .mhad 7 0 0 0 0, .mhad 7 0 0 1 4,
      .maccSt 7 0 0 0 0, .maccSt 7 0 0 129 0, .maccSt 7 0 0 1 5, .maccLd 7 0 0 1 3, .mzero 7 200, .mwait 7 0 200,
      .cbind 7 0 0 false 1, .cbind 7 0 0 true 13, .cbindUnb 7 0 1, .cflush 7 0 200, .trisub ⟨7, 0, 0, 0⟩ 0, .trisub ⟨7, 0, 1, 0⟩ 1,
      .mbindRx 7 0 0 4, .mbindOut 7 0 0 0 (some 4), .frpub 7 0 1 0, .cstart 7 192 0, .cwait ⟨7, 0, 0, 200⟩, .cstat 7 0 0 2,
      .mfsr 7 1 true 0, .mfsr 7 0 false 1024, .mtsr 7 1 true 0, .eret 8, .tlbiPage 7 1 0 0, .tlbiPage 7 0 0 8, .tlbiPart 7 8,
      .tlbiAll 7 1, .cinvIcache 7 8, .cinvCcache 7 8, .cinvL1 7 8, .wfi 8, .hirq 7 0 8, .ecall 7 0 0 256, .halt 8,
      .base false (2 ^ 52), .dim 4 1 0, .dim 0 0 0, .tile 0 4 0, .tile 1 6 0, .tile 65537 4 0, .push 16 1, .pull 0 65536, .gath 16 0,
      .conv 6, .loop 4, .next 4, .sig (2 ^ 52)] = true := by decide +kernel

/-! ### Witnesses: a state and operands for every statement with hypotheses -/

theorem ok_of {ε α : Type} {x : Except ε α} {p : α → Bool}
    (h : (match x with | .ok a => p a | .error _ => false) = true) : ∃ a, x = .ok a ∧ p a = true := by
  cases x with
  | ok a => exact ⟨a, rfl, h⟩
  | error e => cases h

theorem some_of {α : Type} {x : Option α} {p : α → Bool}
    (h : (match x with | some a => p a | none => false) = true) : ∃ a, x = some a ∧ p a = true := by
  cases x with
  | some a => exact ⟨a, rfl, h⟩
  | none => cases h

/-- Whether a result is the one named. -/
def isOk {ε α : Type} [DecidableEq α] (x : Except ε α) (a : α) : Bool :=
  match x with
  | .ok b => decide (b = a)
  | .error _ => false

theorem eq_ok {ε α : Type} [DecidableEq α] {x : Except ε α} {a : α} (h : isOk x a = true) : x = .ok a := by
  cases x with
  | ok b => simpa [isOk] using h
  | error e => cases h

def nop : Instr := .uor ⟨7, 255, 255, 255, none⟩
def withAgenda (s : State) (m : Move) : State := { s with agenda := [m] }
def mv (dc : Nat) (a : Act) : Move := { dc := dc, upset := none, act := a }

theorem memOk_of {s : State} (h : s.mem.wf = true) : s.memOk := h

/-- StepKeepsMemoryCanonical. -/
theorem test_wit_memory_canonical : State.reset.memOk ∧ step State.reset = .next (after (step State.reset)) ∧
    s0.memOk ∧ s0.mem ≠ [] ∧ step (withAgenda s0 (mv 1 .wait)) = .next (after (step (withAgenda s0 (mv 1 .wait)))) := by
  and_intros <;> first | decide +kernel | exact memOk_of (by decide +kernel)
                       | exact next_of (by decide +kernel)

/-- StepNeverMovesTimeBack: a move of 23 cycles, which are 10 ns at 2.3 GHz (R18), with power and without, and a step without a
move. -/
theorem test_wit_time : (∃ t, step (withAgenda s0 (mv 23 .wait)) = .next t) ∧
    (∃ t, step (withAgenda (dv (fun d => { d with on := false }) s0) (mv 23 .wait)) = .next t) ∧
    (after (step (withAgenda s0 (mv 23 .wait)))).clk = ⟨1010, 123, 0⟩ ∧ 0 < (Run.of s0).clockMhz ∧
    Act.wait ≠ .event .powerRemoval ∧ Act.wait ≠ .event .deepestSleepEntry ∧
    State.reset.agenda = [] ∧ (∃ t, step State.reset = .next t) := by
  and_intros <;> first | decide +kernel | exact ⟨_, next_of (by decide +kernel)⟩

/-- EveryEncodingDecodesBack. -/
theorem test_wit_encoding : nop.wf = true ∧ encode nop = some ⟨0xF4FFFFFF, none, none⟩ ∧
    (Instr.dim 0 4 128).wf = true ∧ encodeCommand (.dim 0 4 128) = some 0x0800000400000080 := by decide +kernel

/-- The test machine about to fetch NOP, and CC3 about to fetch HALT. -/
def fetching : State := State.reset.withFetchWord 32 0xF4FFFFFF
def fetchingCc : State := State.reset.withFetchWord 64 0x88000000FF000000

/-- A running list in position 0 of engine 0, of the test machine's team, at 0x3000000, where a command stands. -/
def list0 : CmdList :=
  { running := true, gen := 1, team := 1, grid := 0, warp := 2, first := 0x3000000, pos := 0x3000000, database := 0, indexbase := 0,
    count := [0, 0, 0, 0], stride := [0, 0, 0, 0], idx := [0, 0, 0, 0], tile := none, conv := 0, loops := [], named := [],
    transfers := [], done := 0, gwct := 0, cancel := false, handle := false, aborting := none }

def listed (x : CmdList) (c : Nat) : State :=
  let s := dv (fun d => { d with lists := [(0, x)] }) s0
  { s with cur := { Issue.idle with agent := .list 0 0 }, mem := s.mem.writes ((bytesOf 8 c).zipIdx.map (fun e => (0x3000000 + e.2, e.1))) }

theorem ready_list {s : State} {x : CmdList} (h : s.cur.agent = .list 0 0 ∧ lookM s.dev.lists 0 = some x ∧ x.ready = true) :
    ReadyList s 0 0 x := ⟨h.1, h.2.1, h.2.2⟩

theorem unrivalled_of {s : State} {w l : Nat} {wp : Warp}
    (h : s.dev.warps.all (fun e => e.1 == w || e.2.core != wp.core || e.2.part != wp.part) = true ∧ wp.waitsLonger l = false) :
    Unrivalled s w l wp := by
  refine ⟨fun e he h1 h2 => ?_, h.2⟩
  have := List.all_eq_true.1 h.1 e he
  simpa [h1, h2] using this

/-- StepRunsTheInstruction, clause by clause. -/
theorem test_wit_step_warp : let s := fetching
    let wp := wpOf s
    let r := Run.of s
    let pc := (nthD wp.lanes ((wp.split 0).headD 0) Lane.absent).pc.toNat
    s.agenda = [] ∧ s.cur.agent = .warp 2 0 ∧ s.silent (.warp 2 0) = false ∧ lookM s.dev.warps 2 = some wp ∧
    Unrivalled s 2 0 wp ∧ wp.split 0 ≠ [] ∧ wp.spilled = false ∧ pcValid pc = true ∧ canonical pc = true ∧
    r.xlate ((r.spaceOfGrid (r.gridOf wp)).ofWarp wp.core wp.part) .fetch false (pc / 32 * 32) = .ok 0x2000000 false ∧
    r.poisonRow (r.nodeOf (r.gridOf wp)) (run 0x2000000 32) = none ∧
    decodeLeaf (r.leafBytes wp.core (r.nodeOf (r.gridOf wp)) 0x2000000).1 (slotNo pc) = .ok (nop, 1, 0) := by
  and_intros <;> first | decide +kernel | exact unrivalled_of (by decide +kernel) | exact eq_ok (by decide +kernel)

theorem test_wit_step_cc : let s := fetchingCc
    let r := Run.of s
    let pc := (r.cc 3).pc.toNat
    s.agenda = [] ∧ s.cur.agent = .cc 3 ∧ s.silent (.cc 3) = false ∧ s.dev.sys.ccrun.getLsbD 3 = true ∧
    pcValid pc = true ∧ inRom 3 (pc / 32 * 32) = false ∧ isFirmware (pc / 32 * 32) = true ∧
    r.poisoned none (run (pc / 32 * 32) 32) = false ∧
    decodeLeaf (r.homeRead none (pc / 32 * 32) 32).1 (slotNo pc) = .ok (.halt 7, 2, 0) := by
  and_intros <;> first | decide +kernel | exact eq_ok (by decide +kernel)

theorem test_wit_step_list : let s := listed list0 (11 * 2 ^ 58)
    let r := Run.of s
    s.agenda = [] ∧ s.silent (.list 0 0) = false ∧ ReadyList s 0 0 list0 ∧
    ∃ a, r.rowRead ((r.spaceOfGrid list0.grid).ofStack 0) (r.nodeOf list0.grid) list0.pos 8 = .ok a ∧
      isOk (decodeCommand (ofBytes a.1)) .stop = true := by
  and_intros <;> first | decide +kernel | exact ok_of (by decide +kernel) | exact ready_list (by decide +kernel)

theorem test_wit_step_event : let m := mv 1 (.event .tick)
    let s := withAgenda s0 m
    s.agenda = m :: [] ∧ Instr.tick.isEvent = true ∧ (s.begin m []).serves .tick = true ∧
    (withAgenda s0 (mv 0 (.issue (.cc 3)))).agenda = [mv 0 (.issue (.cc 3))] := by decide +kernel

/-- A leaf of CC3's mask ROM, whose words the manual does not give: free values (R365). -/
theorem test_wit_step_rom : let s := State.reset.turnTo (.cc 3)
    s.agenda = [] ∧ s.silent (.cc 3) = false ∧ s.dev.sys.ccrun.getLsbD 3 = true ∧
    pcValid ((Run.of s).cc 3).pc.toNat = true ∧ inRom 3 (((Run.of s).cc 3).pc.toNat / 32 * 32) = true := by decide +kernel

/-- Two splits of a warp at two NOPs: the one that was served longer ago is the one served (R29). -/
def twoSplits (t : Nat) : State := dv (fun d => { d with warps := d.warps.map (fun e => (e.1, { e.2 with
    lanes := (List.range 32).map (fun k =>
      { Lane.start true (if k = 0 then 0x2000004 else 0x2000008) with turn := if k = 0 then t else 1 }) })) })
  { fetching with mem := fetching.mem.writes ((bytesOf 4 0xF4FFFFFF).zipIdx.map (fun e => (0x2000008 + e.2, e.1))) }

theorem test_round_robin : (twoSplits 0).grantee exec 2 0 = (2, 0) ∧ (twoSplits 2).grantee exec 2 0 = (2, 1) ∧
    (wpOf (twoSplits 0)).waitsLonger 0 = false ∧ (wpOf (twoSplits 2)).waitsLonger 0 = true := by decide +kernel

/-- A split whose last instruction stalls 5 cycles issues in the cycle in which they are over (R25). -/
theorem test_stall : let s := withL (fun y => { y with ready := 105 })
    (s.inSlot nop 2 0).clk.cycles = 105 ∧ ((withL id).inSlot nop 2 0).clk.cycles = 100 ∧
    ((run1 { s0 with cur := { s0.cur with stall := 6 } } nop).laneOf 2 3).ready = 106 := by decide +kernel

/-- ChecksComeBeforeTheEffect: registers away, a privileged instruction in user mode, a register not declared, a source still
owed a stall, a busy source, a source with an uncorrectable error; and on a control core TLBI.all in supervisor mode and a lane instruction. -/
theorem test_wit_checks : let i := Instr.mov ⟨15, 1, 2, none⟩
    let here := fun (s : State) (i : Instr) => encode i ≠ none ∧ s.cur.agent = .warp 2 0 ∧ lookM s.dev.warps 2 = some (wpOf s) ∧
      (wpOf s).split 0 ≠ []
    let ok := fun (s : State) (i : Instr) => (wpOf s).spilled = false ∧ i.warpMode (wpOf s).mode = true ∧
      i.legalFor (wpOf s) ((Run.of s).kernelFor i (wpOf s)) = true
    let away := withW (fun w => { w with spilled := true })
    let few := withW (fun w => { w with regs := 16 })
    let owed := withW (fun w => { w with schk := 1, lanes := w.lanes.map (fun y => { y with haz := [⟨.v 2, 1, 0, false⟩] }) })
    let busy := withL (fun y => { y with busy := [.v 2] })
    let hurt := withL (fun y => { y with bad := [.v 2] })
    (here away i ∧ (wpOf away).spilled = true) ∧
    (here s0 (.eret 7) ∧ (wpOf s0).spilled = false ∧ (Instr.eret 7).warpMode (wpOf s0).mode = false) ∧
    (here few (.mov ⟨15, 1, 16, none⟩) ∧ (Instr.mov ⟨15, 1, 16, none⟩).warpMode (wpOf few).mode = true ∧
      (Instr.mov ⟨15, 1, 16, none⟩).legalFor (wpOf few) ((Run.of few).kernelFor (.mov ⟨15, 1, 16, none⟩) (wpOf few)) = false) ∧
    (here owed i ∧ ok owed i ∧ ((wpOf owed).chk && underrun (wpOf owed) ((wpOf owed).split 0) i.use) = true) ∧
    (here busy i ∧ ok busy i ∧ ((wpOf busy).chk && underrun (wpOf busy) ((wpOf busy).split 0) i.use) = false ∧
      scoreboard (wpOf busy) ((wpOf busy).split 0) i.use = true) ∧
    (here hurt i ∧ ok hurt i ∧ ((wpOf hurt).chk && underrun (wpOf hurt) ((wpOf hurt).split 0) i.use) = false ∧
      scoreboard (wpOf hurt) ((wpOf hurt).split 0) i.use = false ∧ badRegs (wpOf hurt) ((wpOf hurt).split 0) i.use = true) := by decide +kernel

theorem test_wit_checks_cc : let t := Instr.tlbiAll 7 0
    let j := Instr.mov ⟨15, 1, 2, none⟩
    encode t ≠ none ∧ (cc 0).cur.agent = .cc 0 ∧ (cc 0).dev.sys.ccrun.getLsbD 0 = true ∧
    (!t.ccMode ((Run.of (cc 0)).cc 0).mode || t.sysCause (some 0) ((Run.of (cc 0)).cc 0).mode == 0x0B) = true ∧
    encode j ≠ none ∧ (!j.ccMode ((Run.of (cc 0)).cc 0).mode || j.sysCause (some 0) ((Run.of (cc 0)).cc 0).mode == 0x0B) = false ∧
    (!(j.wf && j.onCc && j.sysCause (some 0) ((Run.of (cc 0)).cc 0).mode == 0)) = true := by decide +kernel

/-- FalseGuardSkipsUniform. -/
theorem test_wit_false_guard : let i := Instr.uadd ⟨0, 1, 2, 3, none⟩
    i.uniGuard = some 0 ∧ Ready s0 i 2 0 (wpOf s0) ∧ (s0.env i 2 0 (wpOf s0)).ug 0 = false ∧
    ReadyCc (cc 1) i 1 ∧ ((cc 1).envCc i 1).ug 0 = false := by
  and_intros <;> first | decide +kernel | exact ready_of (by decide +kernel) | exact ready_cc_of (by decide +kernel)

def handled : State := withW (fun w => { w with tvec := 0x2000100 })
def inHandler (tepc : DWord) : State := withW (fun w => { w with tvec := 0x2000100, mode := .handler, tmask := 1, tepc := tepc })

/-- TrapEntryOfAWarp: user mode with a handler, handler mode, user mode without one. -/
theorem test_wit_trap_entry : (Run.of handled).warp 2 = some (wpOf handled) ∧ (wpOf handled).mode = .user ∧ (wpOf handled).tvec ≠ 0 ∧
    (wpOf handled).lanes[31]?.map (·.isLive) = some true ∧
    (Run.of (inHandler 0)).warp 2 = some (wpOf (inHandler 0)) ∧ (wpOf (inHandler 0)).mode = .handler ∧
    (Run.of s0).warp 2 = some (wpOf s0) ∧ (wpOf s0).mode ≠ .handler ∧ (wpOf s0).tvec = 0 := by decide +kernel

/-- TrapAndBkptEnterTheHandler: p0 is true in lane 0 alone, p1 in none. -/
theorem test_wit_trap_bkpt : Ready handled (.trap 0 127) 2 0 (wpOf handled) ∧
    (handled.env (.trap 0 127) 2 0 (wpOf handled)).on 0 = [0] ∧ Ready handled (.trap 1 0) 2 0 (wpOf handled) ∧
    (handled.env (.trap 1 0) 2 0 (wpOf handled)).on 1 = [] ∧ Ready handled (.bkpt 0) 2 0 (wpOf handled) ∧
    (handled.env (.bkpt 0) 2 0 (wpOf handled)).on 0 = [0] ∧ Ready handled (.bkpt 1) 2 0 (wpOf handled) ∧
    (handled.env (.bkpt 1) 2 0 (wpOf handled)).on 1 = [] := by
  and_intros <;> first | decide +kernel | exact ready_of (by decide +kernel)

def ccAt (k : Nat) (f : CtlCore → CtlCore) : State :=
  let s := cc k
  { s with dev := { s.dev with sys := { s.dev.sys with cc := s.dev.sys.cc.modify k f } } }

/-- EretReturnsFromTheHandler: TEPC at a slot, inside one, for cause 0x03, and on a page that is not resident. -/
theorem test_wit_eret : let g := inHandler 0x2000008
    let b := inHandler 0x2000002
    let n := inHandler 0x30000004
    let i := Instr.eret 7
    (Ready g i 2 0 (wpOf g) ∧ (g.env i 2 0 (wpOf g)).ug 7 = true ∧ (g.served i (wpOf g)).targetPage (g.env i 2 0 (wpOf g)) (wpOf g).tepc.toNat = none ∧
      (g.served i (wpOf g)).targetOk (g.env i 2 0 (wpOf g)) (wpOf g).tepc.toNat = true) ∧
    (Ready b i 2 0 (wpOf b) ∧ (b.env i 2 0 (wpOf b)).ug 7 = true ∧ (b.served i (wpOf b)).targetPage (b.env i 2 0 (wpOf b)) (wpOf b).tepc.toNat = none ∧
      (b.served i (wpOf b)).targetOk (b.env i 2 0 (wpOf b)) (wpOf b).tepc.toNat = false) ∧
    (Ready n i 2 0 (wpOf n) ∧ (n.env i 2 0 (wpOf n)).ug 7 = true ∧
      (n.served i (wpOf n)).targetPage (n.env i 2 0 (wpOf n)) (wpOf n).tepc.toNat = some 0) := by
  and_intros <;> first | decide +kernel | exact ready_of (by decide +kernel)

theorem test_wit_eret_cc : let g := ccAt 2 (fun c => { c with tepc := 8, busy := true })
    let b := ccAt 2 (fun c => { c with tepc := 2, busy := true })
    let i := Instr.eret 7
    let x : CcCall := ⟨4, false, 7, 9, 5, true, some 77⟩
    let o := ccAt 3 (fun c => { c with tepc := 8, busy := true, calls := [x] })
    (ReadyCc o i 3 ∧ (o.envCc i 3).ug 7 = true ∧ (Run.of o).slotOk (o.envCc i 3) ((Run.of o).cc 3).tepc.toNat = true ∧
      ((Run.of o).cc 3).calls = [x]) ∧
    (ReadyCc g i 2 ∧ (g.envCc i 2).ug 7 = true ∧ (Run.of g).slotOk (g.envCc i 2) ((Run.of g).cc 2).tepc.toNat = true) ∧
    (ReadyCc b i 2 ∧ (b.envCc i 2).ug 7 = true ∧ (Run.of b).slotOk (b.envCc i 2) ((Run.of b).cc 2).tepc.toNat = false) := by
  and_intros <;> first | decide +kernel | exact ready_cc_of (by decide +kernel)

/-- TrapOfAControlCore. -/
theorem test_wit_trap_cc : ((Run.of (cc 1)).cc 1).busy = false ∧
    ((Run.of (ccAt 1 (fun c => { c with busy := true }))).cc 1).busy = true := by decide +kernel

/-! ### One step of lane instructions: the manual's worked values -/

def vAt (s : State) (i : Instr) (k n : Nat) : Word := (run1 s i).v 2 k n
def sAt (s : State) (i : Instr) (n : Nat) : Word := (run1 s i).s 2 n
def pAt (s : State) (i : Instr) (k n : Nat) : Bool := (run1 s i).p 2 k n
def flags (s : State) (i : Instr) : Word := (wpOf (run1 s i)).wst
def t3 {ε : Type} (d a b : Nat) (x : Option ε) : LOp ε := ⟨15, d, a, b, x⟩

/-- R85 at its bounds: 2^32 - 1 plus 1 with carry out, and with a carry in; signed and unsigned saturation; a borrow. -/
theorem test_add_sub : let s := lv [(1, 0xFFFFFFFF), (2, 1), (3, 0x7FFFFFFF)]
    let c := Instr.iadd (t3 4 1 2 (some { ie0 with co := true, q := 11 }))
    vAt s c 31 4 = 0 ∧ pAt s c 31 11 = true ∧
    vAt (withL (fun y => { y with v := [(1, 5)], p := 1 })) (.iadd (t3 4 1 1 (some { ie0 with ci := true, q := 0 }))) 0 4 = 11 ∧
    vAt s (.iadd (t3 4 3 2 (some { ie0 with m := true }))) 0 4 = 0x7FFFFFFF ∧
    vAt s (.iadd (t3 4 1 2 (some { ie0 with m := true, u := true }))) 0 4 = 0xFFFFFFFF ∧
    vAt s (.isub (t3 4 0 2 (some { ie0 with co := true, q := 3 }))) 0 4 = 0xFFFFFFFF ∧
    pAt s (.isub (t3 4 0 2 (some { ie0 with co := true, q := 3 }))) 0 3 = true ∧
    vAt s (.isub (t3 4 0 2 (some { ie0 with m := true, u := true }))) 0 4 = 0 := by decide +kernel

/-- High and low words: (-1) * 1 signed and unsigned, and IMAD's addend. -/
theorem test_mul : let s := lv [(1, 0xFFFFFFFF), (2, 2), (3, 7)]
    vAt s (.imul (t3 4 1 2 none)) 0 4 = 0xFFFFFFFE ∧ vAt s (.imul (t3 4 1 2 (some { ie0 with m := true }))) 0 4 = 0xFFFFFFFF ∧
    vAt s (.imul (t3 4 1 2 (some { ie0 with m := true, u := true }))) 0 4 = 1 ∧
    vAt s (.imad ⟨15, 4, 1, 2, { ie0 with c := 3 }⟩) 0 4 = 5 ∧
    vAt s (.imad ⟨15, 4, 1, 2, { ie0 with c := 3, m := true, u := true }⟩) 0 4 = 8 := by decide +kernel

/-- Counts 31, 32 and 33; SAR's fill; the funnel at 32; fields that reach past bit 31. -/
theorem test_shifts : let s := lv [(1, 0x80000001), (2, 31), (3, 32), (5, 0x0808), (6, 0x101F)]
    vAt s (.shl (t3 4 1 2 none)) 0 4 = 0x80000000 ∧ vAt s (.shl (t3 4 1 3 none)) 0 4 = 0 ∧ vAt s (.shr (t3 4 1 2 none)) 0 4 = 1 ∧
    vAt s (.shr (t3 4 1 3 none)) 0 4 = 0 ∧ vAt s (.sar (t3 4 1 3 none)) 0 4 = 0xFFFFFFFF ∧
    vAt s (.shf (t3 4 1 3 (some { ie0 with c := 2 }))) 0 4 = 31 ∧ vAt s (.shf (t3 4 1 3 (some { ie0 with c := 2, m := true }))) 0 4 = 0x80000001 ∧
    vAt s (.bfe (t3 4 1 6 (some { ie0 with u := true }))) 0 4 = 1 ∧ vAt s (.bfe (t3 4 1 6 none)) 0 4 = 0xFFFFFFFF ∧
    vAt s (.bfi (t3 4 1 5 (some { ie0 with c := 2 }))) 0 4 = 0x11F := by decide +kernel

theorem test_bits : let s := lv [(1, 0x00010000), (2, 0x80000000)]
    vAt s (.popc ⟨15, 4, 1, none⟩) 0 4 = 1 ∧ vAt s (.clz ⟨15, 4, 1, none⟩) 0 4 = 15 ∧ vAt s (.clz ⟨15, 4, 3, none⟩) 0 4 = 32 ∧
    vAt s (.ctz ⟨15, 4, 1, none⟩) 0 4 = 16 ∧ vAt s (.ctz ⟨15, 4, 3, none⟩) 0 4 = 32 ∧ vAt s (.brev ⟨15, 4, 1, none⟩) 0 4 = 0x8000 ∧
    vAt s (.iabs ⟨15, 4, 2, none⟩) 0 4 = 0x80000000 ∧ vAt s (.iabs ⟨15, 4, 2, some true⟩) 0 4 = 0x7FFFFFFF ∧
    vAt s (.logt (t3 4 1 2 (some { ie0 with c := 1, imm := 0x96 }))) 0 4 = 0x80000000 := by decide +kernel

/-- SEL by p0, which lane 0 alone holds, and by pt in both forms (R89). -/
theorem test_sel : let s := withW (fun w => { w with lanes := w.lanes.map (fun y => { y with v := [(1, 10), (2, 20), (4, 30)] }) })
    vAt s (.sel (t3 4 1 2 (some { ie0 with q := 0 }))) 0 4 = 10 ∧ vAt s (.sel (t3 4 1 2 (some { ie0 with q := 0 }))) 1 4 = 20 ∧
    vAt s (.sel (t3 4 1 2 (some { ie0 with q := 15 }))) 1 4 = 10 ∧ vAt s (.sel (t3 4 1 0 none)) 1 4 = 30 ∧
    vAt s (.sel (t3 4 1 15 none)) 1 4 = 10 := by decide +kernel

/-- Signed and unsigned comparison of -1 with 1; the second destination; PSET's .xor; P2V and V2P with a mask. -/
theorem test_predicates : let s := lv [(1, 0xFFFFFFFF), (2, 1)]
    pAt s (.isetp ⟨15, 2, 3, 1, 2, none⟩) 0 3 = true ∧
    pAt s (.isetp ⟨15, 2, 3, 1, 2, some ⟨15, 4, 0, false, true, 0⟩⟩) 0 3 = false ∧
    pAt s (.isetp ⟨15, 2, 3, 1, 2, some ⟨15, 4, 0, false, true, 0⟩⟩) 0 4 = true ∧
    pAt s0 (.pset ⟨15, 3, 0, false, 15, false, 2, none⟩) 0 3 = false ∧ pAt s0 (.pset ⟨15, 3, 0, false, 15, false, 2, none⟩) 1 3 = true ∧
    vAt s0 (.p2v 15 4 none) 0 4 = 1 ∧ vAt s0 (.p2v 15 4 (some 0xFFE)) 0 4 = 0 ∧
    pAt s (.v2p 15 1 (some 0x800)) 0 11 = true ∧ pAt s (.v2p 15 1 (some 0x800)) 0 10 = false := by decide +kernel

/-- Table 5.3: SHFL.down by 4 in a split of lanes 0 to 7 whose v5 holds ten times the lane number. -/
def eight : State := withW (fun w => { w with lanes := w.lanes.mapIdx (fun k y =>
  { y with pc := if k < 8 then y.pc else 0x2000014, v := [(5, word (10 * k))], p := 0 }) })

theorem test_shfl : let i := Instr.shfl (t3 4 5 0 (some ⟨2, true, 2, 4⟩))
    vAt eight i 0 4 = 40 ∧ vAt eight i 3 4 = 70 ∧ pAt eight i 3 2 = true ∧ vAt eight i 4 4 = 40 ∧ vAt eight i 7 4 = 70 ∧
    pAt eight i 4 2 = false ∧ vAt eight i 8 4 = 0 := by decide +kernel

/-- VOTE over p0, REDW's sum of the lane numbers, and MATCH over equal values. -/
theorem test_cross : vAt s0 (.vote ⟨15, 3, 4, 0, false, none⟩) 5 4 = 1 ∧
    pAt s0 (.vote ⟨15, 1, 4, 0, false, some (3, 0)⟩) 5 4 = true ∧ (run1 s0 (.vote ⟨15, 1, 4, 0, false, some (3, 0)⟩)).g 2 3 = true ∧
    vAt s0 (.redw ⟨15, 4, 0, 0, some (0, 9)⟩) 7 4 = 496 ∧ sAt s0 (.redw ⟨15, 4, 0, 0, some (0, 9)⟩) 9 = 496 ∧
    vAt s0 (.matchw ⟨15, 4, 0, false, none⟩) 5 4 = 0x20 ∧ vAt s0 (.matchw ⟨15, 4, 1, true, none⟩) 5 4 = 0xFFFFFFFF := by decide +kernel

/-- Table 6.3: one rounding against two. -/
theorem test_fma : let s := lv [(9, 0x3F800800), (10, 0x3F801000), (12, 0x3F801000)]
    vAt s (.ffma (t3 8 9 9 (some { fe0 with c := 10, sc := 1 }))) 0 8 = 0x33800000 ∧ flags s (.ffma (t3 8 9 9 (some { fe0 with c := 10, sc := 1 }))) = 0 ∧
    vAt s (.fmul (t3 12 9 9 none)) 0 12 = 0x3F801000 ∧ flags s (.fmul (t3 12 9 9 none)) = 1 ∧
    vAt s (.fadd (t3 13 12 10 (some { fe0 with sb := 1 }))) 0 13 = 0 := by decide +kernel

/-- Table 6.8: 300.0, infinity and 70000.0; and the insertion into v20. -/
theorem test_cvt : let s := lv [(4, 0x43960000), (5, 0x7F800000), (6, 0x4788B800), (20, 0x11223344)]
    vAt s (.cvt 15 20 4 (.lx ⟨3, 0, 0, false, false, 0, 0, 2, true⟩)) 0 20 = 0x11793344 ∧
    vAt s (.cvt 15 7 5 (.lx ⟨3, 0, 0, false, false, 0, 0, 0, false⟩)) 0 7 = 0x7F ∧
    vAt s (.cvt 15 7 5 (.lx ⟨3, 0, 0, true, false, 0, 0, 0, false⟩)) 0 7 = 0x7E ∧
    vAt s (.cvt 15 7 6 (.lx ⟨4, 0, 0, false, false, 0, 0, 0, false⟩)) 0 7 = 0x7C ∧
    vAt s (.cvt 15 7 6 (.lx ⟨4, 0, 0, true, false, 0, 0, 0, false⟩)) 0 7 = 0x7B := by decide +kernel

/-- Table 6.9, and Table 3.7's draw for key 0 and counter 1. -/
theorem test_planes_rnd : let s := lv [(2, 0xFF7F05B3), (4, 0x0D0D0C09), (5, 0x0F0D0E0C), (6, 1)]
    vAt s (.plnp 15 8 2 false) 0 8 = 0x0D0D0C09 ∧ vAt s (.plnp 15 8 2 false) 0 9 = 0x0F0D0E0C ∧
    vAt s (.plnu 15 8 4 (some (4, false))) 0 8 = 0xF07000B0 ∧ vAt s (.plnu 15 8 4 (some (4, true))) 0 8 = 0xFF0700FB ∧
    vAt s (.rnd 15 3 0 6 true) 0 3 = 7239838 := by decide +kernel

/-- A NaN operand of FADD and of FMIN, two NaNs, and FMAX of zeros. -/
theorem test_fmin : let s := lv [(1, 0x7FC00001), (2, 0x3F800000), (3, 0x80000000)]
    vAt s (.fadd (t3 4 1 2 none)) 0 4 = 0x7FC00000 ∧ vAt s (.fmin (t3 4 1 2 none)) 0 4 = 0x3F800000 ∧
    vAt s (.fmin (t3 4 2 1 none)) 0 4 = 0x3F800000 ∧ vAt s (.fmin (t3 4 1 1 none)) 0 4 = 0x7FC00000 ∧
    vAt s (.fmax (t3 4 3 5 none)) 0 4 = 0 := by decide +kernel

/-- FP64: 1.0 plus 1.0, and packed FP16 1.0 times 2.0. -/
theorem test_wide_packed : let s := lv [(2, 0), (3, 0x3FF00000), (4, 0x3C003C00), (5, 0x40004000)]
    vAt s (.dadd (t3 6 2 2 none)) 0 7 = 0x40000000 ∧ vAt s (.dadd (t3 6 2 2 none)) 0 6 = 0 ∧
    vAt s (.pkmul (t3 6 4 5 none)) 0 6 = 0x40004000 ∧
    vAt s (.bysel (t3 6 4 5 (some ⟨0, true, 0x9847⟩))) 0 6 = 0xFF000040 := by decide +kernel

/-! ### Witnesses of the lane and uniform statements -/

/-- LanewiseCompletes, and with it the lane statements: each is ready on the test machine, with 32 lanes taking part. -/
def laneSet : List Instr :=
  [.fadd (t3 4 1 2 none), .fmul (t3 4 1 2 none), .ffma (t3 4 1 2 none), .pkadd (t3 4 1 2 none), .pkmul (t3 4 1 2 none),
    .pkfma (t3 4 1 2 none), .dadd (t3 4 0 2 none), .dmul (t3 4 0 2 none), .dfma (t3 4 0 2 none), .fmin (t3 4 1 2 none),
    .fmax (t3 4 1 2 none), .pkmnmx (t3 4 1 2 none), .fsetp ⟨15, 2, 3, 1, 2, none⟩, .func ⟨15, 4, 1, 0, none⟩,
    .flerp (t3 4 1 2 none), .bysel (t3 4 1 2 none), .iadd (t3 4 1 2 (some { ie0 with q := 11, ci := true, co := true })),
    .iadd (t3 4 1 2 (some { ie0 with m := true })), .isub (t3 4 1 2 (some { ie0 with q := 15, m := true, u := true })),
    .imul (t3 4 1 2 none), .imad ⟨15, 4, 1, 2, ie0⟩, .imin (t3 4 1 2 none), .imax (t3 4 1 2 none), .and (t3 4 1 2 none),
    .or (t3 4 1 2 none), .xor (t3 4 1 2 none), .logt (t3 4 1 2 none), .shl (t3 4 1 2 none), .shr (t3 4 1 2 none),
    .sar (t3 4 1 2 none), .shf (t3 4 1 2 none), .bfe (t3 4 1 2 none), .bfi (t3 4 1 2 none), .popc ⟨15, 4, 1, none⟩,
    .clz ⟨15, 4, 1, none⟩, .ctz ⟨15, 4, 1, none⟩, .brev ⟨15, 4, 1, none⟩, .iabs ⟨15, 4, 1, none⟩, .ineg ⟨15, 4, 1, none⟩,
    .isetp ⟨15, 2, 11, 1, 2, some ⟨15, 10, 0, false, false, 0⟩⟩, .isetp ⟨15, 2, 15, 1, 2, none⟩, .sel (t3 4 1 2 (some { ie0 with q := 15 })),
    .sel (t3 4 1 15 none), .mov ⟨15, 4, 1, none⟩, .pset ⟨15, 11, 0, false, 1, false, 0, some (2, false, 1)⟩,
    .shfl (t3 4 1 2 none), .matchw ⟨15, 4, 1, true, some (false, 11)⟩, .matchw ⟨15, 4, 1, false, none⟩, .rnd 15 4 0 2 false,
    .cvt 15 4 1 (.lr 0), .plnp 15 4 2 false, .plnu 15 4 2 none, .movi 15 4 5 false, .movu 15 4 5 none, .p2v 15 4 none, .v2p 15 4 none]

theorem test_wit_lane : laneSet.all (fun i => decide (i.lanewise = some 15) && readyB s0 i) = true ∧
    (s0.env (.mov ⟨15, 4, 1, none⟩) 2 0 (wpOf s0)).on 15 = List.range 32 := by decide +kernel

/-- CrossLaneResults and FloatResults: VOTE and REDW with their uniform destinations, and with no participant; FMIN on FP32. -/
theorem test_wit_cross : [Instr.vote ⟨15, 3, 4, 0, false, some (0, 191)⟩, .vote ⟨15, 0, 11, 0, false, some (6, 0)⟩, .vote ⟨1, 2, 4, 0, false, none⟩,
      .redw ⟨15, 4, 1, 0, some (0, 191)⟩, .redw ⟨1, 4, 1, 7, none⟩].all (readyB s0) = true ∧
    (s0.env (.vote ⟨1, 2, 4, 0, false, none⟩) 2 0 (wpOf s0)).on 1 = [] ∧ (t3 (ε := FExt) 4 1 2 none).fext.ft = 0 := by decide +kernel

/-- UniwiseCompletes and UniformResults, on a split and on a control core, to s191 and to sz. -/
def uniSet : List Instr :=
  [.uadd ⟨7, 191, 1, 2, none⟩, .uadd ⟨7, 255, 1, 2, none⟩, .usub ⟨7, 4, 1, 2, none⟩, .umul ⟨7, 4, 1, 2, none⟩, .uand ⟨7, 4, 1, 2, none⟩,
    .uor ⟨7, 4, 1, 2, none⟩, .uxor ⟨7, 4, 1, 2, none⟩, .ushl ⟨7, 4, 1, 2, none⟩, .ushr ⟨7, 4, 1, 2, none⟩, .usar ⟨7, 4, 1, 2, none⟩,
    .umin ⟨7, 4, 1, 2, none⟩, .umax ⟨7, 4, 1, 2, none⟩, .uminu ⟨7, 4, 1, 2, none⟩, .umaxu ⟨7, 4, 1, 2, none⟩, .umov ⟨7, 4, 0, 2, none⟩,
    .umovi 7 4 5 false, .umovi 7 4 5 true, .usel ⟨7, 4, 1, 2, none⟩ 0, .ubfe ⟨7, 4, 1, 2, none⟩ false, .ubit 7 4 1 0 false,
    .umulh ⟨7, 4, 1, 2, none⟩ true, .umulh ⟨7, 4, 1, 2, none⟩ false]

theorem test_wit_uni : uniSet.all (fun i => i.uniwise.isSome && readyB s0 i && readyCcB (cc 1) i 1) = true ∧
    [Instr.usetp ⟨7, 6, 1, 2, 0, false, 7, 0, none⟩, .usetp ⟨7, 7, 1, 2, 0, false, 7, 0, none⟩, .upset ⟨7, 6, 1, false, 2, false, 0⟩].all (readyB s0) = true ∧
    (s0.env (.uadd ⟨7, 191, 1, 2, none⟩) 2 0 (wpOf s0)).ug 7 = true ∧ ((cc 1).envCc (.uadd ⟨7, 191, 1, 2, none⟩) 1).ug 7 = true ∧
    readyB s0 nop = true ∧ readyCcB (cc 3) nop 3 = true := by decide +kernel

/-- Uniform results by hand: a wrap, a literal, sext of UMOVI's field, a high product and a comparison. -/
theorem test_uniform : let s := us [(1, 0xFFFFFFFF), (2, 2)]
    sAt s (.uadd ⟨7, 4, 1, 2, none⟩) 4 = 1 ∧ sAt s (.usub ⟨7, 4, 255, 0, some 1⟩) 4 = 0xFFFFFFFF ∧ sAt s (.uadd ⟨7, 255, 1, 2, none⟩) 255 = 0 ∧
    sAt s (.umovi 7 4 0x7FFFFF false) 4 = 0xFFFFFFFF ∧ sAt s (.umulh ⟨7, 4, 1, 2, none⟩ true) 4 = 1 ∧
    sAt s (.usar ⟨7, 4, 1, 2, none⟩) 4 = 0xFFFFFFFF ∧ (run1 s (.usetp ⟨7, 3, 1, 2, 2, false, 7, 0, none⟩)).g 2 3 = true ∧
    (run1 s (.usetp ⟨7, 3, 1, 2, 2, true, 7, 0, none⟩)).g 2 3 = false := by decide +kernel

/-- SpecialRegistersAndClocks: LANEID with its grid and team, WST read and cleared, the clocks, UREADL of lane 31 and of the
lowest lane. -/
theorem test_wit_special : let flagged := withW (fun w => { w with wst := 0x11F })
    [Instr.spr 15 4 0x00, .spr 15 4 0x15, .spr 15 4 0x21, .spr 15 4 0x22, .usprRead 7 4 0x20, .usprRead 7 4 0x15, .ureadl 7 4 0 31 false,
      .ureadl 7 4 0 0 true, .tnow 15 4 0, .tnow 15 4 1, .utime 7 4 0, .utime 7 4 2].all (readyB s0) = true ∧
    ((Run.of s0).grid ((Run.of s0).gridOf (wpOf s0))).isSome = true ∧ ((Run.of s0).team (wpOf s0).team).isSome = true ∧
    Res.v 0 ∉ (s0.laneOf 2 31).busy ∧ readyB flagged (.usprWrite 7 1 0x20) = true ∧ sAt s0 (.ureadl 7 4 0 31 false) 4 = 31 ∧
    vAt s0 (.spr 15 4 0x15) 3 4 = 0xFFFFFFFF ∧ (wpOf (run1 flagged (.usprWrite 7 1 0x20))).wst = 0x11F := by decide +kernel

/-! ### Witnesses of control flow and barriers -/

theorem true_of {α : Type} {x : Bool × α} (h : x.1 = true) : ∃ r, x = (true, r) := ⟨x.2, by rw [← h]⟩

def lowPc : State := withL (fun y => { y with pc := 4 })
def wEnv (s : State) (i : Instr) : Env := s.env i 2 0 (wpOf s)
def wRun (s : State) (i : Instr) : Run := s.served i (wpOf s)

/-- BranchesGoToTheirTargets: each form with a good target, BRA out of the code window, and BRX whose lane 0 alone has no slot. -/
theorem test_wit_branches : let s := lv [(2, 0x2000008)]
    let u := us [(1, 0x2000008), (2, 9)]
    let ok := fun (s : State) (i : Instr) (t : Nat) => (wRun s i).targetOk (wEnv s i) t
    [Instr.bra 15 1, .brx 15 2 none, .brx 15 0 none, .call 15 4 8191].all (readyB s) = true ∧
    ok s (.bra 15 1) (relTarget 0x2000004 1) = true ∧ ok s (.call 15 4 8191) (relTarget 0x2000004 8191) = true ∧
    ((wEnv s (.brx 15 2 none)).on 15).all (fun k => ok s (.brx 15 2 none) (inWindow 0x2000004 ((wEnv s (.brx 15 2 none)).v k 2 + word 0))) = true ∧
    ((wEnv s0 (.brx 15 0 none)).on 15).find? (fun k => !ok s0 (.brx 15 0 none) (inWindow 0x2000004 ((wEnv s0 (.brx 15 0 none)).v k 0 + word 0))) = some 0 ∧
    readyB lowPc (.bra 15 (-1)) = true ∧ ok lowPc (.bra 15 (-1)) (relTarget 4 (-1)) = false ∧ (wEnv lowPc (.bra 15 (-1))).on 15 ≠ [] ∧
    readyB lowPc (.ubra 7 (-1)) = true ∧ ok lowPc (.ubra 7 (-1)) (relTarget 4 (-1)) = false ∧
    [Instr.ubra 7 1, .ucall 7 4 9, .uret 7 1, .ujmpx 7 1 2 3].all (readyB u) = true ∧
    ok u (.ubra 7 1) (relTarget 0x2000004 1) = true ∧ ok u (.ucall 7 4 9) (relTarget 0x2000004 9) = true ∧ ok u (.uret 7 1) 0x2000008 = true ∧
    (wRun u (.ujmpx 7 1 2 3)).slotOk (wEnv u (.ujmpx 7 1 2 3)) 0x2000008 = true ∧
    ok u (.ujmpx 7 1 2 3) (pcOfSlot (slotOf 0x2000008 + min 9 3)) = true := by decide +kernel

theorem test_wit_branch_cc : ReadyCc (cc 1) (.ubra 7 3) 1 ∧ ((cc 1).envCc (.ubra 7 3) 1).ug 7 = true ∧
    (Run.of (cc 1)).targetOk ((cc 1).envCc (.ubra 7 3) 1) (relTarget ((cc 1).envCc (.ubra 7 3) 1).pc 3) = true := by
  and_intros <;> first | decide +kernel | exact ready_cc_of (by decide +kernel)

/-- Targets by hand: BRA over a leaf's control word, and UJMPX to its default entry. -/
theorem test_branch : let u := us [(1, 0x2000008), (2, 9)]
    ((run1 s0 (.bra 15 6)).laneOf 2 5).pc = 0x200001C ∧ ((run1 s0 (.bra 15 7)).laneOf 2 5).pc = 0x2000024 ∧
    ((run1 u (.ujmpx 7 1 2 3)).laneOf 2 0).pc = 0x2000014 ∧ vAt s0 (.call 15 4 9) 3 4 = 0x2000008 ∧ sAt u (.ucall 7 4 9) 4 = 0x200000C := by
  decide +kernel

/-- RejoinsWaitForTheirMask: every lane of the mask arrives, and a warp all of whose threads wait for lanes that never come. -/
def deadlocked : State := withL (fun y => { y with wait := .rjn 0xFFFFFFFF 1 0 1, pc := if inMask 1 (lookD y.v 0 0).toNat then 0x2000004 else 0x2000024 })

theorem test_wit_rejoin : let i := Instr.rjn 15 1 (.lit 0xFFFFFFFF)
    Ready s0 i 2 0 (wpOf s0) ∧ (lanesOf ((wEnv s0 i).rjnMask 0 (.lit 0xFFFFFFFF))).all (fun j => ((wEnv s0 i).on 15).contains j) = true ∧
    lookM deadlocked.dev.warps 2 = some (wpOf deadlocked) ∧ (wpOf deadlocked).rjnDead = true ∧ (wpOf deadlocked).rjte = false ∧
    0 ∈ (wpOf deadlocked).liveLanes ∧ (deadlocked.laneOf 2 0).wait = .rjn 0xFFFFFFFF 1 0 1 := by
  and_intros <;> first | decide +kernel | exact ready_of (by decide +kernel)

/-- ThreadsExit: at system scope outside containment, and the end of a wait. -/
def exiting : State := withL (fun y => { y with wait := .exit 2 })

theorem test_wit_exit : Ready s0 (.exit 15 4) 2 0 (wpOf s0) ∧ (Run.of s0).nodeOf ((Run.of s0).gridOf (wpOf s0)) = none ∧
    lookM exiting.dev.warps 2 = some (wpOf exiting) ∧ (exiting.laneOf 2 31).isLive = true ∧ (exiting.laneOf 2 31).wait = .exit 2 ∧
    ∃ r, (Run.of exiting).release 2 (wpOf exiting) [31] 2 = (true, r) := by
  and_intros <;> first | decide +kernel | exact ready_of (by decide +kernel) | exact true_of (by decide +kernel)

/-- The last thread of a team that exits raises its completion count (R41). -/
theorem test_exit_count : ((run1 exiting (.completionCountIncrement 2 31)).laneOf 2 31).st = .exited ∧
    ((lookM (run1 exiting (.completionCountIncrement 2 31)).dev.sched.teams 1).map (·.done)) = some 1 := by decide +kernel

/-- BarriersCollectTheirMembers: a grid barrier of a grid that is not cooperative; one of a continuation kernel; a warp barrier, new
arrivals and none. -/
theorem test_wit_bar : let o : BarOp := ⟨7, 0, 3⟩
    let i := Instr.barSync o
    let arrived := withW (fun w => { w with wbar := [(3, 0xFFFFFFFF)] })
    readyB s0 (.barSync ⟨7, 2, 0⟩) = true ∧ readyB s0 (.barArrive ⟨7, 1, 15⟩) = true ∧ readyB s0 i = true ∧
    (wEnv s0 i).ug 7 = true ∧ ((wRun s0 i).grid (wEnv s0 i).grid).map (fun x => x.pkt.coop) = some false ∧
    ((mach true warp0).cur.agent = .warp 2 0 ∧ lookM (mach true warp0).dev.warps 2 = some warp0 ∧ warp0.split 0 ≠ [] ∧
      warp0.spilled = false ∧ (Run.of (mach true warp0)).kernelFor (.barSync ⟨7, 1, 0⟩) warp0 = some true) ∧
    (wRun s0 i).barMember (wEnv s0 i) o = true ∧ (wRun s0 i).barNew (wEnv s0 i) o ≠ [] ∧
    readyB arrived i = true ∧ (wRun arrived i).barMember (wEnv arrived i) o = true ∧ (wRun arrived i).barNew (wEnv arrived i) o = [] ∧
    ((wpOf s0).split 0).all (fun k => !(Run.of s0).laneLoads 2 k) = true ∧
    (wpOf s0).liveLanes.all (fun k => ((wpOf s0).split 0).contains k) = true ∧
    ((wRun s0 i).release 2 (wEnv s0 i).wp ((wRun s0 i).barNew (wEnv s0 i) o) 0).1 = true := by decide +kernel

/-- SleepServiceAndResidency: a time just reached, one a nanosecond away, and a sleeper whose time has come. -/
def synced : Dev → Dev := fun d => { d with ptp := { d.ptp with st := .locked, first := true, pbase := 5000, dbase := 1000 } }
def sleeping : State := dv synced (withL (fun y => { y with wait := .tsleep 4 5000 }))

theorem test_wit_sleep : let now := dv synced (us [(10, 5000)])
    let later := dv synced (us [(10, 5001)])
    let i := Instr.tsleep 7 4 10
    Ready now i 2 0 (wpOf now) ∧ (wEnv now i).ug 7 = true ∧ (wEnv now i).us2 10 ≤ (Run.of now).ptime ∧
    Ready later i 2 0 (wpOf later) ∧ (Run.of later).ptime < (wEnv later i).us2 10 ∧
    lookM sleeping.dev.warps 2 = some (wpOf sleeping) ∧ (sleeping.laneOf 2 7).isLive = true ∧ (sleeping.laneOf 2 7).wait = .tsleep 4 5000 ∧
    5000 ≤ (Run.of sleeping).ptime := by
  and_intros <;> first | decide +kernel | exact ready_of (by decide +kernel)

theorem test_wit_residency : lookM s0.dev.warps 2 = some (wpOf s0) ∧ (wpOf s0).split 0 ≠ [] ∧
    (wpOf sleeping).lanes.all (fun y => !y.isLive || y.wait.mayMove) = true ∧ ((Run.of sleeping).core 0).offline = false ∧
    (wpOf s0).lanes.all (fun y => !y.isLive || y.wait.mayMove) = false ∧
    (run1 sleeping (.registerSpill 2)).dev.warps.map (fun e => e.2.spilled) = [true] ∧
    (run1 (run1 sleeping (.registerSpill 2)) (.registerRecall 2)).dev.warps.map (fun e => e.2.spilled) = [false] := by decide +kernel

/-- A recall beside 16 warps of 128 registers, which fill the 2,048 words of a partition (R15, R32). -/
theorem test_recall_waits_for_room : let full := (List.range 16).map (fun k => (k + 10, { warp0 with regs := 128 }))
    let s := fun (n : Nat) => dv (fun d => { d with warps := (2, { warp0 with spilled := true }) :: full.take n }) s0
    ((lookM (run1 (s 16) (.registerRecall 2)).dev.warps 2).map (·.spilled)) = some true ∧
    ((lookM (run1 (s 15) (.registerRecall 2)).dev.warps 2).map (·.spilled)) = some false := by decide +kernel

/-- The instruction that an agent fetches. -/
def fetched (s : State) (a : Agent) : Option Instr :=
  match s.fetch a with
  | .instr _ i => some i
  | _ => none

theorem fetch_of {s : State} {a : Agent} {i : Instr} (h : fetched s a = some i) : ∃ t, s.fetch a = .instr t i := by
  unfold fetched at h
  split at h
  · rename_i t j hj
    rw [hj]
    exact ⟨t, by rw [Option.some.inj h]⟩
  · cases h

/-- A warp about to fetch NOP, beside one of an older team in its partition, at the same place. -/
def crowded : State := dv (fun d => { d with warps := d.warps ++ d.warps.map (fun e => (e.1 + 1, { e.2 with team := 0, slot := 4 })) }) fetching

/-- SleepServiceAndResidency: a split that keeps its turn, one that gives way to an older team's warp, and one that has been ready for
4,096 cycles. -/
theorem test_wit_service_order : let w := wpOf fetching
    let since := fun (n : Nat) (s : State) => s.modWarp 2 (fun x => { x with since := [none, none, none, some n] })
    let old := since 904 { fetching with clk := { fetching.clk with cycles := 5000 } }
    let idle := crowded.modWarp 2 (fun x => { x with lanes := x.lanes.map (fun y => { y with wait := .bar 0 0 }) })
    ((∃ t, fetching.fetch (.warp 2 0) = .instr t nop) ∧ lookM fetching.dev.warps 2 = some w ∧ fetching.grantee exec 2 0 = (2, 0)) ∧
    ((∃ t, crowded.fetch (.warp 2 0) = .instr t nop) ∧ (crowded.grantee exec 2 0).1 = 3) ∧
    (lookM old.dev.warps 2 = some (wpOf old) ∧ nthD (wpOf old).since 3 none = some 904 ∧
      ((lookM (run1 old (.starvationPromotion 2 3)).dev.warps 2).map (·.promoted)) = some [3] ∧
      ((lookM (run1 (since 905 old) (.starvationPromotion 2 3)).dev.warps 2).map (·.promoted)) = some []) ∧
    (lookM idle.dev.warps 2 = some (wpOf idle) ∧ (wpOf idle).heads.all (fun l => !idle.readyOn exec 2 3 l) = true) ∧
    (let s := since 0 crowded;
      lookM s.dev.warps 2 = some (wpOf s) ∧ 0 ∈ (wpOf s).heads ∧ s.readyOn exec 2 3 0 = true ∧ (wpOf s).stallEnd 0 ≤ s.clk.cycles ∧
      (wpOf s).spilled = false ∧ s.shares 2 (wpOf s) = true ∧ nthD (wpOf s).since 3 none = some 0 ∧ 0 ≤ s.clk.cycles) := by
  and_intros <;> first | decide +kernel | exact fetch_of (by decide +kernel)

/-! ### Witnesses of the memory instructions -/

def ldg (ord scope : Nat) : Instr := .ld { m0 with d := 4, a := 2, ord := ord, scope := scope }
def o1 : MemOp := { m0 with g := 0, d := 4, a := 2 }
def tm1 : MemOp := { o1 with space := .team }
def addr (n : Nat) : List (Nat × Word) := [(2, word n), (3, word (n / 2 ^ 32))]

/-- LoadsIssue and StoresIssue: a global load of 32 lanes, an acquire at device scope, LDP over team memory, and one lane's
load and store of the last word of team memory. -/
theorem test_wit_loads : let s := lv (addr 0x3000000)
    let t := lv [(2, 4092), (4, 0x12345678)]
    let p : LdpOp := ⟨15, 4, 6, 7, .team, 2, 0, false, false, 0, 0, 0, false⟩
    (∃ ls, checked 0 (((wEnv s (ldg 1 2)).on 15).map (fun l => (l, (wRun s (ldg 1 2)).locOf (wEnv s (ldg 1 2)) { m0 with d := 4, a := 2, ord := 1, scope := 2 } .load l))) = .ok ls ∧
      (decide (ls.length = 32) && !ls.any (fun x => (wRun s (ldg 1 2)).laneAcq 2 x.1) && !anyNotReady ls && !(wRun s (ldg 1 2)).overlaps (wEnv s (ldg 1 2)) none ls &&
        ((wRun s (ldg 1 2)).anyBad (wEnv s (ldg 1 2)) none (fun _ => 4) false ls).isNone) = true) ∧
    Ready s (ldg 1 2) 2 0 (wpOf s) ∧ Ready t (.ldp p) 2 0 (wpOf t) ∧
    (∃ ls, checked 0 (((wEnv t (.ldp p)).on 15).map (fun l => (l, (wRun t (.ldp p)).packedLoc (wEnv t (.ldp p)) p l))) = .ok ls ∧
      (!ls.any (fun x => (wRun t (.ldp p)).laneAcq 2 x.1) && !anyNotReady ls && !(wRun t (.ldp p)).overlaps (wEnv t (.ldp p)) none ls &&
        ((wRun t (.ldp p)).anyBad (wEnv t (.ldp p)) none (fun _ => 2) false ls).isNone) = true) ∧ t.dev.ms.teamPoison = [] ∧
    Ready t (.ld tm1) 2 0 (wpOf t) ∧ (wEnv t (.ld tm1)).on 0 = [0] ∧ ux (((wEnv t (.ld tm1)).v 0 2).toNat + tm1.off) 32 = 4092 ∧
    teamOk ((Run.of t).teamGeom 0).1 ((Run.of t).teamGeom 0).2 4092 4 = true ∧ teamOk ((Run.of t).teamGeom 0).1 ((Run.of t).teamGeom 0).2 4093 4 = false ∧
    Ready t (.st tm1) 2 0 (wpOf t) ∧ (Run.of t).storeWaits (wEnv t (.st tm1)) [0] = false ∧ (Run.of t).laneAcq 2 0 = false := by
  and_intros <;> first | decide +kernel | exact ok_of (by decide +kernel) | exact ready_of (by decide +kernel)

theorem test_wit_stores : let s := lv (addr 0x3000000)
    let r := fun (o : MemOp) => wRun s (.st o)
    let e := fun (o : MemOp) => wEnv s (.st o)
    let rel : MemOp := { o1 with ord := 2, scope := 2 }
    Ready s (.st o1) 2 0 (wpOf s) ∧ Ready s (.st rel) 2 0 (wpOf s) ∧ (e o1).on 0 = [0] ∧ ux ((e o1).v2 0 2 + o1.off) 64 = 0x3000000 ∧
    canonical 0x3000000 = true ∧ (r o1).xlate ((r o1).spaceAt (e o1)) .store false 0x3000000 = .ok 0x3000000 false ∧
    (r o1).nodeOf 0 = none ∧ (r o1).storeWaits (e o1) [0] = false ∧ s.dev.ms.l1 = [] ∧
    (∃ ls, checked 1 (((e rel).on 0).map (fun l => (l, (r rel).locOf (e rel) rel .store l))) = .ok ls ∧ (!anyNotReady ls) = true) ∧
    (∃ r', (r rel).release 2 (e rel).wp ((e rel).on 0) 2 = (true, r')) ∧
    ((r rel).release 2 (e rel).wp ((e rel).on 0) 2).2.storeWaits (e rel) ((e rel).on 0) = false := by
  and_intros <;> first | decide +kernel | exact ok_of (by decide +kernel) | exact ready_of (by decide +kernel)
                       | exact true_of (by decide +kernel)

/-- A word of team memory stored and read back, lowest byte first, and one on its way to the home. -/
theorem test_store : let t := lv [(2, 4092), (4, 0x12345678)]
    (Run.of (run1 t (.st tm1))).treadN 1 4092 4 = [0x78, 0x56, 0x34, 0x12] ∧
    vAt (dv (fun d => { d with ms := { d.ms with team := [(tkey 1 4092, 0x80)] } }) t) (.ld { tm1 with ty := 1 }) 0 4 = 0xFFFFFF80 ∧
    ((run1 (lv (addr 0x3000000)) (.st o1)).dev.ms.stores.map (fun e => (e.2.pa, e.2.who))) = [(0x3000000, [0])] := by decide +kernel

/-- NonCanonicalAddressFaults and PrivateLimitFaults: the lowest bad address, in lane 1 after a good lane 0; an access whose last
byte alone lies past PRIVSZ, and PRIVSZ zero. -/
def badLane (f : List (Nat × Word)) (g : List (Nat × Word)) : State :=
  withW (fun w => { w with lanes := w.lanes.mapIdx (fun k y => { y with v := if k = 0 then f else g }) })

theorem test_wit_canonical : let s := badLane (addr 0x3000000) (addr (2 ^ 52))
    let i := ldg 0 0
    let o : MemOp := { m0 with d := 4, a := 2 }
    let at1 : AtomOp := { a0 with d := 4, a := 2, b := 6 }
    Ready s i 2 0 (wpOf s) ∧ (wEnv s i).on 15 = [0] ++ 1 :: (List.range 30).map (· + 2) ∧
    (∃ x, (wRun s i).locOf (wEnv s i) o .load 0 = .ok x ∧ true = true) ∧ ux ((wEnv s i).v2 1 2 + o.off) 64 = 2 ^ 52 ∧
    Ready s (.st o) 2 0 (wpOf s) ∧ (∃ x, (wRun s (.st o)).locOf (wEnv s (.st o)) o .store 0 = .ok x ∧ true = true) ∧
    Ready s (.atom at1) 2 0 (wpOf s) ∧ (∃ x, (wRun s (.atom at1)).atomLoc (wEnv s (.atom at1)) at1 .atomic 4 0 = .ok x ∧ true = true) ∧
    Ready (us [(3, 0x100000)]) (.uld { um0 with a := 2 }) 2 0 (wpOf (us [(3, 0x100000)])) ∧
    (wEnv (us [(3, 0x100000)]) (.uld { um0 with a := 2 })).uaddr { um0 with a := 2 } = 2 ^ 52 := by
  and_intros <;> first | decide +kernel | exact ready_of (by decide +kernel) | exact ok_of (p := fun _ => true) (by decide +kernel)

theorem test_wit_private : let s := badLane [(2, 252)] [(2, 256)]
    let none' := withW (fun w => { w with privSize := 0 })
    let o : MemOp := { m0 with d := 4, a := 2, space := .priv }
    let c : CctlOp := ⟨15, 2, true, 0, 0⟩
    Ready s (.ld o) 2 0 (wpOf s) ∧ (wEnv s (.ld o)).on 15 = [0] ++ 1 :: (List.range 30).map (· + 2) ∧
    (∃ x, (wRun s (.ld o)).locOf (wEnv s (.ld o)) o .load 0 = .ok x ∧ true = true) ∧
    ux (((wEnv s (.ld o)).v 1 2).toNat + o.off) 32 = 256 ∧ (wpOf s).privSize = 256 ∧
    Ready s (.st o) 2 0 (wpOf s) ∧ (∃ x, (wRun s (.st o)).locOf (wEnv s (.st o)) o .store 0 = .ok x ∧ true = true) ∧
    Ready s (.cctlInv c) 2 0 (wpOf s) ∧ Ready s (.cctlWb c) 2 0 (wpOf s) ∧
    (∃ x, (wRun s (.cctlWb c)).cctlLoc (wEnv s (.cctlWb c)) c 0 = .ok x ∧ true = true) ∧
    Ready none' (.ld o) 2 0 (wpOf none') ∧ (wpOf none').privSize < 0 + 4 ∧ (wEnv none' (.ld o)).on 15 = [] ++ 0 :: (List.range 31).map (· + 1) := by
  and_intros <;> first | decide +kernel | exact ready_of (by decide +kernel) | exact ok_of (p := fun _ => true) (by decide +kernel)

/-- Causes 0x12, 0x04 before it, and 0x05, with TADDR and TLANE, in the handler (R120, R130, R302). -/
theorem test_lane_faults : let on := fun (s : State) => { s with dev := { s.dev with warps := s.dev.warps.map (fun e => (e.1, { e.2 with tvec := 0x2000100 })) } }
    let x := wpOf (run1 (on (badLane (addr 0x3000000) (addr (2 ^ 52)))) (ldg 0 0))
    let y := wpOf (run1 (on (badLane (addr 0x3000000) (addr (2 ^ 52 + 1)))) (ldg 0 0))
    let z := wpOf (run1 (on (badLane [(2, 252)] [(2, 256)])) (.ld { m0 with d := 4, a := 2, space := .priv }))
    (x.tcause, x.taddr.toNat, x.tlane) = (0x12, 2 ^ 52, 1) ∧ (y.tcause, y.tlane) = (4, 1) ∧ (z.tcause, z.taddr.toNat, z.tlane) = (5, 256, 1) := by decide +kernel

/-- AtomicsIssue: ATOM and CAS on team memory, a mergeable RED and a releasing ATOM on global memory. -/
theorem test_wit_atomics : let s := lv (addr 0x3000000)
    let t := lv [(2, 64)]
    let ta : AtomOp := { a0 with g := 0, d := 4, a := 2, b := 6, team := true }
    let ca : AtomOp := { ta with c := 8 }
    let rg : AtomOp := { a0 with a := 2, b := 6 }
    let ga : AtomOp := { a0 with d := 4, a := 2, b := 6, ord := 3, scope := 2 }
    let locs := fun (s : State) (i : Instr) (o : AtomOp) (k : Nat) (a : Acc) => checked k (((wEnv s i).on o.g).map (fun l => (l, (wRun s i).atomLoc (wEnv s i) o a 4 l)))
    [Instr.atom ta, .cas ca].all (readyB t) = true ∧ [Instr.red rg, .atom ga].all (readyB s) = true ∧
    (∃ ls, locs t (.atom ta) ta 2 .atomic = .ok ls ∧ (decide (ls.map (·.1) = [0]) && ((teamOf ls).findSome? (fun x => (wRun t (.atom ta)).tpoisonRow 1 x.2 4)).isNone) = true) ∧
    (∃ ls, locs t (.cas ca) ca 2 .atomic = .ok ls ∧ decide (ls.map (·.1) = [0]) = true) ∧
    (∃ ls, locs s (.red rg) rg 1 .store = .ok ls ∧ (decide (ls.length = 32) && !anyRemote ls && atomPartial rg.op &&
      !(globOf ls).any (fun x => (wRun s (.red rg)).lineBusy 0 (nkey none x.2.1 / 128))) = true) ∧
    (∃ ls, locs s (.atom ga) ga 2 .atomic = .ok ls ∧ decide (ls.length = 32) = true) ∧ (wEnv s (.red rg)).on 15 ≠ [] ∧
    (wRun s (.red rg)).storeWaits (wEnv s (.red rg)) ((wEnv s (.red rg)).on 15) = false ∧
    (∃ r', (wRun s (.atom ga)).release 2 (wEnv s (.atom ga)).wp ((wEnv s (.atom ga)).on 15) 2 = (true, r')) ∧
    ((wRun s (.atom ga)).release 2 (wEnv s (.atom ga)).wp ((wEnv s (.atom ga)).on 15) 2).2.nodeOf 0 = none := by
  and_intros <;> first | decide +kernel | exact ok_of (by decide +kernel) | exact true_of (by decide +kernel)

/-- ATOM.t.add by 32 lanes: each takes the sum before it, in lane order (R136). -/
theorem test_atom_team : let s := withL (fun y => { y with v := [(2, 64), (6, 1)] })
    let i := Instr.atom { a0 with d := 4, a := 2, b := 6, team := true }
    vAt s i 0 4 = 0 ∧ vAt s i 31 4 = 31 ∧ (Run.of (run1 s i)).treadN 1 64 4 = [32, 0, 0, 0] := by decide +kernel

/-- FencesAndCacheControl: a release that has completed and one that waits for WCH, an acquire; each CCTL. -/
theorem test_wit_fences : let s := lv (addr 0x3000000)
    let late := withW (fun w => { w with wch := 1000 })
    let c : CctlOp := ⟨15, 2, false, 0, 0⟩
    let ls := fun (i : Instr) (c : CctlOp) => checked 0 (((wEnv s i).on 15).map (fun l => (l, (wRun s i).cctlLoc (wEnv s i) c l)))
    [Instr.fenceAcq 15 2, .fenceRel 15 2, .fenceAr 15 4, .fenceSc 15 2, .cctlPf c, .cctlPf ⟨15, 4, true, 2, 0⟩, .cctlPf2 c, .cctlInv c, .cctlWb c, .cctlInvall c].all (readyB s) = true ∧
    (wEnv s (.fenceAcq 15 2)).on 15 ≠ [] ∧ ((wEnv s (.fenceAcq 15 2)).on 15).all (fun l => !(wRun s (.fenceAcq 15 2)).laneLoads 2 l) = true ∧
    (∃ r, (wRun s (.fenceSc 15 2)).release 2 (wEnv s (.fenceSc 15 2)).wp ((wEnv s (.fenceSc 15 2)).on 15) 2 = (true, r)) ∧
    readyB late (.fenceRel 15 2) = true ∧ ((wRun late (.fenceRel 15 2)).release 2 (wEnv late (.fenceRel 15 2)).wp ((wEnv late (.fenceRel 15 2)).on 15) 2).1 = false ∧
    (wRun s (.fenceAr 15 4)).nodeOf 0 = none ∧ (∃ x, ls (.cctlInv c) c = .ok x ∧ true = true) ∧ (∃ x, ls (.cctlWb c) c = .ok x ∧ true = true) ∧
    (wEnv s (.cctlInvall c)).on 15 ≠ [] := by
  and_intros <;> first | decide +kernel | exact ok_of (p := fun _ => true) (by decide +kernel) | exact true_of (by decide +kernel)

/-- UniformLoadsAndStores: on CC1, on a split in each space, and UST. -/
theorem test_wit_uniform_memory : let u := us [(2, 0x3000000)]
    let g : UMemOp := { um0 with d := 4, a := 2 }
    let c : UMemOp := { um0 with d := 4, a := 255, cst := true, width := 2 }
    let k := cc 1
    let n : UMemOp := { um0 with d := 4, a := 255, off := 0x1000 }
    let late := ccAt 1 (fun c => { c with wch := 1000 })
    let rel : UMemOp := { n with ord := true }
    ReadyCc k (.uld n) 1 ∧ ReadyCc k (.ust n) 1 ∧ (Run.of k).ccLoc (k.core 1).mode false ((k.envCc (.uld n) 1).uaddr n) 4 = none ∧
    (Run.of k).ccLoc (k.core 1).mode true ((k.envCc (.ust n) 1).uaddr n) 4 = none ∧ ReadyCc k (.ust rel) 1 ∧
    (Run.of k).ccReleased 1 = true ∧ ReadyCc late (.ust rel) 1 ∧ (Run.of late).ccReleased 1 = false ∧ k.dev.ms.partials = [] ∧ k.dev.ms.poison = [] ∧ k.memOk ∧
    Ready u (.uld g) 2 0 (wpOf u) ∧
    (wRun u (.uld g)).globLoc ((wRun u (.uld g)).spaceAt (wEnv u (.uld g))) .load ((wEnv u (.uld g)).uaddr g) 4 = .ok (.glob (run 0x3000000 4) false) ∧
    (wRun u (.uld g)).anyBad (wEnv u (.uld g)) none (fun _ => 4) false [(0, .glob (run 0x3000000 4) false)] = none ∧
    (wRun u (.uld g)).overlaps (wEnv u (.uld g)) none (((wpOf u).split 0).map (fun k => (k, .glob (run 0x3000000 4) false))) = false ∧
    ((wpOf u).split 0).any (fun k => (wRun u (.uld g)).laneAcq 2 k) = false ∧
    Ready u (.uld c) 2 0 (wpOf u) ∧ ((wRun u (.uld c)).grid 0).isSome = true ∧
    (∃ x, (wRun u (.uld c)).xlateN ((wRun u (.uld c)).spaceAt (wEnv u (.uld c))) .load false 0 16 = .ok x ∧ ((wRun u (.uld c)).poisonRow none x.1).isNone = true) ∧
    Ready u (.ust g) 2 0 (wpOf u) ∧
    (wRun u (.ust g)).globLoc ((wRun u (.ust g)).spaceAt (wEnv u (.ust g))) .store ((wEnv u (.ust g)).uaddr g) 4 = .ok (.glob (run 0x3000000 4) false) ∧
    (wRun u (.ust g)).storeWaits (wEnv u (.ust g)) ((wpOf u).split 0) = false := by
  and_intros <;> first | decide +kernel | exact ok_of (by decide +kernel) | exact ready_of (by decide +kernel)
                       | exact ready_cc_of (by decide +kernel) | exact memOk_of (by decide +kernel) | exact eq_ok (by decide +kernel)

/-- UST by CC1 at 0x1000 and ULD of it: lowest byte first, physical. -/
theorem test_cc_memory : let n : UMemOp := { um0 with d := 4, a := 255, off := 0x1000 }
    let s := ccAt 1 (fun c => { c with s := [(4, 0xA1B2C3D4)] })
    (run1 s (.ust n)).mem.readN 0x1000 4 = [0xD4, 0xC3, 0xB2, 0xA1] ∧
    lookD ((run1 { cc 1 with mem := [(0x1001, 0x80)] } (.uld n)).core 1).s 4 0 = 0x8000 := by decide +kernel

/-! ### Witnesses of system registers and control cores -/

/-- The test machine with service records waiting, and a change of its system registers. -/
def sysd (f : Sys → Sys) : State → State := dv (fun d => { d with sys := f d.sys })
/-- The test machine in its handler. -/
def hs (l : List (Nat × Word)) : State := withW (fun w => { w with tvec := 0x2000100, mode := .handler, tmask := 1, s := l })
def rec0 : Svc := ⟨0, 0, 9, 77, 0, 0, 2, false⟩

def ccReg (k : Nat) (l : List (Nat × Word)) : State := ccAt k (fun c => { c with s := l })

/-- SystemRegisters: WST and TVEC of a warp, SVCREC and others of CC3, LEASE of a valid partition. -/
theorem test_wit_system : let k := cc 3
    let r := Run.of k
    Ready (hs []) (.mfsr 7 4 false 0) 2 0 (wpOf (hs [])) ∧ (wEnv (hs []) (.mfsr 7 4 false 0)).ug 7 = true ∧
    Ready (hs []) (.mtsr 7 4 false 0) 2 0 (wpOf (hs [])) ∧ (wEnv (hs []) (.mtsr 7 4 false 0)).ug 7 = true ∧
    ReadyCc k (.mfsr 7 4 false 0x021) 3 ∧ ReadyCc k (.mfsr 7 4 true 0x05A) 3 ∧ (k.envCc (.mfsr 7 4 true 0x05A) 3).ug 7 = true ∧
    ReadyCc k (.mtsr 7 4 true 6) 3 ∧ (k.envCc (.mtsr 7 4 true 6) 3).ug 7 = true ∧
    (let late := ccAt 3 (fun c => { c with wch := 1000, s := [(4, 7)] });
      ReadyCc late (.mtsr 7 4 false 0x054) 3 ∧ (Run.of (ccReg 3 [(4, 7)])).ccStarts 7 = false ∧
      (Run.of (sysd (fun x => { x with ccrun := 8 }) late)).ccStarts 7 = true ∧ (Run.of late).ccReleased 3 = false) ∧
    (r.part (r.cc 3).lpsel).isSome = true ∧ ((r.ccSet 3 0x020 9 false).part (r.cc 3).lpsel).map (·.lease) = some 64 ∧
    (r.ccSet 3 0x031 9201 false).dev.sys.tokrate = 9200 ∧ (r.ccSet 3 0x031 9199 false).dev.sys.tokrate = 9199 ∧
    (r.ccSet 3 0x032 499 false).dev.sys.qclk = 500 ∧ (r.ccSet 3 0x033 1201 false).dev.sys.qpwr = 1200 := by
  and_intros <;> first | decide +kernel | exact ready_of (by decide +kernel) | exact ready_cc_of (by decide +kernel)

/-- ControlCoreInstructions: TLBI of a page, a partition and everything with nothing older and with a store on its way; a page that
is not canonical and partitions that are not valid; WFI with and without a pending interrupt; HIRQ's message numbers 2047 and 2048;
ECALL by CC1, by CC3, and by a warp. -/
theorem test_wit_cc_tlbi : let k := cc 3
    let st := dv (fun d => { d with ms := { d.ms with stores := [(0, ⟨0, 2, [0], 0, none, 0x3000000, [1], false, none, 0, []⟩)], nextId := 1 } }) k
    let far := ccReg 3 [(5, 0x100000)]
    ReadyCc k (.tlbiPage 7 4 8 0) 3 ∧ canonical ((k.envCc (.tlbiPage 7 4 8 0) 3).us2 4) = true ∧ ((Run.of k).part 0).isSome = true ∧
    ReadyCc k (.tlbiPart 7 0) 3 ∧ ReadyCc k (.tlbiAll 7 0) 3 ∧ (Run.of k).older (some 0) k.dev.ms.nextId = false ∧
    (Run.of k).older none k.dev.ms.nextId = false ∧ (k.core 3).waiting ≠ 4 ∧
    ReadyCc st (.tlbiAll 7 0) 3 ∧ (Run.of st).older none st.dev.ms.nextId = true ∧
    ReadyCc far (.tlbiPage 7 4 8 0) 3 ∧ canonical ((far.envCc (.tlbiPage 7 4 8 0) 3).us2 4) = false ∧
    ReadyCc k (.tlbiPage 7 4 8 5) 3 ∧ ReadyCc k (.tlbiPart 7 5) 3 ∧ (Run.of k).part 5 = none ∧
    (k.envCc (.tlbiAll 7 0) 3).ug 7 = true ∧
    ReadyCc k (.cinvIcache 7 0) 3 ∧ ReadyCc k (.cinvCcache 7 0) 3 ∧ ReadyCc k (.cinvL1 7 0) 3 := by
  and_intros <;> first | decide +kernel | exact ready_cc_of (by decide +kernel)

theorem test_wit_cc_waits : let k := cc 3
    let low := ccReg 3 [(4, 2047)]
    let high := ccReg 3 [(4, 2048)]
    let wl := hs [(4, 2047)]
    let wh := hs [(4, 2048)]
    let irq := ccAt 1 (fun c => { c with intp := 2 })
    let asked : CcCall := { pc := ((cc 1).core 1).pc, deep := false, operand := 0, code := 9, sd := 4, sent := true, reply := none }
    let told := ccAt 1 (fun c => { c with calls := [{ asked with reply := some 77 }] })
    let open' := ccAt 1 (fun c => { c with calls := [asked] })
    let late := ccAt 3 (fun c => { c with wch := 1000, mode := .supervisor, s := [(4, 2047)] })
    ReadyCc (cc 1) (.wfi 7) 1 ∧ ((cc 1).core 1).intp = 0 ∧ ReadyCc irq (.wfi 7) 1 ∧ (irq.core 1).intp ≠ 0 ∧
    ReadyCc k (.halt 7) 3 ∧ (k.envCc (.halt 7) 3).ug 7 = true ∧
    ReadyCc low (.hirq 7 4 0) 3 ∧ ((Run.of low).part 0).isSome = true ∧ ((low.envCc (.hirq 7 4 0) 3).us 4).toNat < 2048 ∧
    ReadyCc high (.hirq 7 4 0) 3 ∧ 2048 ≤ ((high.envCc (.hirq 7 4 0) 3).us 4).toNat ∧
    ReadyCc low (.hirq 7 4 5) 3 ∧ (Run.of low).part 5 = none ∧
    Ready wh (.hirq 7 4 0) 2 0 (wpOf wh) ∧ ((wRun wh (.hirq 7 4 0)).part (((wRun wh (.hirq 7 4 0)).partOfCore 0).getD 0)).isSome = true ∧
    2048 ≤ ((wEnv wh (.hirq 7 4 0)).us 4).toNat ∧
    Ready wl (.hirq 7 4 0) 2 0 (wpOf wl) ∧ ((wEnv wl (.hirq 7 4 0)).us 4).toNat < 2048 ∧ (wRun wl (.hirq 7 4 0)).nodeOf 0 = none ∧
    (∃ r', (wRun wl (.hirq 7 4 0)).release 2 (wEnv wl (.hirq 7 4 0)).wp everyLane 4 = (true, r')) ∧
    (Run.of low).ccReleased 3 = true ∧ ReadyCc late (.hirq 7 4 0) 3 ∧ ReadyCc late (.ecall 7 4 5 9) 3 ∧ (Run.of late).ccReleased 3 = false ∧
    ReadyCc k (.ecall 7 4 5 9) 3 ∧ (k.core 3).mode = .machine ∧ ReadyCc (cc 1) (.ecall 7 4 5 9) 1 ∧ ((cc 1).core 1).call = none ∧
    (Run.of (cc 1)).ccReleased 1 = true ∧ ReadyCc (cc 1) (.ecall 7 4 5 0) 1 ∧ ReadyCc told (.ecall 7 4 5 9) 1 ∧
    (told.core 1).call = some { asked with reply := some 77 } ∧ (Run.of told).ccReleased 1 = true ∧
    ReadyCc open' (.ecall 7 4 5 9) 1 ∧ (open'.core 1).call = some asked ∧ (Run.of open').ccReleased 1 = true ∧ Ready s0 (.ecall 7 4 5 0) 2 0 (wpOf s0) ∧
    Ready s0 (.ecall 7 4 5 9) 2 0 (wpOf s0) ∧
    (∃ r', (wRun s0 (.ecall 7 4 5 9)).release 2 (wEnv s0 (.ecall 7 4 5 9)).wp ((wpOf s0).split 0) 2 = (true, r')) ∧
    ((wRun s0 (.ecall 7 4 5 9)).release 2 (wEnv s0 (.ecall 7 4 5 9)).wp ((wpOf s0).split 0) 2).2.dev.sys.freeTicket 0 = some 0 := by
  and_intros <;> first | decide +kernel | exact ready_of (by decide +kernel) | exact ready_cc_of (by decide +kernel)
                       | exact true_of (by decide +kernel)

/-- ServiceRecordsAndControlSteps: CC1's call undelivered and delivered; a record that waits and one that was popped; a watchdog at 1. -/
def asked (k : Nat) (sent : Bool) : CcCall :=
  { pc := ((cc k).core k).pc, deep := false, operand := 77, code := 9, sd := 4, sent := sent, reply := none }
def calling (k : Nat) (sent : Bool) (n : Nat) : State := ccAt k (fun c => { c with calls := [asked k sent], waiting := n })

theorem test_wit_service : let call := calling 1 false 3
    let given := calling 1 true 3
    let old := sysd (fun x => { x with svc := [rec0] }) (cc 3)
    let popped := sysd (fun x => { x with svc := [{ rec0 with popped := true }] }) (cc 3)
    let away := calling 1 true 0
    let dog := ccAt 1 (fun c => { c with wdog := 1 })
    let idle := sysd (fun x => { x with ccrun := 8 }) (cc 3)
    ((call.core 3).busy = false ∧ call.dev.sys.ccrun.getLsbD 3 = true ∧ call.dev.sys.ccrun.getLsbD 1 = true ∧
      (Run.of call).callDue 1 = some (asked 1 false) ∧ (Run.of call).callDue 0 = none) ∧
    old.dev.sys.svc.find? (fun y => !y.popped) = some rec0 ∧
    (bitOf (5 : Nat) 63 = false ∧ popped.dev.sys.svc.find? (fun y => y.popped && y.part == fld 5 60 3 && y.ticket == fld 5 50 10) =
      some { rec0 with popped := true } ∧ lookM popped.dev.warps 2 = some (wpOf popped)) ∧
    (bitOf (2 ^ 63 + 2 ^ 32 + 5) 63 = true ∧ (given.core 3).mode = .machine ∧ fld (2 ^ 63 + 2 ^ 32 + 5) 32 2 = 1 ∧
      (given.core 1).asked = some (asked 1 true) ∧ (given.core 1).call = some (asked 1 true) ∧ (given.core 1).waiting = 3 ∧
      (away.core 1).asked = some (asked 1 true) ∧ (away.core 1).waiting ≠ 3) ∧
    ((Run.of idle).mayRun 3 = true ∧ (Run.of idle).ccReleased 3 = true ∧ idle.dev.sys.ccrun.getLsbD 1 = false ∧ idle.dev.sys.ccrun.getLsbD 3 = true) ∧
    (dog.dev.sys.ccrun.getLsbD 1 = true ∧ (dog.core 1).wdog = 1 ∧ (dog.core 1).busy = false ∧ dog.dev.sys.scc < 4) := by decide +kernel

/-- A reply that comes while the core's handler runs is kept for the ECALL executed anew, which another one in the handler does not
take (R307); code 0 is answered with 0 at once (R314). -/
theorem test_reply_kept : let t := run1 (calling 1 true 0) (.svcrplAnswerCc 3 (2 ^ 63 + 2 ^ 32 + 5))
    let inside := { t with dev := { t.dev with sys := { t.dev.sys with cc := t.dev.sys.cc.modify 1 (fun c => { c with busy := true }) } } }
    (t.core 1).calls = [{ asked 1 true with reply := some 5 }] ∧ lookD ((run1 t (.ecall 7 4 5 9)).core 1).s 4 0 = 5 ∧
    ((run1 t (.ecall 7 4 5 9)).core 1).calls = [] ∧ lookD ((run1 inside (.ecall 7 4 5 9)).core 1).s 4 0 = 0 ∧
    ((run1 inside (.ecall 7 4 5 9)).core 1).calls.length = 2 ∧
    lookD ((run1 (ccAt 1 (fun c => { c with s := [(4, 9)] })) (.ecall 7 4 5 0)).core 1).s 4 0 = 0 := by decide +kernel

/-- SVCREC's word (R314), TEPC of a call delivered from CC1 to CC3, and an INTP bit cleared by a one. -/
theorem test_system : let s := calling 1 false 3
    let t := run1 s .serviceCallDelivery
    (t.core 3).tcause = 0x15 ∧ (t.core 3).tepc = (s.core 3).pc ∧
    lookD ((run1 (sysd (fun x => { x with svc := [rec0] }) (cc 3)) (.mfsr 7 4 true 0x05A)).core 3).s 5 0 = 0x80000009 ∧
    ((run1 (ccAt 1 (fun c => { c with intp := 3 })) (.intpClear 1 1)).core 1).intp = 2 ∧
    ((run1 (ccReg 3 [(4, 0xFFFF0000), (5, 7)]) (.mtsr 7 4 true 6)).core 3).tvec = 0x7FFFF0000 := by decide +kernel

/-! ### Witnesses of quires and stream engines -/

/-- A quire 3 of the test team on core 0: 4 slots of 128 bytes from 1024. -/
def inq : Quire := { base := 1024, size := 128, count := 4, win := 2, out := false, broken := false, f := 2, c := 0, slots := [(0, 2), (1, 1)] }
def outq : Quire := { inq with out := true, slots := [(0, 2)] }
def quired (z : Quire) : State → State :=
  dv (fun d => { d with cores := [(0, { Core.empty with quires := [(quireKey 1 3, z)] })] })

/-- QuireInstructions: each case of QBIND's, QWAIT's and QREL's answers. -/
theorem test_wit_quire : let q := quired inq s0
    let one := quired inq (us [(5, 1)])
    let broken := quired { inq with broken := true } (us [(5, 1)])
    let o := quired outq (us [(5, 1)])
    let r := Run.of q
    [q, s0].all (fun s => [Instr.qbind 7 4 8 false 3, .qwait 7 4 5 3, .qrel 7 4 5 3, .qstat 7 4 5 3].all (readyB s)) = true ∧
    [one, broken, o].all (fun s => [Instr.qwait 7 4 5 3, .qrel 7 4 5 3].all (readyB s)) = true ∧
    r.quire 0 1 3 = some inq ∧ inq.idle = false ∧ (Run.of s0).quire 0 1 3 = none ∧
    ((Run.of s0).qbind 0 1 0 3 false 1024 128 4 2).1 = 0 ∧
    inq.usable 0 = true ∧ inq.usable 1 = false ∧ ((wEnv one (.qwait 7 4 5 3)).us 5).toNat = 1 ∧ inq.releasable 0 = true ∧
    inq.releasable 1 = false ∧ outq.releasable 1 = true ∧
    (∃ r', (wRun o (.qrel 7 4 5 3)).release 2 (wEnv o (.qrel 7 4 5 3)).wp ((wpOf o).split 0) 1 = (true, r')) ∧ 5 % inq.count ≠ 0 % inq.count := by
  and_intros <;> first | decide +kernel | exact true_of (by decide +kernel)

/-- QSTAT's words 0, 4 and 5 by Table 11.3; QREL's slot, and an out slot made ready. -/
theorem test_quire : let q := quired inq s0
    sAt q (.qstat 7 4 0 3) 4 = 6 ∧ sAt q (.qstat 7 4 4 3) 4 = 2 ∧ sAt q (.qstat 7 4 5 3) 4 = 0x81010000 ∧
    ((Run.of (run1 q (.qrel 7 4 5 3))).quire 0 1 3).map (fun z => (z.slots, z.c)) = some ([(1, 1)], 1) ∧
    ((Run.of (run1 (quired outq (us [(5, 5)])) (.qrel 7 4 5 3))).quire 0 1 3).map (fun z => (z.slots, z.f)) = some ([(0, 2), (1, 2)], 3) := by
  decide +kernel

/-- StreamCommands: a loop open and not; NEXT below and at its count; a fill of two rows in both forms and a drain. -/
def tiled : CmdList := { list0 with tile := some (2, 64, 64), database := 0x3100000, indexbase := 0x3200000 }

theorem test_wit_stream : let open' : CmdList := { list0 with loops := [(1, 0x3000008)], count := [1, 2, 1, 1] }
    let last : CmdList := { open' with idx := [0, 1, 0, 0] }
    let f := quired { inq with f := 1, slots := [] } (listed tiled 0)
    let o := quired outq (listed tiled 0)
    let r := Run.of f
    let a := (r.spaceOfGrid tiled.grid).ofStack 0
    ReadyList (listed list0 0) 0 0 list0 ∧ ReadyList (listed open' 0) 0 0 open' ∧ ReadyList (listed last 0) 0 0 last ∧
    (Instr.dim 1 4 128).wf = true ∧ open'.isOpen 1 = true ∧ list0.isOpen 1 = false ∧ (Instr.next 1).wf = true ∧
    nthD open'.idx 1 0 + 1 < nthD open'.count 1 0 ∧ nthD last.count 1 0 ≤ nthD last.idx 1 0 + 1 ∧ list0.loops.head? = none ∧
    ReadyList f 0 0 tiled ∧ (Instr.push 3 1).wf = true ∧ fillBad tiled (r.gangOf tiled) 1 (r.quiresOf tiled 3 (membersOf 1)) = none ∧
    r.fillFree tiled.team (r.quiresOf tiled 3 (membersOf 1)) = true ∧
    (∃ x, r.rowsRead a (r.nodeOf tiled.grid) 64 ((List.range 2).map (fun j => pitched tiled.addr j 64)) = .ok x ∧ true = true) ∧
    (∃ x, r.rowsRead a (r.nodeOf tiled.grid) 4 ((List.range 2).map (fun j => (tiled.indexbase + 4 * j) % 2 ^ 64)) = .ok x ∧
      (match x.2.rowsRead ((x.2.spaceOfGrid tiled.grid).ofStack 0) (x.2.nodeOf tiled.grid) 64
        (x.1.map (fun w => pitched tiled.addr (ofBytes w) 64)) with | .ok _ => true | .error _ => false) = true) ∧
    ReadyList o 0 0 tiled ∧ (Instr.pull 3 1).wf = true ∧ membersOf 1 = [0] ∧ (Run.of o).gangOf tiled = 1 ∧
    (Run.of o).quire ((Run.of o).memberCore 1 0) 1 3 = some outq ∧ 2 * 64 ≤ outq.size ∧ (Run.of o).teamSaved 1 = false ∧
    outq.slot outq.c = 2 ∧ outq.draining < outq.win ∧ (Run.of o).tpoisoned 1 1024 128 = false ∧
    (∃ x, (Run.of o).rowsPas a 64 ((List.range 2).map (fun j => pitched tiled.addr j 64)) = .ok x ∧ (!x.2) = true) := by
  and_intros <;> first | decide +kernel | exact ok_of (by decide +kernel) | exact ready_list (by decide +kernel)
                       | exact ok_of (p := fun _ => true) (by decide +kernel)

/-- ListsAndTransfers: SEGO at a misaligned address, with engine 0 and with any; SECAN; SIG and STOP that wait and that go on; a
cancelled list; a fill and a drain that complete. -/
def fill : Transfer := { pull := false, quire := 3, parts := [(0, 0, false)], index := 0, data := [(0, 7), (1, 8)] }
def drain : Transfer := { fill with pull := true }

theorem test_wit_lists : let u := us [(4, 0x3000000)]
    let m := us [(4, 0x3000004)]
    let o : UXOp := ⟨7, 8, 4, 6⟩
    let i := Instr.sego { o with b := 0 } true
    let busy : CmdList := { list0 with gwct := 2000 }
    let running := dv (fun d => { d with lists := [(0, list0)] }) (us [(5, 0x10000)])
    let gone : CmdList := { list0 with cancel := true }
    let z : Quire := { inq with slots := [(0, 1)] }
    let fl := quired z (listed { list0 with transfers := [(5, fill)] } 0)
    let dl := listed { list0 with transfers := [(5, drain)] } 0
    readyB u i = true ∧ readyB u (.sego o false) = true ∧ readyB m i = true ∧
    (wRun m i).segoFail (wEnv m i) none ((wEnv m i).us2 4) = some 0x80000003 ∧ (wRun u i).segoFail (wEnv u i) none ((wEnv u i).us2 4) = none ∧
    (∃ r', (wRun u i).release 2 (wEnv u i).wp everyLane 2 = (true, r')) ∧
    readyB running (.secan 7 8 5) = true ∧ lookM running.dev.lists 0 = some list0 ∧ list0.handle = false ∧ ((wEnv running (.secan 7 8 5)).us 5).toNat = listId 0 list0.gen ∧
    readyB s0 (.secan 7 8 5) = true ∧ lookM s0.dev.lists 0 = none ∧
    ReadyList (listed list0 0) 0 0 list0 ∧ (Instr.sig 0x3100000).wf = true ∧ (Run.of (listed list0 0)).settled list0 = true ∧ (listed list0 0).dev.ms.partials = [] ∧
    (listed list0 0).memOk ∧ (∃ x, (Run.of (listed list0 0)).rowPas (((Run.of (listed list0 0)).spaceOfGrid 0).ofStack 0) .store 0x3100000 8 = .ok x ∧ (!x.2 && x.1.head? == some 0x3100000) = true) ∧
    (Run.of (listed list0 0)).nodeOf 0 = none ∧ ReadyList (listed busy 0) 0 0 busy ∧ (Run.of (listed busy 0)).settled busy = false ∧
    lookM (listed gone 0).dev.lists 0 = some gone ∧ gone.running = true ∧ gone.aborting = none ∧ gone.cancel = true ∧
    ((Run.of fl).findTransfer 5).map (fun y => (y.1, y.2.2)) = some (0, fill) ∧ (Run.of fl).teamSaved 1 = false ∧
    fill.parts.find? (fun p => !p.2.2 && (Run.of fl).memberCore 1 p.1 == 0) = some (0, 0, false) ∧
    (Run.of fl).lowerOpen 1 0 3 0 false = false ∧ (Run.of fl).quire 0 1 3 = some z ∧
    ((Run.of dl).findTransfer 5).map (fun y => (y.1, y.2.2)) = some (0, drain) ∧ (Run.of dl).lowerOpen 1 0 3 0 true = false := by
  and_intros <;> first | decide +kernel | exact ok_of (by decide +kernel) | exact ready_list (by decide +kernel)
                       | exact memOk_of (by decide +kernel) | exact true_of (by decide +kernel)

/-- A PUSH of two rows whose slot becomes ready with their bytes; NEXT's two ways; SIG's doubleword. -/
theorem test_stream : let s := { quired { inq with f := 1, slots := [] } (listed tiled 0) with mem := s0.mem.writes [(0x3100000, 5), (0x310007F, 6)] }
    let x := run1 s (.push 3 1)
    let y := run1 x (.slotReady ((lookM x.dev.lists 0).bind (fun l => l.transfers.head?.map (·.1)) |>.getD 0) 0)
    ((Run.of x).quire 0 1 3).map (fun z => (z.slots, z.f)) = some ([(1, 1)], 2) ∧
    ((Run.of y).quire 0 1 3).map (fun z => z.slots) = some [(1, 2)] ∧ (Run.of y).tread 1 1152 = 5 ∧ (Run.of y).tread 1 1279 = 6 ∧
    ((lookM (run1 (listed { list0 with loops := [(1, 0x3000008)], count := [1, 2, 1, 1] } 0) (.next 1)).dev.lists 0).map (·.pos)) = some 0x3000008 ∧
    (run1 (listed { list0 with done := 3 } 0) (.sig 0x3100000)).mem.readN 0x3100000 8 = [3, 0, 0, 0, 0, 0, 0, 0] := by decide +kernel

/-! ### Witnesses of the matrix unit -/

/-- The test machine's core 0 with slots 0 and 1 and weight set 0 claimed by its team, and set 0's format E4M3. -/
def mat (c : Core → Core) (l : List (Nat × Word)) : State :=
  let x : Core := { Core.empty with slotOwner := [(0, 1), (1, 1)], setOwner := [(0, 1)], setFmt := [(0, (0, 0))], quires := [(quireKey 1 3, inq)] }
  dv (fun d => { d with cores := [(0, c x)] }) (us l)

def zeroOp (id : Nat) : Nat × QOp := (queueKey 4 0 id, ⟨1, 2, .mzero 0, [], [], true, false, none⟩)

/-- The place in the queue of an operation issued in cycle 4 by a warp of partition 0. -/
def qk (n : Nat) : Nat := queueKey 4 0 n

/-- An MMA of 64 rows, bank 2, set 0, E4M3. -/
def mma64 : List (Nat × Word) := [(9, 64), (12, 2)]

/-- A tile handle of 64 rows of 128 bytes at 0x3100000, any engine. -/
def handle64 : Nat := 0x3100000 + 128 * 2 ^ 64 + 64 * 2 ^ 96 + 128 * 2 ^ 112 + 2 ^ 140

theorem test_wit_matrix_queue : let s := mat id []
    let u := mat id [(4, 0), (5, 1024)]
    let m := mat id mma64
    let full := mat (fun c => { c with queue := (List.range 16).map zeroOp }) mma64
    let poor := dv (fun d => { d with power := { d.power with tokens := [0, 0] } }) m
    let bad := mat id [(9, 257)]
    let none' := mat (fun c => { c with slotOwner := (List.range 32).map (fun k => (k, 1)) }) []
    let rival := dv (fun d => { d with
      warps := d.warps ++ [(7, { warp0 with core := 1, team := 9, s := mma64 })]
      cores := d.cores ++ d.cores.map (fun c => (1, { c.2 with slotOwner := [(0, 9), (1, 9)], setOwner := [(0, 9)] }))
      power := { d.power with tokens := [1, 1] }
      sched := { d.sched with
        grids := [(0, { grid0 false with cls := 1 }), (8, grid0 false)]
        teams := d.sched.teams ++ [(9, Team.start pkt0 8 0 [1] pkt0.tbarDefault)] } })
      { m with mem := (State.reset.withFetchWord 64 0x24000000FF000800).mem }
    let idle := dv (fun d => { d with power := { d.power with tokens := [0, 0] } }) rival
    let h := { mat id (mma64 ++ [(8, 0x80000000), (14, 0x3000000)]) with mem := s0.mem.writes ((bytesOf 32 handle64).zipIdx.map (fun e => (0x3000000 + e.2, e.1))) }
    let e := fun (s : State) (i : Instr) => wEnv s i
    let i := Instr.mma 7 8
    [s, none'].all (fun s => readyB s (.mclaim 7 4 false 2)) = true ∧ readyB s (.mclaim 7 4 true 1) = true ∧
    freeRun ((Run.of s).core 0).slotOwner 32 2 = some 2 ∧ freeRun ((Run.of none').core 0).slotOwner 32 2 = none ∧
    readyB (mat id [(4, 32), (5, 2)]) (.mrel 7 12 4 false 2) = true ∧ ((e (mat id [(4, 32), (5, 2)]) (.mrel 7 12 5 true 1)).us 5).toNat = 2 ∧
    readyB (mat id [(4, 32), (5, 2)]) (.mrel 7 12 5 true 1) = true ∧
    [Instr.mrel 7 12 4 false 2, .mlds 7 4 5 128 0, .mldsQ 7 4 6 3 128 0, .mwld 7 4 6 0 0, .mhad 7 4 0 1 0, .maccSt 7 4 5 4 0, .maccLd 7 4 5 4 0,
      .mzero 7 4].all (readyB u) = true ∧ readyB full i = true ∧ 16 ≤ ((Run.of full).core 0).queue.length ∧ i.uniGuard = some 7 ∧
    ((Run.of u).core 0).queue.length < 16 ∧ (wRun u (.mlds 7 4 5 128 0)).unclaimed (e u (.mlds 7 4 5 128 0)) 0 1 = none ∧
    teamOk ((Run.of u).teamGeom 0).1 ((Run.of u).teamGeom 0).2 1024 128 = true ∧
    (∃ x, (wRun u (.mldsQ 7 4 6 3 128 0)).quireLoc (e u (.mldsQ 7 4 6 3 128 0)).wp (e u (.mldsQ 7 4 6 3 128 0)).met 3 0 0 128 false = .ok x ∧ decide (x = .team 1024) = true) ∧
    (wRun u (.mwld 7 4 6 0 0)).setMine (e u (.mwld 7 4 6 0 0)) 0 = true ∧ (wRun u (.mzero 7 4)).bankOk (e u (.mzero 7 4)) 0 = true ∧
    ((Run.of u).core 0).busyBank 1 0 = false ∧
    [m, poor, bad, h].all (fun s => readyB s i) = true ∧
    mmaBad (fun k => ((e m i).us (8 + k)).toNat) = none ∧ mmaBad (fun k => ((e bad i).us (8 + k)).toNat) = some 1 ∧
    ((wRun m i).mmaCheck (e m i) (mmaBlock (fun k => ((e m i).us (8 + k)).toNat))).isNone = true ∧
    ((Run.of m).grid 0).map (·.cls) = some 0 ∧ (wRun m i).refill 0 = 9200 ∧ (wRun m i).mmasBefore (e m i) 0 = [] ∧ (wRun m i).tokensFor (e m i) 0 0 = 9200 ∧ (wRun poor i).tokensFor (e poor i) 0 0 = 0 ∧
    readyB rival i = true ∧ (wRun rival i).mmasBefore (e rival i) 1 = [(0, 1)] ∧ (wRun rival i).tokensFor (e rival i) 0 1 = 0 ∧ (wRun idle i).tokensFor (e idle i) 0 1 = 0 ∧ nthD m.dev.power.tokens 0 0 = 9200 ∧ nthD poor.dev.power.tokens 0 0 = 0 ∧
    mmaBad (fun k => ((e h i).us (8 + k)).toNat) = none ∧ (mmaBlock (fun k => ((e h i).us (8 + k)).toNat)).h = true ∧
    ((wRun h i).mmaCheck (e h i) (mmaBlock (fun k => ((e h i).us (8 + k)).toNat))).isNone = true ∧
    (wRun h i).globLoc ((wRun h i).spaceAt (e h i)) .load 0x3000000 32 = .ok (.glob (run 0x3000000 32) false) ∧
    ((wpOf h).split 0).any (fun k => (wRun h i).laneAcq 2 k) = false ∧
    (wRun h i).overlaps (e h i) ((wRun h i).nodeOf 0) (((wpOf h).split 0).map (fun k => (k, .glob (run 0x3000000 32) false))) = false ∧
    (wRun h i).lineBusy 0 (nkey ((wRun h i).nodeOf 0) 0x3000000 / 128) = false ∧
    (wRun h i).syncRow 0 0 ((wRun h i).nodeOf 0) (run 0x3000000 32) = none ∧
    (let got := ((wRun h i).seeAt 0 2 ((wRun h i).nodeOf 0) (run 0x3000000 32)).loadSync 0 0 ((wRun h i).nodeOf 0) 0x3000000 32;
     ofBytes got.1 = handle64 ∧ got.2.handleOk 0 handle64 64 0 = true ∧ nthD got.2.dev.power.tokens 0 0 = 9200 ∧
       got.2.grid 0 = (wRun h i).grid 0 ∧ got.2.refill 0 = 9200 ∧ got.2.tokensFor (e h i) 0 0 = 9200) := by
  and_intros <;> first | decide +kernel | exact ok_of (by decide +kernel) | exact eq_ok (by decide +kernel)

/-- MatrixOperationsComplete: MWAIT over a queued, a failed and a clean bank; operations behind another and free to complete; a
release of claimed and of unclaimed slots; a tile handle's request. -/
theorem test_wit_matrix_done : let q := (zeroOp 0).2
    let held := dv (fun d => { d with ms := { d.ms with nextId := 2 } }) (mat (fun c => { c with queue := [zeroOp 0, zeroOp 1] }) [])
    let failed := mat (fun c => { c with failed := [bankKey 1 0] }) []
    let clean := mat id []
    let rel : QOp := { q with op := .mrel false 0 2 12 }
    let rel3 : QOp := { q with op := .mrel false 0 3 12 }
    let relq := mat (fun c => { c with queue := [(qk 4, rel), (qk 5, rel3)] }) []
    let h : QOp := { q with op := .mma 0 64 0 0 0 0 false 2 0 (some handle64), streamed := false }
    let hq := mat (fun c => { c with queue := [(qk 4, h)] }) []
    let hp := dv (fun d => { d with lists := [(0, { list0 with running := false, handle := true })] }) (mat (fun c => { c with queue := [(qk 4, { h with place := some 0 })] }) [])
    let i := Instr.mwait 7 4 255
    let still := fun (s : State) => ((wRun s i).core 0).queue.any (fun x => decide (x.1 < (wRun s i).mwaitUpto (wEnv s i)) && x.2.team == 1 &&
      x.2.op.names.contains (128 + ((wEnv s i).us 255).toNat))
    [held, failed, clean].all (fun s => readyB s i && (wRun s i).bankOk (wEnv s i) 0) = true ∧ still held = true ∧ still failed = false ∧
    still clean = false ∧ ((wRun failed i).core 0).failed.contains (bankKey 1 0) = true ∧ ((wRun clean i).core 0).failed.contains (bankKey 1 0) = false ∧
    lookM ((Run.of held).core 0).queue (qk 0) = some q ∧ lookM ((Run.of held).core 0).queue (qk 1) = some q ∧ q.streamed = true ∧
    ((Run.of held).core 0).queue.any (fun e => decide (e.1 < qk 0) && e.2.shares q) = false ∧ queueCycle (qk 0) = 4 ∧ held.clk.cycles = 100 ∧
    ((Run.of held).core 0).queue.any (fun e => decide (e.1 < qk 1) && e.2.shares q) = true ∧
    lookM ((Run.of relq).core 0).queue (qk 4) = some rel ∧ ((Run.of relq).core 0).queue.any (fun e => decide (e.1 < qk 4) && e.2.shares rel) = false ∧
    (run 0 2).all (fun k => lookM ((Run.of relq).core 0).slotOwner k == some 1) = true ∧
    (run 0 3).all (fun k => lookM ((Run.of relq).core 0).slotOwner k == some 1) = false ∧ lookM relq.dev.warps 2 = some (wpOf relq) ∧
    ((Run.of hq).core 0).handleOp = some (qk 4, h, handle64) ∧ h.place = none ∧ (Run.of hq).freePos 0 (hEngine handle64 0) ≠ [] ∧
    (Run.of hq).teamSaved 1 = false ∧ ((Run.of hp).core 0).handleOp = some (qk 4, { h with place := some 0 }, handle64) ∧
    ((Run.of hp).warpReleased 2).1 = true ∧ (((Run.of hp).warpReleased 2).2.team 1).isSome = true ∧
    (∃ x, ((Run.of hp).warpReleased 2).2.rowsRead ((((Run.of hp).warpReleased 2).2.spaceOfGrid 0).ofStack 0) (((Run.of hp).warpReleased 2).2.nodeOf 0)
      (hRowBytes handle64) ((List.range (hRows handle64)).map (fun j => pitched (hBase handle64) j (hPitch handle64))) = .ok x ∧ true = true) := by
  and_intros <;> first | decide +kernel | exact ok_of (p := fun _ => true) (by decide +kernel)

/-- The lowest free run of two slots; 64 rows cost one token, 65 two; MLDS brings its bytes when its turn comes (R211, R217, R222). -/
theorem test_matrix : let m := mat id mma64
    let l := { mat id [(4, 1), (5, 128)] with mem := [] }
    let l := dv (fun d => { d with ms := { d.ms with team := [(tkey 1 128, 9), (tkey 1 255, 7)] } }) l
    let q := run1 l (.mlds 7 4 5 128 256)
    let k := (((Run.of q).core 0).queue.map (·.1)).headD 0
    let late := { q with clk := { q.clk with cycles := 101 } }
    let c := (Run.of (run1 late (.matrixOpComplete 0 k))).core 0
    sAt (mat id []) (.mclaim 7 4 false 2) 4 = 2 ∧ sAt (mat id []) (.mclaim 7 4 true 1) 4 = 1 ∧
    (run1 m (.mma 7 8)).dev.power.tokens = [9199, 9200] ∧
    (run1 (mat id [(9, 128), (12, 2)]) (.mma 7 8)).dev.power.tokens = [9198, 9200] ∧
    ((Run.of q).core 0).queue.map (fun e => e.2.op) = [.mlds 128 1 128 256] ∧ queueCycle k = 100 ∧
    ((Run.of (run1 q (.matrixOpComplete 0 k))).core 0).queue.length = 1 ∧
    lookD c.operand (slotByte 1 256) 0 = 9 ∧ lookD c.operand (slotByte 1 383) 0 = 7 ∧ c.queue = [] := by decide +kernel

/-! ### Witnesses of rendering and volumes -/

/-- A 4 by 4 texture of four bytes a texel at 0x3200000, described at 0x3100000. -/
def texture0 : List (Nat × Byte) := (bytesOf 32 (0x3200000 + 3 * 2 ^ 128 + 3 * 2 ^ 144)).zipIdx.map (fun e => (0x3100000 + e.2, e.1))
def contWarp (l : List (Nat × Word)) : State :=
  let s := mach true { warp0 with lanes := warp0.lanes.map (fun y => { y with v := l }) }
  { s with mem := s.mem.writes texture0 }

/-- A fault of warp 2 that waits for its record, and one whose record has number 0. -/
def fault0 (q : Option Nat) (u : Option Nat) : PFault :=
  { warp := 2, lanes := [3], lane := 3, part := 0, asid := 0, va := 0x40000000, queue := 0, core := 0, kind := 0, why := 0, seq := q, time := 900,
    unit := u, fatal := false, log := none, counts := (0, 0) }

theorem test_wit_textures : let s := contWarp (addr 0x3100000)
    let a := contWarp (addr 0x3100000)
    let e := fun (i : Instr) => wEnv s i
    let r := fun (i : Instr) => wRun s i
    let t := Instr.trace 0 8 8 2 1
    let m := Instr.march 0 8 8 2 4 false false 0 1
    let c := Instr.samplec 0 8 4 2 1
    let far := Instr.susp 0 8 (-16384)
    let low := mach true { warp0 with lanes := warp0.lanes.map (fun y => { y with pc := 4 }) }
    let high := mach true { warp0 with lanes := warp0.lanes.map (fun y => { y with pc := 0x1FFFFFE4 }) }
    let x : Rec := { resume := 0x2000004, grid := 0, kind := 2, n := 8, a := 0, pred := 0, regs := [], work := .susp, slot := 0, core := 0, completed := none, inUse := false }
    let rs := dv (fun d => { d with sched := { d.sched with recs := [(9, x), (10, { x with completed := some 5 })] } }) s0
    let f : PFault := { fault0 (some 0) (some 9) with fatal := true }
    let fatal := dv (fun d => { d with sched := { d.sched with faults := [(6, f)] } }) rs
    [Instr.sample 0 8 4 2, .txf 0 8 4 2, t, m, .susp 0 8 1, c].all (readyB a) = true ∧
    ((e (.sample 0 8 4 2)).on 0).any (fun l => (r (.sample 0 8 4 2)).laneAcq 2 l) = false ∧
    (∃ xs, (r (.sample 0 8 4 2)).texResults (e (.sample 0 8 4 2)) 0 0 2 ((r (.sample 0 8 4 2)).sampleFp (e (.sample 0 8 4 2)) 4) = .ok xs ∧ decide (xs.length = 1) = true) ∧
    (∃ xs, (r (.txf 0 8 4 2)).texResults (e (.txf 0 8 4 2)) 0 0 2 (fun l t => t.fetch1 ((e (.txf 0 8 4 2)).v l 4).toNat ((e (.txf 0 8 4 2)).v l 5).toNat
      ((e (.txf 0 8 4 2)).v l 6).toNat ((e (.txf 0 8 4 2)).v l 7).toNat) = .ok xs ∧ decide (xs.length = 1) = true) ∧
    wrapIndex 0 4 (-1) = some 0 ∧ wrapIndex 1 4 (-1) = some 3 ∧ wrapIndex 2 4 4 = none ∧ wrapIndex 2 4 3 = some 3 ∧ (decodeF Fmt.f32 0x7FC00000).isNan = true ∧ mipSize 4 9 ≤ 1 ∧
    [t, m, .susp 0 8 1, c].all (fun i => ((r i).targetPage (e i) (relTarget (e i).pc 1)).isNone && (r i).targetOk (e i) (relTarget (e i).pc 1) && (r i).recRoom 0 1 && decide ((e i).on 0 = [0]) &&
      ((r i).release 2 (e i).wp [0] 2).1) = true ∧
    badAddr ((e t).v2 0 2) 128 = none ∧ marchBad false ((e m).v2 0 2) ((e m).v2 0 4) = none ∧
    readyB low far = true ∧ (wRun low far).targetPage (wEnv low far) (relTarget (wEnv low far).pc (-16384)) = none ∧
    readyB high (.susp 0 8 8) = true ∧ (wRun high (.susp 0 8 8)).targetPage (wEnv high (.susp 0 8 8)) (relTarget (wEnv high (.susp 0 8 8)).pc 8) = some 0 ∧
    (wRun low far).targetOk (wEnv low far) (relTarget (wEnv low far).pc (-16384)) = false ∧
    (∃ xs, (r c).texResults (e c) 4 0 2 ((r c).sampleFp (e c) 4) = .ok xs ∧ true = true) ∧
    (∃ xs, ((r c).release 2 (e c).wp [0] 2).2.texResults (e c) 4 0 2 (((r c).release 2 (e c).wp [0] 2).2.sampleFp (e c) 4) = .ok xs ∧ true = true) ∧
    lookM rs.dev.sched.recs 9 = some x ∧ x.completed = none ∧ rs.dev.sched.faults.find? (fun e => e.2.unit == some 9) = none ∧
    (∃ ws, (Run.of rs).flushAll.unitResult x = .ok ws ∧ true = true) ∧
    fatal.dev.sched.faults.find? (fun e => e.2.unit == some 9) = some (6, f) ∧ f.fatal = true ∧ lookM fatal.dev.sched.recs 9 = some x ∧ (Ray.of [0x7FC00000, 0, 0, 0, 0, 0, 0, 0]).dead = true := by
  and_intros <;> first | decide +kernel | exact ok_of (by decide +kernel) | exact ok_of (p := fun _ => true) (by decide +kernel)

/-- A texel fetched, 0x80 as 128/255; SUSP's record and where its thread stands, in a partition that holds no memory for the record's
free place. -/
theorem test_texture : let s := contWarp (addr 0x3100000 ++ [(4, 1), (5, 2)])
    let s := { s with mem := s.mem.writes [(0x3200024, 0xFF), (0x3200027, 0x80)] }
    let t := run1 (dv (fun d => { d with sched := { d.sched with parts := [(0, { probePart with ranges := [] })] } }) (contWarp [])) (.susp 0 8 1)
    vAt s (.txf 0 8 4 2) 0 8 = 0x3F800000 ∧ vAt s (.txf 0 8 4 2) 0 11 = 0x3F008081 ∧
    t.dev.sched.recs.map (fun e => (e.2.resume, e.2.kind, e.2.n)) = [(0x2000008, 2, 8)] ∧ (t.laneOf 2 0).st = .suspended ∧ (t.laneOf 2 1).pc = 0x200000C := by
  decide +kernel

/-- A cleared bank whose first slot holds `x`. -/
def bank0 (x : Nat) : Bank :=
  { clear := true, data := ((bytesOf 128 x).zipIdx.map (fun e => (e.2, e.1))).filter (fun e => e.2 != 0) }

/-- Compositing: bank 0 bound without logs, with logs (an empty one and one that overflowed), and not bound. -/
def comp (logs : Bool) (x : Nat) (l : List (Nat × Word)) : State :=
  let b : CBind := ⟨0, logs, 0x3100000, 0⟩
  dv (fun d => { d with cores := [(0, { Core.empty with cbinds := [(bankKey 1 0, b)], banks := [(bankKey 1 0, bank0 x)] })] })
    (withW (fun w => { w with lanes := w.lanes.map (fun y => { y with v := l }) }))

theorem test_wit_compositing : let s := comp false 0 []
    let l := comp true 0 []
    let beyond := comp true (CSlot.start.bits) []
    let add := Instr.cadd 0 8 4 12 13
    let is := [add, .crd 0 8 12, .crdCnt 0 8 12, .crpl 0 8 16 12]
    let bn : CBind := ⟨0, false, 0x3100000, 0⟩
    let f := Instr.cflush 7 4 255
    let c := Instr.cbind 7 4 8 true 0
    let u := us [(10, 0x3100000)]
    is.all (fun i => readyB s i && decide ((wEnv s i).on 0 = [0]) && decide (((wEnv s i).v 0 12).toNat < 2 ^ 13) && decide ((wRun s i).bound (wEnv s i) 0 = some bn) &&
      !(wRun s i).laneAcq 2 0 && ((wRun s i).slotPoison (wEnv s i) 0 0 1).isNone) = true ∧ bn.logs = false ∧
    readyB l (.crpl 0 8 16 12) = true ∧ (∃ x, (wRun l (.crpl 0 8 16 12)).crplLane (wEnv l (.crpl 0 8 16 12)) 16 0 0 0 0 = .ok x ∧ true = true) ∧
    ((wRun beyond (.crpl 0 8 16 12)).cslot (wEnv beyond (.crpl 0 8 16 12)) 0 0).lovf = false ∧ ((wRun l (.crpl 0 8 16 12)).cslot (wEnv l (.crpl 0 8 16 12)) 0 0).logn = 0 ∧
    { CSlot.start with lovf := true }.lovf = true ∧
    readyB (us [(8, 24)]) (.cflush 7 4 8) = true ∧ (wRun (us [(8, 24)]) (.cflush 7 4 8)).banksOf 0 ≤ ((wEnv (us [(8, 24)]) (.cflush 7 4 8)).us 8).toNat ∧
    readyB s f = true ∧ ((wEnv s f).us 255).toNat < (wRun s f).banksOf 0 ∧ (wRun s f).bound (wEnv s f) 0 = some bn ∧ (wRun s f).slotPoison (wEnv s f) 0 0 256 = none ∧
    ((wpOf s).split 0).any (fun k => (wRun s f).laneAcq 2 k) = false ∧
    readyB u c = true ∧ (wEnv u c).us2 10 % 16 = 0 ∧ canonical ((wEnv u c).us2 10) = true ∧
    ((wRun u c).logAreaBad ((wRun u c).spaceAt (wEnv u c)) 0x3100000 4096).isNone = true ∧
    ((wpOf u).split 0).any (fun k => (wRun u c).laneAcq 2 k) = false ∧ ((wRun u c).core 0).busyBank 1 0 = false ∧ 0 < (wRun u c).banksOf 0 ∧
    readyB s (.cbindUnb 7 4 8) = true ∧ CSlot.start.buf.length ≤ 8 ∧ CSlot.start.buf.Pairwise (fun a b => a.key ≤ b.key) := by
  and_intros <;> first | decide +kernel | exact ok_of (p := fun _ => true) (by decide +kernel)

/-- TrianglesAndBins: a descriptor with a reserved field, one record culled, and a small one with the queue full; a bin to commit. -/
def drawDesc (thr widx z : Nat) : List (Nat × Byte) :=
  (bytesOf 64 (0x3300000 + 64 * 2 ^ 64 + 64 * 2 ^ 80 + thr * 2 ^ 96 + 0x3400000 * 2 ^ 128 + 4 * 2 ^ 192 + widx * 2 ^ 256 + z * 2 ^ 448)).zipIdx.map
    (fun e => (0x3100000 + e.2, e.1))

/-- A triangle record at team address 0: corners (0, 0), (1, 0) and (0, 1), as integers of 1/256 pixel. -/
def tri0 : Map Byte := [(tkey 1 9, 1#8), (tkey 1 21, 1#8)]

def drawing (thr widx z : Nat) : State :=
  let s := dv (fun d => { d with ms := { d.ms with team := tri0 } }) (us [(4, 0x3100000)])
  { s with mem := s.mem.writes (drawDesc thr widx z) }

def draw0 : Draw :=
  { grid := 0, desc := 0x3100000, width := 64, height := 64, vis := 0x3300000, stats := 0,
    tris := [([0, 0, 256, 0, 0, 256], [0, 0, 0], 5)], bins := [], counters := [0, 0, 0, 0, 0, 0, 0] }

theorem test_wit_triangles : let o : UXOp := ⟨7, 8, 4, 6⟩
    let i := Instr.trisub o 1
    let e := fun (s : State) => wEnv s i
    let got := fun (s : State) => (wRun s i).homeRead ((wRun s i).nodeOf 0) 0x3100000 64
    let x := fun (s : State) => DrawDesc.parse (ofBytes (got s).1)
    let far := fun (s : State) => match (got s).2.drawPlaces ((wRun s i).spaceAt (e s)) 0x3100000 (x s) 1 with
      | .ok p => p.remote && ((got s).2.demoteNow 0).isSome
      | .error _ => false
    let cp := fun (s : State) => { s with mem := s.mem.writes (((bytesOf 8 (0xBF + 2 ^ 46)).zipIdx.map (fun e => (0x1010008 + e.2, e.1))) ++
      ((bytesOf 8 0x20000000).zipIdx.map (fun e => (0x3100010 + e.2, e.1)))) }
    let node := dv (fun d => { d with sched := { d.sched with grids := [(0, { grid0 false with root := some 0 })] } })
    let stalls := fun (s : State) => match (got s).2.triRecords (e s) 0 1 with
      | .ok recs => match (got s).2.drawPlaces ((wRun s i).spaceAt (e s)) 0x3100000 (x s) (recs.filter (fun b => triClass (x s) (triOf b).1 == 2)).length with
        | .ok p => some (recs.foldl (TriRun.step (x s) ((got s).2.drawOf 0 0x3100000 (x s)).1 none p)
          { r := ((got s).2.drawOf 0 0x3100000 (x s)).2, done := 0, kept := 0, stall := false }).stall
        | .error _ => none
      | .error _ => none
    let d := dv (fun d => { d with sched := { d.sched with draws := [(9, draw0)], teams := d.sched.teams.map (fun e => (e.1, { e.2 with complete := true })) } }) s0
    [drawing 0 0 1, drawing 0 0 0, drawing 1000 16 0].all (fun s => readyB s i && isOk ((wRun s i).globLoc ((wRun s i).spaceAt (wEnv s i)) .load 0x3100000 64)
      (.glob (run 0x3100000 64) false) && !(wRun s i).poisoned none (run 0x3100000 64) && decide ((e s).us2 4 = 0x3100000)) = true ∧
    (x (drawing 0 0 1)).ok (ofBytes (got (drawing 0 0 1)).1) = false ∧ (x (drawing 0 0 0)).ok (ofBytes (got (drawing 0 0 0)).1) = true ∧
    far (node (cp (drawing 1000 0 0))) = true ∧ readyB (node (cp (drawing 1000 0 0))) i = true ∧ (match (got (cp (drawing 1000 0 0))).2.triRecords (e (cp (drawing 1000 0 0))) 0 1 with
      | .ok recs => recs.map (fun b => triClass (x (cp (drawing 1000 0 0))) (triOf b).1)
      | .error _ => []) = [2] ∧
    stalls (drawing 0 0 0) = some false ∧ stalls (drawing 1000 16 0) = some true ∧ (e s0).progress = (0, 0) ∧
    lookM d.dev.sched.draws 9 = some draw0 ∧ 0 < draw0.binCount ∧ draw0.binHas 0 = true ∧ (Run.of d).teamsDone 0 = true ∧ (Run.of d).commitPending 0 = false ∧ (Run.of d).nodeOf 0 = none ∧
    triClass (x (drawing 0 0 0)) [0, 0, 256, 0, 0, 256] = 1 ∧ triClass (x (drawing 1000 16 0)) [0, 0, 256, 0, 0, 256] = 2 := by decide +kernel

/-- Areas, and which samples of R242 lie in a triangle: the edges count once; depth 0 gives all ones. -/
theorem test_triangles : area2 [0, 0, 256, 0, 0, 256] = 65536 ∧ area2 [0, 0, 0, 256, 256, 0] = -65536 ∧
    sampleTri ([0, 0, 512, 0, 0, 512], [0, 0, 0], 5) 0 0 = some (some 0xFFFFFFFF00000005) ∧ sampleTri ([0, 0, 512, 0, 0, 512], [0, 0, 0], 5) 1 1 = none ∧
    sAt (drawing 0 0 0) (.trisub ⟨7, 8, 4, 6⟩ 1) 8 = 1 := by decide +kernel

/-! ### Witnesses of presentation time and media -/

/-- The test machine with its presentation time at `t`. -/
def timed (t : Nat) : State → State := dv (fun d => { d with ptp := { d.ptp with
  st := .locked, first := true, pbase := t, dbase := 1000, master := true, lastSync := 1000, lastAnn := 1000, annLog := -3 } })

/-- 8 by 4 pixels of 10 bits at 60,000 frames a second, its lines 10 us long. -/
def desc0 : FlowDesc :=
  { en := true, send := false, pair := false, port := 0, samp := 0, depth := 1, pm := false, snd := false, part := 0, width := 7, height := 3,
    fden := 60000, fnum := 1, offs := 0, linedur := 10000, fill := [1, 2, 3], pt := 96, udp := 20000, dstip := 5, srcip := 0, ssrc := 0, buf := 0 }
/-- The pgroup of 10-bit 4:2:2 with Cb 5, Y 4, Cr 6 and Y 7 (R275). -/
def group4 : List Nat := [0x01, 0x40, 0x40, 0x18, 0x07]
def flow0 : Flow := { Flow.start desc0 [0, 0, 0, 0, 0, 0] 0 none with objs := [(0, { FrameObj.empty with frame := some 0, data := putGroup [] 5 (toBytes group4) })] }
def flow1 : Flow := Flow.start { desc0 with send := true } [0, 0, 0, 0, 0, 0] 0 none
def bound (b : Stream) (n : Nat) (f : Flow) (l : List (Nat × Word)) (t : Nat) : State :=
  let ls := fun (w : Warp) => w.lanes.map (fun y => { y with v := [(2, 2), (5, 5)] })
  timed t (dv (fun d => { d with flows := [(n, f)] }) (withW (fun w => { w with m := [some b, none, none, none], s := l, lanes := ls w })))
def rx : Stream := ⟨0, false, 0, 0, 0, false, none⟩
def tx : Stream := ⟨256, true, 0, 0, 0, false, none⟩

theorem test_wit_ptp : let s := timed 5000 s0
    let w := bound { rx with frame := 0 } 0 flow0 [] 11000
    let old := { s with clk := { s.clk with dtime := 375001000 } }
    let first : Ptp := { s0.dev.ptp with st := .acquiring, run := 15 }
    (s.dev.ptp.port = 0 ∧ s.dev.ptp.domain = 127 ∧ s.dev.ptp.first = true ∧ first.first = false ∧ first.st ≠ .unlocked ∧
      (first.sync 1000 41 0).first = false ∧ (first.sync 1000 40 0).st = .locked ∧ (first.sync 1000 40 0).first = true ∧ first.port = 0 ∧ first.domain = 127 ∧ 128 ≠ s.dev.ptp.domain) ∧
    (old.dev.ptp.lastSync + old.dev.ptp.patience ≤ old.clk.dtime ∧ old.dev.ptp.lostAnn old.clk.dtime = true ∧
      s.dev.ptp.lostSync s.clk.dtime = false ∧ s.dev.ptp.lostAnn s.clk.dtime = false ∧ (-4 : Int) < -3 ∧ (-3 : Int) ≤ -3) ∧
    s.dev.ptp.st ≠ .unlocked ∧ s0.dev.ptp.st = .unlocked ∧ s.dev.ptp.st = .locked ∧ s.dev.ptp.master = true ∧ -500000 ≤ s.dev.ptp.rate ∧ s.dev.ptp.rate ≤ 500000 ∧
    lookM w.dev.warps 2 = some (wpOf w) ∧ (wpOf w).m.any (fun b => match b with
      | some x => !x.send && (match (Run.of w).flow x.flow with
        | some f => decide (f.desc.deadline x.frame x.line + 1000 ≤ ((Run.of w).ptime : Int))
        | none => false)
      | none => false) = true ∧
    (run1 s (.ptpSync ⟨0, 127⟩ ⟨1000000, 0⟩)).dev.ptp.steps = 0 ∧ (run1 s (.ptpSync ⟨0, 127⟩ ⟨(-1000001), 0⟩)).dev.ptp.steps = 1 ∧
    (Run.of (run1 s (.ptpSync ⟨0, 127⟩ ⟨(-1000001), 0⟩))).ptime = 1005001 ∧ (run1 s (.ptpSync ⟨0, 126⟩ ⟨(-1000001), 0⟩)).dev.ptp.steps = 0 ∧
    (run1 old (.holdoverEntry true)).dev.ptp.port = 1 ∧ (run1 s (.holdoverEntry true)).dev.ptp.port = 0 := by decide +kernel

/-- Before its first lock the unit's PTIME is DTIME, whatever offsets it measures (R263). -/
theorem test_unlocked_time : let s := dv (fun d => { d with ptp := { d.ptp with st := .acquiring } }) s0
    (Run.of (run1 s (.ptpSync ⟨0, 127⟩ ⟨2000000, 9⟩))).ptime = 1000 ∧ (run1 s (.ptpSync ⟨0, 127⟩ ⟨2000000, 9⟩)).dev.ptp.steps = 0 ∧
    (run1 s (.ptpSync ⟨0, 127⟩ ⟨2000000, 9⟩)).dev.ptp.rate = 0 := by decide +kernel

/-- StreamRegisters: each status of both MBINDs; SRD of a pixel that is there, of one that is not before and after the deadline, and
of an unbound register; SWR with and without a write object. -/
theorem test_wit_stream_registers : let rb := Instr.mbindRx 7 8 4 0
    let ob := Instr.mbindOut 7 8 4 0 (some 1)
    let at' := fun (l : List (Nat × Word)) (t : Nat) => bound rx 0 flow0 l t
    let out := fun (l : List (Nat × Word)) => bound tx 256 flow1 l 5000
    let srd := fun (a : Nat) => Instr.srd 0 8 a false 3 0
    let swr := Instr.swr 0 8 2 false 0
    let hurt : Flow := { flow0 with objs := [(0, { flow0.obj 0 with bad := [(0, 4)] })] }
    let ruined := bound rx 0 hurt [] 5000
    let here := fun (s : State) (a : Nat) => (flow0.present 0 0 ((wEnv s (srd a)).v 0 a).toNat).isSome
    let nb := fun (s : State) => (wRun s rb).bindable (wEnv s rb) ((wEnv s rb).us 4).toNat false
    (readyB (at' [(4, 9)] 5000) rb = true ∧ nb (at' [(4, 9)] 5000) = none) ∧
    (readyB (at' [(5, 4)] 5000) rb = true ∧ nb (at' [(5, 4)] 5000) = some flow0 ∧ desc0.height < 4) ∧
    (readyB (at' [] 50000) rb = true ∧ nb (at' [] 50000) = some flow0 ∧ desc0.slot (desc0.kOf 0 + 3) ≤ (Run.of (at' [] 50000)).ptime) ∧
    (readyB (at' [] 5000) rb = true ∧ (Run.of (at' [] 5000)).ptime < desc0.slot (desc0.kOf 0 + 3)) ∧
    (readyB (out [(4, 256), (5, 3)]) ob = true ∧ (wRun (out [(4, 256)]) ob).bindable (wEnv (out [(4, 256)]) ob) 256 true = some flow1 ∧
      readyB (out [(4, 256), (5, 4)]) ob = true ∧ readyB s0 ob = true ∧ (wRun s0 ob).bindable (wEnv s0 ob) 0 true = none) ∧
    (readyB (at' [] 5000) (srd 2) = true ∧ here (at' [] 5000) 2 = true ∧ here (at' [] 5000) 5 = false ∧ readyB (at' [] 11000) (srd 5) = true ∧
      desc0.deadline 0 0 + 1000 = 11000 ∧ isOk (((wRun (at' [] 5000) (srd 2)).streamOf (wEnv (at' [] 5000) (srd 2)) 0 0 false (fun _ => 2)).mapError (fun _ => 0)) (rx, flow0) = true) ∧
    (readyB ruined (srd 2) = true ∧ hurt.poisoned 0 0 2 = some 4 ∧ (hurt.present 0 0 2).isSome = true ∧ flow0.poisoned 0 0 2 = none ∧
      isOk (((wRun ruined (srd 2)).streamOf (wEnv ruined (srd 2)) 0 0 false (fun _ => 2)).mapError (fun _ => 0)) (rx, hurt) = true) ∧
    (readyB s0 (srd 2) = true ∧ (wEnv s0 (srd 2)).m 0 = none ∧ (wEnv s0 (srd 2)).on 0 ≠ [] ∧ readyB s0 swr = true) ∧
    (readyB (out []) swr = true ∧ flow1.write = some 0 ∧ tx.src = none ∧
      isOk (((wRun (out []) swr).streamOf (wEnv (out []) swr) 0 0 true (fun _ => 2)).mapError (fun _ => 0)) (tx, flow1) = true) := by decide +kernel

/-- MediaFrames: FRPUB at a time of no frame, in time, at its commit time, and twice; commits, packets, a cleared object. -/
theorem test_wit_media : let i := Instr.frpub 7 8 4 0
    let out := fun (f : Flow) (l : List (Nat × Word)) (t : Nat) => bound tx 256 f l t
    let twice : Flow := { flow1 with published := [(1, 1)] }
    let leaving : Flow := { flow1 with sending := [⟨0, 0, [], [], [], [], false, 0, 0⟩] }
    let p : MediaPacket := ⟨true, 5, 20000, 96, 7, 8, 0, 0, 4500, [⟨0, 2, group4⟩]⟩
    let begun := withL (fun y => { y with prog := some (y.pc, 1, 0) })
    let rcv := bound rx 0 flow0 [] 5000
    let snd := bound tx 256 leaving [] 5000
    (readyB s0 i = true ∧ (wEnv s0 i).m 0 = none) ∧
    (readyB (out flow1 [(4, 16667)] 5000) i = true ∧ desc0.slot (desc0.kOf 16667) ≠ 16667 ∧ desc0.slot (desc0.kOf 16666) = 16666 ∧ desc0.kOf 16666 = 1) ∧
    (readyB (out flow1 [(4, 16666)] 12665) i = true ∧ desc0.commitAt 1 = 12666 ∧ flow1.leftOut.contains 1 = false ∧ lookM flow1.published 1 = none ∧
      (lookM twice.published 1).isSome = true ∧ twice.write.isSome = true ∧ readyB (out flow1 [(4, 16666)] 12666) i = true) ∧
    ((wRun (out flow1 [(4, 16666)] 5000) i).nodeOf 0 = none ∧
      ((wRun (out flow1 [(4, 16666)] 5000) i).release 2 (wEnv (out flow1 [(4, 16666)] 5000) i).wp (wpOf (out flow1 [(4, 16666)] 5000)).liveLanes 2).1 = true) ∧
    ((wEnv begun i).progress.1 = 1 ∧ readyB begun i = true ∧ (wEnv s0 i).progress.1 ≠ 1 ∧
      ((wRun begun i).release 2 (wEnv begun i).wp (wEnv begun i).wp.liveLanes 2).1 = true) ∧
    ((Run.of (out flow1 [] 5000)).flow 256 = some flow1 ∧ flow1.committed = none ∧ flow1.desc.commitAt 0 ≤ ((Run.of (out flow1 [] 5000)).ptime : Int)) ∧
    ((Run.of snd).flow 256 = some leaving ∧ flow1.desc.slot 0 + flow1.desc.offs ≤ ((Run.of snd).ptime : Int) ∧ 5000 < flow1.desc.slot 1 + flow1.desc.offs) ∧
    (p.stamp ≤ (Run.of rcv).ptime ∧ (Run.of rcv).ptime < p.stamp + 1000 ∧ p.good = true ∧ { p with good := false }.good = false) ∧
    (rcv.dev.flows.filter (fun e => e.2.desc.mine 0 p) = [(0, flow0)] ∧ rcv.dev.flows.filter (fun e => e.2.desc.mine 1 p) = [] ∧
      desc0.matchesPkt p = true ∧ desc0.matchesPkt { p with pt := 97 } = false) ∧
    ((Run.of rcv).flow 0 = some flow0 ∧ (flow0.obj 1).frame = none ∧ (flow0.obj 1).pinned = none ∧ desc0.slot (1 - 1) ≤ (Run.of rcv).ptime ∧
      rcv.dev.warps.any (fun w => w.2.bound 0 (5 - 4)) = false ∧ rcv.dev.sched.images = []) ∧
    (desc0.samp = 0 ∧ desc0.depth = 1 ∧ desc0.order.length = 4) := by decide +kernel

/-- A refused descriptor leaves its flow's fields and disables it (R268): width 8,192. -/
theorem test_descriptor_refused : let s := bound rx 0 flow0 [] 5000
    let t := run1 s (.flowDescriptorWrite 0 [1, 8192 * 65536 + 65535])
    ((Run.of t).flow 0).map (fun f => (f.desc.en, f.desc.width, f.desc.pt)) = some (false, 7, 96) := by decide +kernel

/-- A frame with a bad check sequence is dropped and counted on its port (Table 24.1). -/
theorem test_bad_fcs : let s := bound rx 0 flow0 [] 5000
    let t := run1 s (.mediaPacketReceive 2 ⟨false, 5, 20000, 96, 7, 8, 0, 0, 4500, []⟩)
    t.dev.rel.fcs = [0, 0, 1, 0] ∧ ((Run.of t).flow 0) = some flow0 := by decide +kernel

/-- SRD of pixel 2, of an absent one after the deadline; a packet's pixel, on time and late (R270, R274, R275). -/
theorem test_media : let s := bound rx 0 flow0 [] 11000
    let p : MediaPacket := ⟨true, 5, 20000, 96, 7, 8, 0, 0, 100, [⟨1, 2, group4⟩]⟩
    vAt s (.srd 0 8 2 false 3 0) 0 8 = 4 ∧ vAt s (.srd 0 8 2 false 3 0) 0 9 = 5 ∧ flow0.present 0 0 3 = some (7, 5, 6) ∧ pAt s (.srd 0 8 2 false 3 0) 0 3 = true ∧ vAt s (.srd 0 8 5 false 3 0) 0 8 = 1 ∧
    pAt s (.srd 0 8 5 false 3 0) 0 3 = false ∧ vAt s (.srd 0 8 5 false 3 0) 0 11 = 5 ∧
    (flow0.receive p).present 0 1 3 = some (7, 5, 6) ∧ (flow0.receive p).present 0 1 1 = none ∧ (flow0.receive { p with stamp := 20000 }).counters = [0, 0, 1, 0, 0, 0] ∧
    (flow0.receive p).counters = [1, 0, 0, 0, 0, 0] := by decide +kernel

/-! ### Witnesses of the fabric -/

/-- Handle 5 of partition 0: 64 bytes at 0x3100000 to 0x3200000, one hop out of link 2, one contribution. -/
def handle0 : Handle :=
  { valid := true, dst := 0x3200000, src := 0x3100000, len := 64, route := [2, 0, 0, 0, 0, 0, 0, 0], ops := [0, 0, 0, 0, 0, 0, 0, 0], mcast := 0,
    hops := 1, dexp := false, ncont := 1, rank := 0, op := 0, ty := 0, clean := true, nextInst := 0, starts := 0, runs := List.replicate 4 Inst.idle, early := [0, 0, 0, 0] }
/-- An instance of a state and status; one of state 2 whose deposits are visible from a time on. -/
def inst (st status : Nat) (gwct : Nat := 0) : Inst := { Inst.idle with st := st, status := status, gwct := gwct }
def fab (f : Fabric → Fabric) : State → State := dv (fun d => { d with fabric := f d.fabric })
def handled0 (h : Handle) : State := fab (fun f => { f with handles := [(5, h)] }) (us [(4, 5)])
def packet0 : CollPacket :=
  { ver := 1, hops := 2, plen := 0, route := [2, 15, 0, 0, 0, 0, 0, 0], ops := [0, 0, 0, 0, 0, 0, 0, 0], mcast := 6, handle := 5, inst := 0, rank := 0,
    chunk := 0, offset := 0, part := 0, payload := (List.range 64) }
def standing (op : Nat) : State := fab (fun f => { f with handles := [(5, handle0)], here := [(7, ⟨false, [], { packet0 with ops := op :: packet0.ops.drop 1 }⟩)] }) s0
def chunk0 : Chunk := { handle := 5, part := 0, inst := 0, chunk := 0, conts := [(0, (List.range 64).map (fun k => (k, 1)))], rest := some (1, [15, 0, 0, 0, 0, 0, 0, 0], [0, 0, 0, 0, 0, 0, 0, 0], 0) }

theorem test_wit_collectives : let i := Instr.cstart 7 8 4
    let w := Instr.cwait ⟨7, 8, 4, 6⟩
    let c := Instr.cstat 7 8 4 0
    let ok := handled0 handle0
    let down := fab (fun f => { f with links := f.links.map (fun l => { l with up := false }) }) ok
    let full := handled0 { handle0 with runs := [inst 1 0, inst 1 0, inst 3 3, Inst.idle] }
    let late := handled0 { handle0 with runs := [inst 2 0 1000, inst 2 0 999, inst 3 3, Inst.idle] }
    let hd := fun (s : State) (j : Instr) => (wRun s j).handle ((wRun s j).partOf (wEnv s j)) ((wEnv s j).us 4).toNat
    let at' := fun (s : State) (j : Nat) => (hd s w).map (fun x => ((x.run j).st, decide ((x.run j).gwct < (wRun s w).clk.dtime)))
    let links := linksUsed handle0.mcast handle0.hops handle0.route handle0.ops
    let p := { packet0 with ops := 1 :: packet0.ops.drop 1 }
    let st := fab (fun f => { f with handles := [(5, handle0)], chunks := [((hkey 0 5 * 4 + 0) * 4096, chunk0)] }) s0
    let half : Chunk := { chunk0 with conts := [(0, [(0, 1)])] }
    let st2 := fab (fun f => { f with handles := [(5, handle0)], chunks := [((hkey 0 5 * 4 + 0) * 4096, half)] }) s0
    let worn := fab (fun f => { f with links := f.links.map (fun l => { l with fails := 16 }) }) s0
    let asked := fab (fun f => { f with links := f.links.map (fun l => { l with asked := some (4, 16) }) }) s0
    let fl := packet0.flits.map (·.data)
    let two : Chunk := { chunk0 with conts := chunk0.conts ++ [(3, (List.range 64).map (fun k => (k, 2)))] }
    let begun := fab (fun f => { f with links := f.links.map (fun l => { l with part := fl.headD [] }) }) s0
    ([s0, ok, down, full, late].all (fun s => [i, w, c].all (readyB s)) = true ∧ hd s0 i = none ∧ hd s0 w = none ∧ hd ok i = some handle0 ∧ hd ok c = some handle0) ∧
    (links = [2] ∧ links.any (fun k => !(linkOf down.dev.fabric k).up) = true ∧ links.any (fun k => !(linkOf ok.dev.fabric k).up) = false ∧
      (hd full i).map (fun x => ((x.runs.filter (fun y => y.st == 1)).length, (x.run 0).st, (x.run 2).st)) = some (2, 1, 3) ∧ (handle0.run 0).st = 0 ∧
      [at' late 0, at' late 1, at' late 2] = [some (2, false), some (2, true), some (3, true)] ∧ (wEnv full w).met = false ∧
      (wEnv (dv (fun d => { d with warps := modM d.warps 2 (fun x => { x with lanes := x.lanes.map (fun y => { y with wait := .ready .met }) }) }) full) w).met = true ∧
      (wRun ok i).nodeOf 0 = none ∧ ((wRun ok i).release 2 (wEnv ok i).wp (wEnv ok i).wp.liveLanes 3).1 = true) ∧
    ([0, 1, 2, 3].all (fun op => (lookM (standing op).dev.fabric.here 7).map (fun x => x.pkt.ops.headD 0) == some op) = true ∧
      ((standing 1).dev.fabric.staged 0 5).length < 2 ∧ (standing 1).dev.fabric.chunkRoom (chunkKey packet0) = true ∧
      (Run.of (standing 1)).handle 0 5 = some handle0 ∧ handle0.fits packet0 = true ∧
      (((⟨5, 0, 0, 0, [], none⟩ : Chunk).add p p.pop).isSome = true)) ∧
    ((Run.of st).handle 0 5 = some handle0 ∧ lookM st.dev.fabric.chunks ((hkey 0 5 * 4 + 0) * 4096 + 0) = some chunk0 ∧ chunk0.complete handle0 = true ∧
      lookM st2.dev.fabric.chunks ((hkey 0 5 * 4 + 0) * 4096 + 0) = some half ∧ half.complete handle0 = false ∧
      two.conts.Pairwise (fun a b => a.1 < b.1) ∧ (two.add { p with rank := 1 } { p.pop with mcast := 0 }).isSome = true ∧
      (two.full handle0).map (fun e => e.2.map (·.2)) = [List.replicate 64 1, List.replicate 64 2] ∧ collBytes handle0.ty * 16 = 64) ∧
    (packet0.flits.all (fun f => f.good) = true ∧ { Flit.of [1] with crc := 0 }.good = false ∧ CollPacket.ofData 0 (fl.headD []) = none ∧
      (linkOf begun.dev.fabric 2).part = fl.headD [] ∧ CollPacket.ofData 0 (fl.headD [] ++ fl.getD 1 []) = some packet0 ∧
      CollPacket.ofData 0 ((({ packet0 with hops := 9 } : CollPacket).flits.map (·.data)).flatten) = some { packet0 with hops := 9 } ∧
      [s0, begun].all (fun s => (linkOf s.dev.fabric 2).up && !(linkOf s.dev.fabric 2).stuck) = true) ∧
    ((linkOf s0.dev.fabric 2).up = true ∧ (linkOf s0.dev.fabric 2).stuck = false ∧ packet0.ok = true ∧ { packet0 with hops := 9 }.ok = false ∧
      s0.dev.fabric.addRoom packet0 = true ∧ CollPacket.parse 0 packet0.header packet0.payload = packet0 ∧
      [worn, asked].all (fun s => (linkOf s.dev.fabric 2).up && (linkOf s.dev.fabric 2).stuck) = true) := by decide +kernel

/-- A forwarded packet has lost its first route and operation; a hop to this card alone stands again. -/
theorem test_collective : ((run1 (standing 0) (.hopForward 7)).dev.fabric.links[2]?.map (fun l => l.out.map (fun p => (p.pkt.hops, p.pkt.route.headD 0)))) = some [(1, 15)] ∧
    (run1 (standing 2) (.hopDeposit 7)).mem.readN 0x3200000 4 = [0, 1, 2, 3] ∧
    sAt (handled0 handle0) (.cstart 7 8 4) 8 = 0 ∧ sAt s0 (.cstart 7 8 4) 8 = 0x200 := by decide +kernel

/-- CRC-32C's check value; a packet of 80 bytes as two flits of 60 bytes of data (R282). A bad flit is asked for again, and the two good
ones leave the packet standing. -/
theorem test_flits : let b := packet0.flits.headD ⟨[], 0⟩
    let x := run1 s0 (.flitReceive 2 { b with crc := b.crc + 1 } .more)
    let y := run1 s0 (.flitReceive 2 b .more)
    let z := run1 y (.flitReceive 2 (packet0.flits.getD 1 b) (.packet 0))
    crc32c [0x31, 0x32, 0x33, 0x34, 0x35, 0x36, 0x37, 0x38, 0x39] = 0xE3069283 ∧ packet0.flits.map (fun f => f.data.length) = [60, 60] ∧
    x.dev.outs = [.resend 2] ∧ (linkOf x.dev.fabric 2).fails = 1 ∧ (linkOf y.dev.fabric 2).part.length = 60 ∧ y.dev.fabric.here = [] ∧
    z.dev.fabric.here.map (fun e => e.2.pkt) = [packet0] := by decide +kernel

/-- A chunk of two ranks: signed sums of their words (R286). -/
theorem test_sweep : let h := { handle0 with ty := 3, ncont := 2 }
    let c : Chunk := { chunk0 with conts := [(1, (toBytes [255, 255, 255, 255]).zipIdx.map (fun e => (e.2, e.1))), (2, (toBytes [2, 0, 0, 0]).zipIdx.map (fun e => (e.2, e.1)))] }
    c.swept { h with len := 4 } = [1, 0, 0, 0] := by decide +kernel

/-- An instance that failed before its CSTART completes there with that status (entry 86). -/
theorem test_early_failure : ((Run.of (run1 (handled0 { handle0 with early := [3, 0, 0, 0] }) (.cstart 7 8 4))).handle 0 5).map (fun h => (h.run 0, h.early[0]?)) =
    some (inst 3 3, some 0) := by decide +kernel

/-- TimedBarriers: a card without a group; a group of ranks 0 and 1 whose master this card is, and one whose it is not; a phase at
another time and at the same; arrivals, lists and releases. -/
def group0 (rank : Nat) : TGroup := { ranks := [0, 1], rank := rank, arrivals := [(0, 6000)], lists := [] }
def gridT : Grid := { grid0 false with pkt := { pkt0 with tbg := [9, 0, 0, 0] } }
def grouped (rank : Nat) (b : TBar) (idx : Nat) : State :=
  dv (fun d => { d with sched := { d.sched with grids := [(0, gridT)], teams := d.sched.teams.map (fun e => (e.1, { e.2 with idx := idx, timed := [b, TBar.idle, TBar.idle, TBar.idle] })) } })
    (fab (fun f => { f with groups := [(9, group0 rank)] }) (timed 5000 (us [(4, 6000)])))

theorem test_wit_timed : let i := Instr.tbar 7 8 4 0
    let busy := grouped 0 { TBar.idle with time := some 7000 } 0
    let same := grouped 0 { TBar.idle with time := some 6000 } 0
    let far := grouped 0 TBar.idle 3
    let done := grouped 0 { time := some 6000, arrived := [0], sent := true, listed := some true } 0
    let late := timed 6000 done
    [s0, busy, same, far].all (fun s => readyB s i && ((wRun s i).team 1).isSome) = true ∧
    ((wRun s0 i).tgroup 0 0).isNone = true ∧ ((wRun busy i).tgroup 0 0) = some 9 ∧ (wRun busy i).timeKept = true ∧ (wEnv busy i).us2 4 = 6000 ∧
    ((wRun far i).team 1).map (·.idx) = some 3 ∧ ((wRun same i).team 1).map (fun t => (nthD t.timed 0 TBar.idle).time) = some (some 6000) ∧
    (wRun same i).nodeOf 0 = none ∧ ((wRun same i).release 2 (wEnv same i).wp ((wpOf same).split 0) 3).1 = true ∧ 6000 < (Run.of (timed 6001 busy)).ptime ∧
    (group0 0).rank = (group0 0).master ∧ (group0 1).rank ≠ (group0 1).master ∧ (group0 0).ranks.contains 1 = true ∧
    (group0 0).arrivals.contains (1, 6000) = false ∧ (group0 0).lists.any (fun y => y.1 == 6000) = false ∧ 6000 ≤ (Run.of busy).ptime + 2000 ∧
    (Run.of busy).tbarNamed 9 6000 (group0 0) = true ∧ (Run.of (timed 4000 busy)).ptime + 2000 ≤ 6000 ∧
    lookM (timed 4000 busy).dev.fabric.groups 9 = some (group0 0) ∧ lookM busy.dev.fabric.groups 9 = some (group0 0) ∧ lookM (grouped 1 TBar.idle 0).dev.fabric.groups 9 = some (group0 1) ∧
    (Run.of busy).ptime < 6000 ∧ 6000 ≤ (Run.of late).ptime ∧
    ((Run.of done).team 1).map (fun t => ((nthD t.timed 0 TBar.idle).sent, (nthD t.timed 0 TBar.idle).listed)) = some (true, some true) := by decide +kernel

/-! ### Witnesses of the memory system and the scheduler -/

def msd (f : MemSys → MemSys) : State → State := dv (fun d => { d with ms := f d.ms })
def load0 : Load := ⟨0, 2, some 3, [3], none, run 0x3000010 4, [], 8, 4, false, none, 0, false, false⟩
def store0 (remote : Bool) (gw : Option Nat) : Store := ⟨0, 2, [0], 0, none, 0x3000010, [1, 2, 3, 4], remote, gw, 6, []⟩
def atomic0 : Atomic := ⟨0, 2, 0, false, none, false, false, false, 0, 0, 4, 8, [(3, 0x3000010, 5, 0)], false⟩

/-- MemorySystemSteps: a prefetch, a fill for an .inv load alone, a load, a store at its home and both acknowledgements, an atomic, a
partial, the host's bounds, a peer's write that is visible and one that is not yet. -/
theorem test_wit_memory_steps : let line := 0x3000010 / 128
    let f := msd (fun m => { m with fills := [(0, line, 0)] }) s0
    let l := msd (fun m => { m with loads := [(6, load0)] }) s0
    let inv := msd (fun m => { m with loads := [(6, { load0 with inv := true })] }) s0
    let peer := msd (fun m => { m with peerAcks := [(6, (0x3000010, 999)), (7, (0x3000010, 1000))] }) s0
    let st := fun (a : Bool) (g : Option Nat) => msd (fun m => { m with stores := [(6, store0 a g)] }) s0
    let a := msd (fun m => { m with atomics := [(6, atomic0)] }) s0
    let p : Partial := ⟨0, 0, 5, 2, 0⟩
    let q := msd (fun m => { m with partials := [(0, [(0x3000010, p)])] }) s0
    (f.dev.ms.fills = [(0, line, 0)] ∧ s0.dev.ms.partials = [] ∧ s0.dev.ms.poison = [] ∧ s0.dev.ms.l1 = [] ∧ s0.dev.ms.atomics = []) ∧
    (inv.dev.ms.fills = [] ∧ inv.dev.ms.loads.all (fun e => e.2.on line && e.2.inv) = true ∧ inv.dev.ms.atomics = [] ∧
      (lookM peer.dev.ms.peerAcks 6).map (·.2) = some 999 ∧ (lookM peer.dev.ms.peerAcks 7).map (·.2) = some 1000 ∧ peer.clk.dtime = 1000) ∧
    (l.dev.ms.loads = [(6, load0)] ∧ l.dev.ms.stores = [] ∧ load0.addrs = run 0x3000010 4 ∧ (0x3000010 + 3) / 128 = line ∧ line < 2 ^ 41 ∧
      lookM l.dev.warps 2 = some (wpOf l) ∧ (l.laneOf 2 3).isLive = true) ∧
    (lookM (st false none).dev.ms.stores 6 = some (store0 false none) ∧ (Run.of (st false none)).inOrder 6 0 line = true ∧
      lookM (st false (some 9)).dev.ms.stores 6 = some (store0 false (some 9)) ∧ lookM (st true (some 0)).dev.ms.stores 6 = some (store0 true (some 0))) ∧
    (let seen := msd (fun m => { m with stores := [(6, { store0 false none with seenBy := [2] })] }) s0;
      lookM seen.dev.ms.stores 6 = some { store0 false none with seenBy := [2] } ∧ (Run.of seen).inOrder 6 0 line = true ∧
      seen.dev.ms.stores.any (fun e => (store0 false none).joins e.2 && e.2.seenBy.contains 2) = true ∧ lookM seen.dev.warps 2 = some (wpOf seen)) ∧
    (lookM a.dev.ms.atomics 6 = some atomic0 ∧ (Run.of a).inOrder 6 0 line = true ∧ atomic0.lanes = [(3, 0x3000010, 5, 0)]) ∧
    (lookD q.dev.ms.partials 0 [] = [(0x3000010, p)] ∧ 0x3000010 < 2 ^ 48) ∧
    (0x2400000000 - 4 + [1, 2, 3, 4].length ≤ 0x2400000000 ∧ 0x2400000000 < 0x2400000000 - 3 + [1, 2, 3, 4].length ∧ (wpOf s0).wch < s0.clk.dtime ∧
      s0.clk.dtime ≤ (wpOf (withW (fun w => { w with wch := 1000 }))).wch) := by decide +kernel

/-- A load's value at its fill, lowest byte first; a store's GWCT under a lease; an atomic sum and what its lane gets. -/
theorem test_memory_steps : let line := 0x3000010 / 128
    let m := fun (s : State) => { s with mem := s.mem.writes [(0x3000010, 7), (0x3000013, 1)] }
    let l := m (msd (fun x => { x with loads := [(6, load0)] }) s0)
    let st := msd (fun x => { x with stores := [(6, store0 false none)], leases := [(line, 1500)] }) s0
    let a := m (msd (fun x => { x with atomics := [(6, atomic0)] }) s0)
    vAt l (.mergingFill 0 line) 3 8 = 0x01000007 ∧ vAt a (.atomicAtHome 6) 3 8 = 0x01000007 ∧
    (run1 a (.atomicAtHome 6)).mem.readN 0x3000010 4 = [12, 0, 0, 1] ∧
    ((lookM (run1 st (.storeApply 6)).dev.ms.stores 6).map (·.gwct)) = some (some 1500) ∧ (run1 st (.storeApply 6)).mem.readN 0x3000010 4 = [1, 2, 3, 4] := by
  decide +kernel

/-- Two lanes' words of one request overwrite a poisoned unit; a word alone does not clear it (R128, R352). -/
theorem test_request_clears_poison : let two := { store0 false none with pa := 0x3000014, bytes := [5, 6, 7, 8] }
    let s := fun (l : List (Nat × Store)) => msd (fun m => { m with stores := l, poison := [(0x3000010 / 8, 0)] }) s0
    let t := run1 (s [(6, store0 false none), (7, two)]) (.storeApply 6)
    t.dev.ms.poison = [] ∧ t.mem.readN 0x3000010 8 = [1, 2, 3, 4, 5, 6, 7, 8] ∧ (t.dev.ms.stores.map (fun e => e.2.gwct)) = [some 1000, some 1000] ∧
    (run1 (s [(6, store0 false none), (7, { two with req := 7 })]) (.storeApply 6)).dev.ms.poison = [(0x3000010 / 8, 0)] := by decide +kernel

def scd (f : Sched → Sched) : State → State := dv (fun d => { d with sched := f d.sched })

/-- A launch packet of 64 threads with its entry at 0x2000004, at 0x3100000, and 4,096 open children. -/
def packetNat : Nat := 0x2000004 + 63 * 2 ^ 320
def launching (ok : Bool) (depth children : Nat) : State :=
  let s := scd (fun x => { x with grids := (0, { grid0 false with depth := depth }) :: (List.range children).map (fun k => (k + 10, { grid0 false with depth := 1 })) }) (us [(4, 0x3100000)])
  { s with mem := s.mem.writes ((bytesOf 128 (if ok then packetNat else 0)).zipIdx.map (fun e => (0x3100000 + e.2, e.1))) }

def waiting (n : Nat) (f : Packet → Packet) : Grid := { Grid.start (f pkt0) 0 0 (some n) 0 none 0 0 none with seq := some n }

/-- LaunchesAndQueues, LAUNCH: a warp that is not warp 0, depth 10, a packet that is not valid, one that is, and no room. -/
theorem test_wit_launch : let i := Instr.launch 7 8 4
    let line := run 0x3100000 128
    let got := fun (s : State) => ((wRun s i).seeAt 0 2 ((wRun s i).nodeOf 0) line).loadSync 0 0 ((wRun s i).nodeOf 0) 0x3100000 128
    let owes := (launching true 0 0).modWarp 2 (fun x => { x with wch := 1000 })
    let p := fun (s : State) => Packet.parse (ofBytes (got s).1)
    let second := withW (fun w => { w with wid := 1 })
    [s0, second, launching true 10 0, launching false 0 0, launching true 0 0].all (fun s => readyB s i && ((wRun s i).grid 0).isSome) = true ∧
    (wpOf second).wid ≠ 0 ∧ (wpOf s0).wid = 0 ∧ 0 ∈ (wpOf s0).split 0 ∧ ((wRun (launching true 10 0) i).grid 0).map (·.depth) = some 10 ∧
    [launching false 0 0, launching true 0 0, owes].all (fun s => readyB s i && isOk ((wRun s i).globLoc ((wRun s i).spaceAt (wEnv s i)) .load ((wEnv s i).us2 4) 128) (.glob line false) &&
      ((wRun s i).poisonRow ((wRun s i).nodeOf 0) line).isNone && !((wpOf s).split 0).any (fun k => (wRun s i).laneAcq 2 k) &&
      !(wRun s i).overlaps (wEnv s i) none (((wpOf s).split 0).map (fun k => (k, Loc.glob line false))) && !(wRun s i).lineBusy 0 (nkey none 0x3100000 / 128)) = true ∧
    ((got (launching true 0 0)).2.release 2 (wEnv (launching true 0 0) i).wp everyLane 2).1 = true ∧ ((got owes).2.release 2 (wEnv owes i).wp everyLane 2).1 = false ∧
    (p owes).ok 0 = true ∧
    (p (launching false 0 0)).ok 0 = false ∧ (p (launching true 0 0)).ok 0 = true ∧ (got (launching true 0 0)).2.dev.sched.children < 4096 ∧
    (p (launching true 0 0)).threads = 64 ∧ (p (launching true 0 0)).teams = 1 ∧
    ((Run.of s0).queue (qkey 0 0)).map (·.err) = some false := by decide +kernel

theorem test_wit_launch_full : 4096 ≤ (launching true 0 4096).dev.sched.children ∧ readyB (launching true 0 4096) (.launch 7 8 4) = true := by decide +kernel

/-- The steps of queues: a notify that does nothing, that moves WIDX and that goes past the ring; slots free and none; the head packet
of an empty, an unreadable, a broken and a live queue; launches chosen, held and shed. -/
theorem test_wit_queues : let q := fun (f : Queue → Queue) => scd (fun x => { x with queues := [(qkey 0 0, f probeQueue)], grids := [] }) s0
    let ring := fun (s : State) (ok : Bool) => { scd (fun x => { x with active := setNth x.active 0 (some (qkey 0 0)) }) s with
      mem := s.mem.writes ((bytesOf 128 (if ok then packetNat else 0)).zipIdx.map (fun e => (0x3100000 + e.2, e.1))) }
    let live := q (fun c => { c with widx := 1, ring := 0x3100000 })
    let held := dv (fun d => { d with sys := { d.sys with hold := true } })
    let enter := fun (s : State) => match (Run.of s).headPacket 0 0 { probeQueue with widx := 1, ring := 0x3100000 } with
      | some x => some ((Packet.parse x.1).ok 0)
      | none => none
    let c1 : Queue := { probeQueue with widx := 1, ring := 0x3100000 }
    let all := scd (fun x => { x with active := List.replicate 32 (some 7) }) live
    let wt := fun (f : Packet → Packet) => scd (fun x => { x with grids := [(5, waiting 0 f)] }) (timed 5000 s0)
    (Run.of live).liveQueue (qkey 0 5) = none ∧ ((Run.of (q (fun c => { c with widx := 1, ring := 0x3100000, err := true }))).liveQueue (qkey 0 0)).map (·.err) = some true ∧
    (sysd (fun x => { x with reading := some (qkey 0 0) }) (held (ring live true))).dev.sys.reading = some (qkey 0 0) ∧ (held (ring live true)).dev.sys.reading = none ∧
    ((Run.of live).partOfFunc 0 = some 0 ∧ (Run.of live).liveQueue (qkey 0 0) = some c1 ∧ (2 + 2 ^ 32 - c1.ridx) % 2 ^ 32 ≤ 2 ^ c1.logn ∧
      2 ^ c1.logn < (17 + 2 ^ 32 - c1.ridx) % 2 ^ 32 ∧ live.dev.sys.scc < 4) ∧
    (all.dev.sched.freeSlot c1.cls = none ∧ (Run.of live).wantsSlot (qkey 0 0) c1 = true ∧ live.dev.sched.freeSlot c1.cls = some 0 ∧
      live.dev.sched.queues.all (fun e => e.1 == qkey 0 0) = true) ∧
    ((ring live true).dev.sched.active.contains (some (qkey 0 0)) = true ∧ (held (ring live true)).dev.sys.hold = true ∧ (ring live true).dev.sys.hold = false ∧
      c1.ridx ≠ c1.widx ∧ (Run.of (ring live true)).headPacket 0 0 { c1 with ring := 0x40000000 } = none ∧ enter (ring live false) = some false ∧ enter (ring live true) = some true ∧
      c1.err = false ∧ (Run.of (ring live true)).spaceOk 0 c1 = true ∧ (Run.of (ring live true)).spaceOk 0 { c1 with asv := false } = false) ∧
    (minBy (fun e => e.2.rank e.1) ((wt id).dev.sched.grids.filter (fun e => e.2.part == 0 && (Run.of (wt id)).eligible e.2)) = some (5, waiting 0 id)) ∧
    ((Run.of (wt id)).tooLarge (waiting 0 id) = false ∧ (Run.of (wt id)).tooLarge (waiting 0 (fun p => { p with gx := 9, nx := 65535, regs := 14, coop := true })) = true ∧
      5000 ≤ (Run.of (wt id)).ptime + 0 ∧ (waiting 0 id).pkt.bars = 0) := by decide +kernel

/-- A class-0 launch whose team of eight cores cannot be placed while core 0 does work of class 1. -/
def rival : Grid := { waiting 0 (fun p => { p with gang := 3, banks := 24 }) with st := .dispatching }
def pressed (shed : Bool) (f : Sched → Sched) : State → State := scd (fun x => f { x with
  parts := [(0, { probePart with groups := 1 })], grids := [(0, { grid0 false with cls := 1, pkt := { pkt0 with shed := shed } }), (5, rival)] })

/-- Placement: no core has room, and one has; a gathering that is due and one that is not; a retired grid; kills. -/
theorem test_wit_placement : let g : Grid := { waiting 0 id with st := .dispatching }
    let s := scd (fun x => { x with grids := [(5, g)] }) s0
    let r := Run.of s
    let banks : Grid := { g with pkt := { g.pkt with team := 4096, banks := 24 } }
    let full := scd (fun x => { x with grids := [(5, banks)], parts := [(0, { probePart with groups := 0 })] }) s0
    let x : Rec := { resume := 0x2000004, grid := 0, kind := 2, n := 8, a := 0, pred := 0, regs := [], work := .susp, slot := 0, core := 0, completed := some 0, inUse := false }
    let due := scd (fun y => { y with recs := [(9, x)] }) s0
    let soon := scd (fun y => { y with recs := [(9, { x with completed := some 1 })] }) s0
    let beyond := scd (fun y => { y with teams := y.teams.map (fun e => (e.1, { e.2 with complete := true })) }) s0
    let gw := scd (fun y => { y with teams := y.teams.map (fun e => (e.1, { e.2 with complete := true })), grids := [(0, { grid0 false with gwct := 1000 })] }) s0
    let ended := fun (f : Option (Nat × Nat × Nat × Nat)) (g : State → State) => g (scd (fun y => { y with grids := [(0, { grid0 false with st := .ending, fin := f })] }) s0)
    let sent := msd (fun m => { m with stores := [(6, store0 false none)] })
    let node := scd (fun y => { y with grids := [(0, { grid0 false with root := some 0, staged := [(0x3000000, 0), (0x3000010, 1)] })] }) beyond
    let hurt := msd (fun m => { m with poison := [(2 ^ 45 + 0x3000010 / 8, 4)] }) node
    let drawn := scd (fun y => { y with draws := [(9, { draw0 with bins := [0], stats := 0x3500000 })] }) beyond
    let far := scd (fun y => { y with draws := [(9, { draw0 with bins := [0], stats := 0x20000000 })] })
      { node with mem := node.mem.writes ((bytesOf 8 (0xBF + 2 ^ 46)).zipIdx.map (fun e => (0x1010008 + e.2, e.1))) }
    let shed := fun (b : Bool) => pressed b id (withW (fun w => { w with serial := some 3 }))
    (r.grid 5 = some g ∧ r.home 5 g = some 0 ∧ (r.barsBlock 5 g).isSome = true ∧ g.pkt.coop = false ∧ (Run.of full).home 5 banks = none ∧ g.pkt.teams ≤ g.nextTeam + 1) ∧
    (lookM due.dev.sched.recs 9 = some x ∧ ((Run.of due).grid 0).isSome = true ∧ (Run.of due).due ((Run.of due).gathering x) = true ∧
      (Run.of soon).due ((Run.of soon).gathering { x with completed := some 1 }) = false ∧ (lookM ((Run.of due).gathering x) 9).isSome = true ∧
      (Run.of due).coreUsable (grid0 false) false 3 = true ∧ (Run.of due).memberFits (grid0 false).oneWarp 1 3 0 false = true ∧
      ((Run.of due).barred 0 (grid0 false)).contains 3 = false) ∧
    ((Run.of s0).workDone 0 = false ∧ (Run.of beyond).workDone 0 = true ∧ beyond.dev.sched.draws = [] ∧ (Run.of beyond).nodeOf 0 = none ∧
      (Run.of beyond).familyGwct 0 < 1000 ∧ 1000 ≤ (Run.of gw).familyGwct 0 ∧ (Run.of gw).workDone 0 = true ∧ (Run.of gw).mayRetire 0 (grid0 false) = true ∧
      (Run.of (ended none sent)).sentDone 0 = false ∧ (Run.of (ended (some (7, 0, 0, 0)) id)).mayRetire 0 { grid0 false with st := .ending } = true ∧
      (Run.of node).nodeOf 0 = some 0 ∧ (Run.of node).mayRetire 0 (grid0 false) = true ∧ ((Run.of node).grid 0).map (fun x => (x.fin, x.staged.length)) = some (none, 2) ∧
      (Run.of node).stageBad 0 = none ∧ (Run.of hurt).stageBad 0 = some 0x3000000 ∧ (Run.of hurt).mayRetire 0 (grid0 false) = true ∧
      (Run.of drawn).mayRetire 0 (grid0 false) = true ∧ (Run.of drawn).nodeOf 0 = none ∧ (Run.of drawn).commitPending 0 = false ∧
      (Run.of far).mayRetire 0 (grid0 false) = true ∧ ((Run.of far).nodeOf 0).isSome = true ∧
      far.dev.sched.draws.any (fun e => (Run.of far).statsRemote e.2) = true) ∧
    ((Run.of s0).queueOpen (qkey 0 0) = true ∧ (Run.of s0).queueOpen (qkey 0 1) = false ∧ ((Run.of s0).part 0).isSome = true ∧ (Run.of s0).queue (qkey 0 1) = none) ∧
    ([shed true, shed false].all (fun s => decide (lookM s.dev.warps 2 = some (wpOf s)) && (wpOf s).serial.isSome && (Run.of s).frees 0) = true ∧
      (wpOf s0).serial = none ∧ (Run.of s0).frees 0 = false ∧ ((Run.of (shed true)).grid 0).map (fun g => g.pkt.shed) = some true) ∧
    (lookM (pressed true (fun y => { y with draws := [(9, draw0)] }) s0).dev.sched.draws 9 = some draw0 ∧ (Run.of (shed true)).presses 0 1 = true ∧
      (Run.of s0).presses 0 1 = false ∧ (0 < draw0.binCount ∧ draw0.binHas 0 = true ∧ draw0.bins.contains 0 = false)) := by
  and_intros <;> decide +kernel

/-- Bin 0 of a draw that a class-0 launch presses is replayed, bin 7, which does not exist, is not (R326); a grid that has been stopped
keeps its place while a store of it is on its way, and is gone once that has arrived (R39, R334). -/
theorem test_replay_and_end : let s := pressed true (fun y => { y with draws := [(9, draw0)] }) s0
    let n := fun (b : Nat) => (lookM (run1 s (.killAndReplay 9 (some b))).dev.sched.draws 9).map (fun d => nthD d.counters 6 9)
    let e := scd (fun y => { y with grids := [(0, { grid0 false with st := .ending, fin := some (7, 0, 0, 0) })] }) s0
    let there := fun (s : State) => ((Run.of (run1 s (.gridRetire 0))).grid 0).any (fun g => g.open)
    n 0 = some 1 ∧ n 7 = some 0 ∧ there (msd (fun m => { m with stores := [(6, store0 false none)] }) e) = true ∧ there e = false := by decide +kernel

/-- A notify past the ring puts the queue in error; the head packet enters as a waiting launch and RIDX moves (R330). -/
theorem test_queue : let live := scd (fun x => { x with queues := [(qkey 0 0, { probeQueue with widx := 1, ring := 0x3100000 })], grids := [], active := setNth x.active 0 (some 0) }) s0
    let live := { live with mem := live.mem.writes ((bytesOf 128 packetNat).zipIdx.map (fun e => (0x3100000 + e.2, e.1))) }
    let t := run1 live (.ringEntryRead 0 0)
    ((Run.of t).queue 0).map (fun c => (c.ridx, c.err)) = some (1, false) ∧ t.dev.sched.grids.map (fun e => (e.2.seq, e.2.pkt.nx)) = [(some 0, 63)] ∧
    ((Run.of (run1 live (.queueNotify 0 0 17))).queue 0).map (·.err) = some true ∧
    ((Run.of (run1 live (.queueNotify 0 0 16))).queue 0).map (·.widx) = some 16 := by decide +kernel

/-! ### Witnesses of translation, saves and the rest -/

theorem test_wit_translation : let r := Run.of s0
    let f := fun (q u : Option Nat) => scd (fun x => { x with faults := [(6, fault0 q u)] }) s0
    let two := scd (fun x => { x with parts := [(0, { probePart with ranges := [(0, 30)] }), (1, { probePart with groups := 0, eng := 0, ranges := [(33, 1)] })], grids := [] }) s0
    let half : Nat := 32 * 2 ^ 16 + 2 + 2 ^ 191 + 32 * 2 ^ 32 * 2 ^ 192 + 2 ^ 144 + 4 * 2 ^ 180
    let p := Part.parse half 512
    let saved := scd (fun x => { x with images := [(0, [(2, warp0)])], faults := [] }) (dv (fun d => { d with warps := [] }) s0)
    let wants := scd (fun x => { x with images := [(0, [(2, warp0)])] }) (dv (fun d => { d with warps := [] }) (pressed false id s0))
    let press := Run.of (pressed false id s0)
    let q := scd (fun x => { x with images := [(0, [(2, warp0)])] }) s0
    let mend := scd (fun x => { x with lanePend := [(3, 4)] })
    let l := dv (fun d => { d with ms := { d.ms with loads := [(6, load0)] } }) s0
    (r.rootOfSpace 0 0 = some 0x100 ∧ canonical 0x3000000 = true ∧ canonical 0x40000000 = true ∧ (∃ x, r.walk 0 0x100 0x3000000 = .ok x ∧ r.usableLeaf 0 0x3000000 x.1 x.2.1 x.2.2 = true) ∧
      tlbHolders 0 [0, 3, 130] = [640, 0, 512, 3, 130, 544] ∧ r.dev.sched.tlb = [] ∧
      (match r.walk 0 0x100 0x40000000 with | .ok _ => true | .error _ => false) = false) ∧
    (lookM (f none none).dev.sched.faults 6 = some (fault0 none none) ∧ ((Run.of (f none none)).part 0).isSome = true ∧ (f none none).dev.sched.faults.map (·.1) = [6]) ∧
    ((Run.of s0).replied 0 0 = [] ∧ (Run.of (f (some 0) none)).replied 0 0 = [(6, fault0 (some 0) none)] ∧
      (Run.of (f (some 0) (some 1))).replied 0 0 = [(6, fault0 (some 0) (some 1))] ∧ lookM (f (some 0) none).dev.warps 2 = some (wpOf (f (some 0) none))) ∧
    (r.partBusy 0 = true ∧ (Run.of two).partBusy 0 = false ∧ (Run.of two).partBusy 2 = false ∧ p.v = true ∧ p.ok = true ∧
      p.meets { probePart with ranges := [(0, 30)] } = false ∧ p.meets { probePart with groups := 0, eng := 0, ranges := [(33, 1)] } = true) ∧
    (r.together 128 [0] = [0] ∧ r.saved 0 = false ∧ r.issuing [0] = false ∧ r.frees 0 = false ∧
      (press.together 128 [0] = [0] ∧ press.saved 0 = false ∧ press.issuing [0] = false ∧ press.frees 0 = true ∧ press.killable warp0 = false ∧
        press.dev.warps = [(2, warp0)] ∧ press.dev.ms.l1 = [] ∧ press.dev.ms.partials = [] ∧ warp0.core = 0) ∧
      ((Run.of (mend s0)).together 128 [0] = [0] ∧ (Run.of (mend s0)).saved 0 = false ∧ (Run.of (mend s0)).issuing [0] = false ∧ (Run.of (mend s0)).repairing [0] = true ∧
        s0.dev.ms.l1 = [] ∧ s0.dev.warps.any (fun e => e.2.core == 0) = true ∧ r.repairing [0] = false ∧ (Run.of (mend saved)).repairing [0] = true ∧
        (Run.of saved).repairing [0] = false) ∧
      (Run.of l).issuing [0] = true ∧ (Run.of q).saved 0 = true ∧ (Run.of saved).together 128 [0] = [0] ∧ saved.dev.warps.any (fun e => e.2.core == 0) = false ∧
      lookM saved.dev.sched.images 0 = some [(2, warp0)] ∧ saved.dev.sched.faults = [] ∧
      (Run.of saved).wanted [0] ((Run.of saved).savedClass [0]) = false ∧ (Run.of wants).wanted [0] ((Run.of wants).savedClass [0]) = true) := by
  and_intros <;> first | decide +kernel | exact ok_of (by decide +kernel)

/-- TokensFollowTheTalwInForce: before and at the first boundary, with TALW unchanged and changed in this tick and an earlier one. -/
theorem test_wit_tokens : let early := { s0 with clk := { s0.clk with dtime := 999 } }
    let mark := fun (t : Nat) => ccAt 3 (fun c => { c with s := [(4, 0x01000080)] }) |> dv (fun d => { d with power := { d.power with talwMark := [(t, 0x01000100)] } })
    s0.dev.power.tokens.length = 2 ∧ s0.dev.power.refilled.length = 2 ∧ nthD s0.dev.power.tokens 1 0 ≤ 9200 ∧
    (nthD s0.dev.power.refilled 0 0 + 1) * 1000 = 1000 ∧ early.clk.dtime < 1000 ∧ 1000 ≤ s0.clk.dtime ∧
    ReadyCc (cc 3) (.mtsr 7 4 false 0x030) 3 ∧ ReadyCc (mark 1000) (.mtsr 7 4 false 0x030) 3 ∧ ReadyCc (mark 7) (.mtsr 7 4 false 0x030) 3 ∧
    ((cc 3).envCc (.mtsr 7 4 false 0x030) 3).ug 7 = true ∧ s0.dev.power.talwMark = [] ∧
    (run1 s0 (.dramTemperatureSample 1 95)).dev.sys.talw ≠ s0.dev.sys.talw := by
  and_intros <;> first | decide +kernel | exact ready_cc_of (by decide +kernel)

/-- TALW 0x80 halves the north refill from the boundary after the write on (R341, R349). -/
theorem test_tokens : let poor := dv (fun d => { d with power := { d.power with tokens := [0, 0] } }) (ccReg 3 [(4, 0x01000080)])
    let t := run1 poor (.mtsr 7 4 false 0x030)
    (run1 t (.tokenRefill 0)).dev.power.tokens = [9200, 0] ∧
    (run1 { run1 t (.tokenRefill 0) with clk := { s0.clk with dtime := 2000 } } (.tokenRefill 0)).dev.power.tokens = [9200, 0] ∧
    (run1 (dv (fun d => { d with power := { d.power with tokens := [0, 0] } }) { run1 t (.tokenRefill 0) with clk := { s0.clk with dtime := 2000 } }) (.tokenRefill 0)).dev.power.tokens = [4600, 0] := by
  decide +kernel

/-- Time that passes two boundaries, of which none has been served, brings both refills (R341). -/
theorem test_pass : let s := dv (fun d => { d with power := { d.power with tokens := [0, 9] }, sys := { d.sys with tokrate := 100, talw := 0x01000080 } }) s0
    let t := s.pass 2300 2300
    t.clk.dtime = 2000 ∧ t.dev.power.tokens = [100, 209] ∧ t.dev.power.refilled = [2, 2] := by decide +kernel

/-- PowerAndReliability: a block that is new and one too soon; quiet mode above its cap and below 95% of it; the retry counts; the
window empty and not; maps of resident and empty partitions. -/
theorem test_wit_power : let quiet := sysd (fun x => { x with qpwr := 1000, qclk := 2000 }) s0
    let low := dv (fun d => { d with power := { d.power with plim := 1500 } }) quiet
    let m : McRec := ⟨1, 0, 0, 3, 2, 0, 0, 0xFFFF, 5, 0⟩
    let rel := dv (fun d => { d with rel := { d.rel with window := [m], remapped := [5] } }) s0
    let pend := scd (fun x => { x with lanePend := [(0, 4), (9, 5)] }) s0
    let blk := dv (fun d => { d with power := { d.power with blocks := [(3, 1, 1350)] } }) s0
    let node := scd (fun y => { y with grids := [(0, { grid0 false with root := some 0, staged := [(0x3000000, 0)] })] }) s0
    let away := withW (fun w => { w with spilled := true })
    (isGddr 0x3000000 = true ∧ (Run.of node).isStaged 0 0x3000000 = true ∧ lookM away.dev.warps 2 = some (wpOf away) ∧ (wpOf away).spilled = true ∧
      (wpOf away).core = 0 ∧ 5 < (wpOf away).lanes.length ∧ (0 : Nat) ∉ away.dev.rel.remapped) ∧
    ([40][0]? = some 40 ∧ (5 : Nat) ∉ s0.dev.rel.remapped ∧ 5 ∈ rel.dev.rel.remapped ∧ s0.dev.rel.window = [] ∧ rel.dev.rel.window = m :: []) ∧
    (s0.dev.power.blocks = [] ∧ (3, 1, 1350) ∈ blk.dev.power.blocks ∧ blk.clk.dtime + 350 < 1350 + (Run.of blk).interval (stackOf 3)) ∧
    (s0.dev.sys.quietMode = false ∧ quiet.dev.sys.quietMode = true ∧ quiet.dev.sys.qpwr < 1001 ∧ 100 * 900 < 95 * low.dev.sys.qpwr ∧
      (Run.of low).clockMhz + 25 ≤ low.dev.sys.qclk ∧ 1000 ≤ low.dev.sys.qpwr ∧ 95 * low.dev.sys.qpwr ≤ 100 * 1000) ∧
    (nthD s0.dev.power.forced 1 false = false ∧ pend.dev.warps.any (fun w => w.2.core * 4 + w.2.part == 0) = true ∧
      pend.dev.warps.any (fun w => w.2.core * 4 + w.2.part == 9) = false ∧ lookM pend.dev.sched.lanePend 9 = some 5 ∧ lookM pend.dev.sched.lanePend 0 = some 4) ∧
    (s0.dev.sec.recov = false ∧ notifyQueue 0x100 = none ∧ notifyQueue 0x20008 = some 1) := by
  decide +kernel

/-- Temperatures of 84 and 86, then 95 and 105; quiet mode's step of 25 MHz; the lane map's bypass (R343 to R346, R364). -/
theorem test_power : let quiet := sysd (fun x => { x with qpwr := 1000, qclk := 2000 }) s0
    (run1 s0 (.dramTemperatureSample 1 84)).dev.power.halved = [false, false] ∧ (run1 s0 (.dramTemperatureSample 1 86)).dev.power.halved = [false, true] ∧
    (run1 (run1 s0 (.dramTemperatureSample 1 86)) (.dramTemperatureSample 1 84)).dev.power.halved = [false, true] ∧
    (run1 s0 (.dramTemperatureSample 1 95)).dev.sys.talw = 0x00800100 ∧ (run1 s0 (.dramTemperatureSample 0 105)).dev.on = false ∧
    (Run.of (run1 quiet (.quietModeAdjust 1001))).clockMhz = 1975 ∧ physLane 4 3 = 3 ∧ physLane 4 4 = 5 ∧ physLane 32 31 = 31 := by decide +kernel

/-- LiveUpdateAndMailbox: hold and quiet with and without a structure; the ECALLs of ARM, END and RAISE; recovery's mailbox. ARM's
reply 0 and a boot that runs an image rest on a signature of 16,224 bytes that verifies: the two theorems below take one as given. -/
def asks (code operand : Nat) (f : Secure → Secure) : State :=
  dv (fun d => { d with sec := f d.sec }) (ccAt 0 (fun c => { c with calls := [{ asked 0 true with operand := operand, code := code }], waiting := 3, wsd := 4 }))
def imageHeader (svn : Nat := 0) : List (Nat × Byte) :=
  (bytesOf 64 (32 * 2 ^ 416 + 3 * 2 ^ 448 + svn * 2 ^ 464 + 1 * 2 ^ 472 + 0x53584657 * 2 ^ 480)).zipIdx.map (fun e => (e.2, e.1))

theorem test_wit_update : let hold := fun (p : Nat) (q : Bool) => sysd (fun x => { x with hold := true, quiet := q, hoptr := p }) s0
    let rec' := dv (fun d => { d with sec := { d.sec with recov := true } }) s0
    let busy := dv (fun d => { d with sec := { d.sec with recov := true, mbBusy := true } }) s0
    let up := asks 0x21 1 (fun x => { x with update := some 1 })
    let raising := fun (n : Nat) => asks 0x22 n (fun x => { x with flash := imageHeader n })
    let blowing := asks 0x22 4 (fun x => { x with fuseRow := 0b101, blow := some (0, [1, 3]) })
    let halted := sysd (fun x => { x with ccrun := 9 }) (asks 0x20 16 id)
    let given := fun (n : Nat) => sysd (fun x => { x with handed := n }) (hold 0x3000000 false)
    let reads := scd (fun x => { x with queues := [(qkey 0 0, { probeQueue with widx := 1, ring := 0x3100000 })], active := setNth x.active 0 (some (qkey 0 0)) })
      (sysd (fun x => { x with reading := some (qkey 0 0) }) (hold 0 false))
    (reads.dev.sys.reading = some (qkey 0 0) ∧ ((Run.of reads).unread (qkey 0 0)).isSome = true ∧ (hold 0 false).dev.sys.reading = none ∧
      (given 1000).dev.sys.handed ≠ 0 ∧ (given 1000).clk.dtime ≤ 1000 ∧ 999 < (given 999).clk.dtime ∧ (given 0).dev.sys.handed = 0 ∧
      (Run.of (hold 0x3000000 false)).bankRuns (run 0x3000020 12) = false ∧ (Run.of (hold 0x3000000 false)).bankRuns (run 0x3000040 256) = false ∧
      ((raising 0).core 0).asked = ((raising 0).core 0).call ∧ ((raising 0).core 0).call.isSome = true ∧ ((raising 0).core 0).waiting = 3) ∧
    ((hold 0 false).dev.sys.hold = true ∧ (hold 0 false).dev.sys.quiet = false ∧ (hold 0x3000000 true).dev.sys.quiet = true ∧ (hold 0x3000000 false).dev.sys.hoptr ≠ 0 ∧
      (hold 0x3000000 false).dev.ms.partials = [] ∧ (hold 0x3000000 false).dev.ms.poison = []) ∧
    ((Run.of s0).called 0 0x20 16 = false ∧ (Run.of halted).called 0 0x20 16 = true ∧ (Run.of halted).armReply 0 16 = (3, none) ∧
      (Run.of (asks 0x20 99 id)).armReply 0 99 = (1, none)) ∧
    ((Run.of up).called 0 0x21 1 = true ∧ up.dev.sec.update = some 1 ∧ (Run.of (asks 0x21 1 id)).called 0 0x21 1 = true ∧ (asks 0x21 1 id).dev.sec.update = none) ∧
    ((Run.of (asks 0x22 5 id)).called 0 0x22 5 = true ∧ (Run.of (asks 0x22 5 id)).raiseReply 5 = 1 ∧
      (Run.of (raising 0)).raiseReply 0 = 0 ∧ (Run.of (raising 2)).raiseReply 2 = 0 ∧ (raising 2).dev.sec.count = 0 ∧
      clearBits (raising 0).dev.sec.fuseRow 0 = [] ∧ clearBits (raising 2).dev.sec.fuseRow 2 = [0, 1] ∧
      [halted, up, raising 2].all (fun s => s.dev.sec.blow.isNone) = true ∧ (blowing.dev.sec.blow = some (0, [1, 3]) ∧ blowing.dev.sec.blow.isSome = true)) ∧
    ((Run.of s0).mailbox 0 = false ∧ (Run.of rec').mailbox 0 = true ∧ rec'.dev.sec.hw ≠ 8 ∧ (Run.of rec').mailbox 1 = false ∧ busy.dev.sec.mbBusy = true ∧
      eraseResult 0 65536 = 0 ∧ eraseResult 1 65536 ≠ 0 ∧ programResult 0 256 = 0) ∧
    (clearBits 0b101 2 = [1, 3] ∧ ({ s0.dev.sec with fuseRow := 0b101 } : Secure).count + 2 ≤ 64) := by decide +kernel

/-- SVN 2 over a count of 0: two fuses, one after the other, and the reply with the second (R368). -/
theorem test_raise : let s := run1 (asks 0x22 2 (fun x => { x with flash := imageHeader 2 })) (.raise 0 2)
    let b := fun (r : Run) => (r.dev.sec.count, (r.cc 0).asked.isSome)
    [b (Run.of s), b (Run.of s).blow, b (Run.of s).blow.blow] = [(0, true), (1, true), (2, false)] := by decide +kernel

/-- SHA-256 and SHA-512 of "abc", the examples of FIPS 180-4 (R365, R369). -/
theorem test_hashes : sha256 [0x61, 0x62, 0x63] = bytesBE 32 0xBA7816BF8F01CFEA414140DE5DAE2223B00361A396177A9CB410FF61F20015AD ∧
    sha512 [0x61, 0x62, 0x63] = bytesBE 64
      (0xDDAF35A193617ABACC417349AE20413112E6FA4E89A97EA20A9EEEE64B55D39A * 2 ^ 256 + 0x2192992A274FC1A836BA3C23A3FEEBBD454D4423643CE80E2A9AC94FA54CA49F) := by
  decide +kernel

/-- A read within the flash device, whose size the model leaves open. -/
theorem test_wit_read (h : 16 ≤ Config.flashSize) : readResult 0 16 = 0 := by
  rw [readResult, if_neg]
  omega

/-- ARM's reply is 0 for an image that verifies. -/
def armed : State := sysd (fun x => { x with ccrun := 9 }) (asks 0x20 16 (fun x => { x with flash := imageHeader }))

theorem test_wit_arm : (armed.dev.sec.image 0).isSome = true ∧ ∀ i, armed.dev.sec.image 0 = some i → armed.dev.sec.authentic i = true →
    (Run.of armed).called 0 0x20 16 = true ∧ armed.dev.sec.blow = none ∧ (Run.of armed).armReply 0 16 = (0, some i) ∧ armed.memOk := by
  refine ⟨by decide +kernel, fun i hi ha => ⟨by decide +kernel, rfl, ?_, show armed.mem.wf = true by decide +kernel⟩⟩
  have hi' : (Run.of armed).dev.sec.image (fld 16 0 1) = some i := hi
  have ha' : (Run.of armed).dev.sec.authentic i = true := ha
  unfold Run.armReply
  dsimp only
  split
  · rename_i h; exact absurd h (by decide +kernel)
  split
  · rename_i h; exact absurd h (by decide +kernel)
  rw [hi']
  dsimp only
  rw [ha']
  rw [if_neg (by decide), if_neg (by decide +kernel), if_neg (by decide +kernel)]

/-- SpdmRequests: before and after the version is agreed; the recovery state. -/
theorem test_wit_spdm : let at' := fun (n : Nat) => dv (fun d => { d with sec := { d.sec with spdm := n } }) s0
    s0.dev.sec.spdm < 1 ∧ 1 ≤ (at' 1).dev.sec.spdm ∧ (at' 1).dev.sec.spdm ≤ 1 ∧ 2 ≤ (at' 2).dev.sec.spdm ∧ (at' 2).dev.sec.spdm ≤ 2 ∧
    3 ≤ (at' 3).dev.sec.spdm ∧ (at' 3).dev.sec.spdm ≤ 3 ∧ (at' 3).dev.sec.askedKind = 0 ∧
    (dv (fun d => { d with sec := { d.sec with doe := [0x13, 0x83, 0, 5] } }) s0).dev.sec.askedKind = 5 ∧ 0 ≤ s0.dev.sec.spdm ∧ s0.dev.sec.chain.length ≤ 9999999 ∧
    "responder-challenge_auth signing".length ≤ 36 ∧ "responder-measurements signing".length ≤ 36 ∧ (0x84 : Nat) ∈ spdmListed ∧ (5 : Nat) ∉ spdmListed ∧ (5 : Nat) ≠ 0xFF ∧
    ({ s0.dev.sec with recov := true } : Secure).measured 3 = List.replicate 32 0 ∧
    (run1 s0 .getCapabilities).dev.outs = [.spdm [0x13, 0x7F, 4, 0]] ∧ (run1 s0 .getVersion).dev.outs = [.spdm [0x10, 0x04, 0, 0, 0, 1, 0x00, 0x13]] ∧
    ((run1 (at' 3) (.getMeasurements 0 false [])).dev.outs.head?.bind (fun o => match o with
      | .spdm m => some (m.take 8)
      | _ => none)) = some [0x13, 0x60, 4, 0, 0, 0, 0, 0] := by decide +kernel

theorem test_wit_certificate : 0 < (dv (fun d => { d with sec := { d.sec with flash := [(certArea, 4), (certArea + 1, 0)] } }) s0).dev.sec.chain.length := by
  decide +kernel

/-- ResetAndPower: a sleeping device, one stopped by heat, one that is off; erased flash; a failing stage; and an image that verifies. -/
theorem test_wit_reset : let slept := dv (fun d => { d with on := false, asleep := true }) s0
    let hot := dv (fun d => { d with power := { d.power with trip := true } }) s0
    slept.dev.asleep = true ∧ hot.dev.power.trip = true ∧ s0.dev.asleep = false ∧ s0.dev.power.trip = false ∧ slept.dev.on = false ∧ s0.dev.on = true ∧
    s0.dev.sec.hw ≠ 1 ∧ s0.dev.sec.hw ≠ 3 ∧ s0.dev.sec.hw ≠ 4 ∧ s0.dev.cores.any (fun e => e.2.offline) = false := by decide +kernel

/-- The test machine at a stage of bring-up. -/
def atStage (n : Nat) (f : Secure → Secure) : State → State := dv (fun d => { d with sec := f { d.sec with stage := n, recov := false } })

/-- ResetAndPower, the stages: each that ends and each that fails; erased flash, with one slot rejected and with none. -/
theorem test_wit_stages : let st := fun (n hw : Nat) => atStage n (fun x => { x with hw := hw }) s0
    let early := atStage 5 (fun x => { x with bootAt := 0 }) s0
    let late := { early with clk := { early.clk with dtime := 2000000000 } }
    let lock := timed 5000 early
    let broken := dv (fun d => { d with cores := [(3, { Core.empty with offline := true })] }) (st 4 0)
    [st 1 0, st 1 1, st 2 0, st 3 0, st 3 3, st 4 0, st 4 4, st 6 0, st 7 0, early, late, lock, broken].all (fun s => !s.dev.sec.recov) = true ∧
    (st 1 1).dev.sec.hw = 1 ∧ (st 1 0).dev.sec.hw ≠ 1 ∧ s0.dev.sec.meas.length = 4 ∧
    s0.dev.sec.verify 0 = none ∧ s0.dev.sec.verify 1 = none ∧ (st 2 0).dev.sec.nextSlot = some 1 ∧ (st 2 0).dev.sec.arej = false ∧
    (atStage 2 (fun x => { x with arej := true }) s0).dev.sec.nextSlot = some 1 ∧ (atStage 2 (fun x => { x with brej := true }) s0).dev.sec.nextSlot = some 0 ∧
    broken.dev.cores.any (fun e => e.2.offline) = true ∧ lock.dev.ptp.st = .locked ∧ s0.dev.ptp.st ≠ .locked ∧ s0.dev.sys.ccrun.getLsbD 0 = false ∧
    early.dev.sec.bootAt + 2000000000 ≤ late.clk.dtime ∧ early.clk.dtime < early.dev.sec.bootAt + 2000000000 ∧
    (st 6 0).dev.sec.stage ≠ 7 ∧ (st 5 0).dev.sec.stage < 6 := by decide +kernel

/-- Stage 2 with slot B rejected and an image in slot A that verifies. -/
theorem test_wit_boot : let s := atStage 2 (fun x => { x with brej := true }) armed
    ∀ i, s.dev.sec.verify 0 = some i → s.dev.sec.stage = 2 ∧ s.dev.sec.recov = false ∧ s.dev.sec.nextSlot = some 0 ∧ s.memOk := by
  intro s i _
  exact ⟨by decide +kernel, by decide +kernel, by decide +kernel, show s.mem.wf = true by decide +kernel⟩

/-- RESET begins at stage 1; on erased flash both slots are rejected, B first, and stage 2 ends in the recovery state (R367, R373 to R375).
A device whose stages all end starts its control cores at stage 7. -/
theorem test_reset : let t := run1 s0 .reset
    let r := ((Run.of t).bringUp.bringUp.bringUp).dev.sec
    let up := (Run.of (atStage 6 id t)).bringUp.dev
    t.dev.sec.stage = 1 ∧ t.dev.sys.ccrun = 8 ∧ t.dev.warps = [] ∧ (Run.of t).bringUp.dev.sec.stage = 2 ∧
    (Run.of t).bringUp.bringUp.dev.sec.brej = true ∧ (Run.of t).bringUp.bringUp.dev.sec.recov = false ∧
    r.recov = true ∧ r.fail = 2 ∧ r.stage = 6 ∧ up.sec.stage = 7 ∧ up.sys.ccrun = 15 := by decide +kernel

end Sys2Proof.Tests
end

section
/-! PROOFS. Reset, bring-up and the removal of power: what each stage leaves, and what the device serves (chapter 25). -/

namespace Sys2Proof.Machine

/-! ### Bytes written from an address on -/

theorem Memory.writes_append (l k : List (Nat × Byte)) (m : Memory) : m.writes (l ++ k) = (m.writes l).writes k := by
  induction l generalizing m with
  | nil => rfl
  | cons e l ih => exact ih _

@[simp] theorem Run.pokes_dev (bs : List Byte) (r : Run) (a : Nat) : (r.pokes a bs).dev = r.dev := by
  induction bs generalizing r a with
  | nil => rfl
  | cons b bs ih => exact ih _ _

@[simp] theorem Run.pokes_clk (bs : List Byte) (r : Run) (a : Nat) : (r.pokes a bs).clk = r.clk := by
  induction bs generalizing r a with
  | nil => rfl
  | cons b bs ih => exact ih _ _

@[simp] theorem Run.pokes_cur (bs : List Byte) (r : Run) (a : Nat) : (r.pokes a bs).cur = r.cur := by
  induction bs generalizing r a with
  | nil => rfl
  | cons b bs ih => exact ih _ _

/-- Once a run's bytes are written, `bs` stand from `a` on, over what the run had written before. -/
theorem Memory.read_writes_pokes (bs : List Byte) {m : Memory} (hm : m.wf = true) (r : Run) (a x : Nat) :
    (m.writes (r.pokes a bs).w.reverse).read x =
      if x < a then (m.writes r.w.reverse).read x else (bs[x - a]?).getD ((m.writes r.w.reverse).read x) := by
  induction bs generalizing r a with
  | nil => simp [Run.pokes]
  | cons b bs ih =>
    have hw : (m.writes (r.poke a b).w.reverse).read x = if x = a then b else (m.writes r.w.reverse).read x := by
      have he : (r.poke a b).w.reverse = r.w.reverse ++ [(a, b)] := List.reverse_cons
      rw [he, Memory.writes_append]
      exact Memory.read_write a x b (Memory.writes_wf _ hm)
    rw [Run.pokes, ih, hw]
    rcases Nat.lt_trichotomy x a with h | h | h
    · rw [if_pos (by omega), if_neg (by omega), if_pos h]
    · subst h
      rw [if_pos (by omega), if_pos rfl, if_neg (by omega), Nat.sub_self]
      rfl
    · have hx : x - a = x - (a + 1) + 1 := by omega
      rw [if_neg (by omega), if_neg (by omega), if_neg (by omega), hx, List.getElem?_cons_succ]

theorem Memory.read_writes_pokes_outside (bs : List Byte) {m : Memory} (hm : m.wf = true) (r : Run) {a x : Nat}
    (h : x < a ∨ a + bs.length ≤ x) : (m.writes (r.pokes a bs).w.reverse).read x = (m.writes r.w.reverse).read x := by
  rw [Memory.read_writes_pokes bs hm]
  rcases h with h | h
  · rw [if_pos h]
  · rw [if_neg (by omega), List.getElem?_eq_none (by omega)]
    rfl

theorem Memory.readN_eq (bs : List Byte) (m : Memory) (a : Nat) (h : ∀ (k : Nat) (hk : k < bs.length), m.read (a + k) = bs[k]) :
    m.readN a bs.length = bs := by
  induction bs generalizing a with
  | nil => rfl
  | cons b bs ih =>
    have hb : m.read a = b := h 0 (Nat.zero_lt_succ _)
    have hbs : m.readN (a + 1) bs.length = bs := ih (a + 1) (fun k hk => by
      have hs := h (k + 1) (Nat.succ_lt_succ hk)
      rw [show a + 1 + k = a + (k + 1) by omega]
      exact hs)
    rw [List.length_cons, Memory.readN, hb, hbs]

theorem Memory.readN_writes_pokes (bs : List Byte) {m : Memory} (hm : m.wf = true) (r : Run) (a : Nat) :
    (m.writes (r.pokes a bs).w.reverse).readN a bs.length = bs := by
  refine Memory.readN_eq bs _ a (fun k hk => ?_)
  rw [Memory.read_writes_pokes bs hm, if_neg (by omega), Nat.add_sub_cancel_left, List.getElem?_eq_getElem hk]
  rfl

/-! ### Control cores -/

theorem CtlCores.get_modify_self (c : CtlCores) {k : Nat} (f : CtlCore → CtlCore) (h : k < 4) :
    (c.modify k f).get k = f (c.get k) := by
  match k, h with
  | 0, _ | 1, _ | 2, _ | 3, _ => rfl

theorem CtlCores.get_modify_ne (c : CtlCores) {j k : Nat} (f : CtlCore → CtlCore) (hj : j < 4) (hk : k < 4) (h : j ≠ k) :
    (c.modify k f).get j = c.get j := by
  match j, hj, k, hk with
  | 0, _, 1, _ | 0, _, 2, _ | 0, _, 3, _ | 1, _, 0, _ | 1, _, 2, _ | 1, _, 3, _ | 2, _, 0, _ | 2, _, 1, _ | 2, _, 3, _
  | 3, _, 0, _ | 3, _, 1, _ | 3, _, 2, _ => rfl
  | 0, _, 0, _ | 1, _, 1, _ | 2, _, 2, _ | 3, _, 3, _ => exact absurd rfl h

@[simp] theorem Run.modCc_clk (r : Run) (k : Nat) (f : CtlCore → CtlCore) : (r.modCc k f).clk = r.clk := rfl
@[simp] theorem Run.modCc_mem (r : Run) (k : Nat) (f : CtlCore → CtlCore) : (r.modCc k f).mem = r.mem := rfl
@[simp] theorem Run.modCc_w (r : Run) (k : Nat) (f : CtlCore → CtlCore) : (r.modCc k f).w = r.w := rfl
@[simp] theorem Run.modCc_cur (r : Run) (k : Nat) (f : CtlCore → CtlCore) : (r.modCc k f).cur = r.cur := rfl
@[simp] theorem Run.modCc_dev (r : Run) (k : Nat) (f : CtlCore → CtlCore) :
    (r.modCc k f).dev = { r.dev with sys := { r.dev.sys with cc := r.dev.sys.cc.modify k f } } := rfl

theorem Run.cc_modCc_self (r : Run) {k : Nat} (f : CtlCore → CtlCore) (h : k < 4) : (r.modCc k f).cc k = f (r.cc k) :=
  CtlCores.get_modify_self _ f h

theorem Run.cc_modCc_ne (r : Run) {j k : Nat} (f : CtlCore → CtlCore) (hj : j < 4) (hk : k < 4) (h : j ≠ k) :
    (r.modCc k f).cc j = r.cc j := CtlCores.get_modify_ne _ f hj hk h

@[simp] theorem finish_core (s : State) (r : Run) (k : Nat) : (finish s r).core k = r.cc k := rfl

/-! ### How a stage ends (R373, R375) -/

/-- The recovery state, which stage `n` has led to (R375). -/
def Secure.RecoveredFrom (x : Secure) (n : Nat) : Prop := x.recov = true ∧ x.fail = n ∧ x.stage = 6

/-- Bring-up goes on, in stage `n` (R373). -/
def Secure.Reached (x : Secure) (n : Nat) : Prop := x.recov = false ∧ x.stage = n

theorem Run.recover_recoveredFrom (r : Run) (n : Nat) : (r.recover n).dev.sec.RecoveredFrom n := ⟨rfl, rfl, rfl⟩

theorem Run.stageTo_reached {r : Run} (n : Nat) (h : r.dev.sec.recov = false) : (r.stageTo n).dev.sec.Reached n := ⟨h, rfl⟩

theorem Run.bringUp_recov {r : Run} (h : r.dev.sec.recov = true) : r.bringUp = r := by
  simp only [Run.bringUp, h, if_true]

section
variable {r : Run} (h : r.dev.sec.recov = false)
include h

theorem Run.bringUp_stage1 (hs : r.dev.sec.stage = 1) :
    r.bringUp = if r.dev.sec.hw = 1 then (r.measure4 0).recover 1 else r.fuseLoad.stageTo 2 := by
  simp only [Run.bringUp, h, hs, Bool.false_eq_true, if_false]

theorem Run.bringUp_stage2 {slot : Nat} (hs : r.dev.sec.stage = 2) (hn : r.dev.sec.nextSlot = some slot) :
    r.bringUp = r.trySlot slot := by
  simp only [Run.bringUp, h, hs, hn, Bool.false_eq_true, if_false]

theorem Run.bringUp_stage3 (hs : r.dev.sec.stage = 3) :
    r.bringUp = if r.dev.sec.hw = 3 then r.recover 3 else r.stageTo 4 := by
  simp only [Run.bringUp, h, hs, Bool.false_eq_true, if_false]

theorem Run.bringUp_stage4 (hs : r.dev.sec.stage = 4) :
    r.bringUp = if r.dev.sec.hw = 4 ∨ r.dev.cores.any (fun e => e.2.offline) then r.recover 4 else r.stageTo 5 := by
  simp only [Run.bringUp, h, hs, Bool.false_eq_true, if_false]

theorem Run.bringUp_stage5 (hs : r.dev.sec.stage = 5) :
    r.bringUp = if r.dev.ptp.st = .locked ∨ r.dev.sec.bootAt + 2000000000 ≤ r.clk.dtime
      then (r.modSec (fun s => { s with plk := r.dev.ptp.st == .locked })).stageTo 6 else r := by
  simp only [Run.bringUp, h, hs, Bool.false_eq_true, if_false, beq_iff_eq]

theorem Run.bringUp_stage6 (hs : r.dev.sec.stage = 6) : r.bringUp = ((List.range 3).foldl Run.ccBoot r).stageTo 7 := by
  simp only [Run.bringUp, h, hs, Bool.false_eq_true, if_false]

end

/-! ### Stage 1: the fuses (R373, R371) -/

theorem Secure.measured_four (x : Secure) : x.measured 4 = nthD x.meas 3 [] := by
  simp only [Secure.measured, show ¬ ((4 : Nat) = 2 ∨ (4 : Nat) = 3) by omega, and_false, if_false, Nat.reduceSub]

theorem Run.measure4_measured {r : Run} (n : Nat) (h : r.dev.sec.meas.length = 4) :
    nthD (r.measure4 n).dev.sec.meas 3 [] = sha256 (r.dev.sec.parts n) := by
  have hset := nthD_set r.dev.sec.meas 3 3 (sha256 (r.dev.sec.parts n)) [] (by omega)
  rw [if_pos rfl] at hset
  exact hset

/-- What stage 1 leaves: the recovery state or stage 2 with the lane map, and measurement 4 either way. -/
theorem Run.bringUp_fuses {r : Run} (h : r.dev.sec.recov = false) (hs : r.dev.sec.stage = 1) :
    (r.dev.sec.hw = 1 → r.bringUp.dev.sec.RecoveredFrom 1) ∧
    (r.dev.sec.hw ≠ 1 → r.bringUp.dev.sec.Reached 2 ∧ r.bringUp.dev.sched.laneMap = r.dev.sec.laneFuse) ∧
    (r.dev.sec.meas.length = 4 → r.bringUp.dev.sec.measured 4 = sha256 (r.dev.sec.parts 0)) := by
  rw [Run.bringUp_stage1 h hs, Secure.measured_four]
  by_cases hw : r.dev.sec.hw = 1
  · rw [if_pos hw]
    exact ⟨fun _ => Run.recover_recoveredFrom _ 1, fun hn => absurd hw hn, Run.measure4_measured 0⟩
  · rw [if_neg hw]
    exact ⟨fun hn => absurd hn hw, fun _ => ⟨Run.stageTo_reached 2 h, rfl⟩, Run.measure4_measured (r := r.modSched _) 0⟩

/-! ### Stage 2: the image (R365 to R367, R374) -/

/-- A slot whose image has not verified. -/
def Secure.reject (x : Secure) (slot : Nat) : Secure := if slot = 0 then { x with arej := true } else { x with brej := true }

theorem Secure.reject_recov (x : Secure) (slot : Nat) : (x.reject slot).recov = x.recov := by
  unfold Secure.reject; split <;> rfl

theorem Secure.reject_stage (x : Secure) (slot : Nat) : (x.reject slot).stage = x.stage := by
  unfold Secure.reject; split <;> rfl

theorem Secure.reject_count (x : Secure) (slot : Nat) : (x.reject slot).count = x.count := by
  unfold Secure.reject; split <;> rfl

/-- Whether a slot has been rejected. -/
def Secure.rejected (x : Secure) (slot : Nat) : Bool := if slot = 0 then x.arej else x.brej

theorem Secure.nextSlot_eq (x : Secure) : x.nextSlot = let a := (x.flashB bootRecord).toNat % 2
    if !x.rejected a then some a else if !x.rejected (1 - a) then some (1 - a) else none := rfl

theorem Secure.rejected_other (x : Secure) (slot : Nat) : (if slot = 0 then x.brej else x.arej) = x.rejected (1 - slot) := by
  cases slot with
  | zero => rfl
  | succ n => rw [Secure.rejected, if_neg n.succ_ne_zero, if_pos (by omega)]

theorem Secure.rejected_reject_self (x : Secure) (slot : Nat) : (x.reject slot).rejected slot = true := by
  unfold Secure.reject Secure.rejected; split <;> rfl

theorem Secure.rejected_reject_other (x : Secure) (slot : Nat) : (x.reject slot).rejected (1 - slot) = x.rejected (1 - slot) := by
  rw [← Secure.rejected_other, ← Secure.rejected_other]
  unfold Secure.reject; split <;> rfl

theorem Secure.reject_flashB (x : Secure) (slot a : Nat) : (x.reject slot).flashB a = x.flashB a := by
  unfold Secure.reject; split <;> rfl

/-- After the slot that was to be tried is rejected, the other one is left unless it was rejected before. -/
theorem Secure.nextSlot_reject {x : Secure} {slot : Nat} (h : x.nextSlot = some slot) :
    (x.reject slot).nextSlot = if x.rejected (1 - slot) then none else some (1 - slot) := by
  rw [Secure.nextSlot_eq] at h
  rw [Secure.nextSlot_eq, Secure.reject_flashB]
  have ha : (x.flashB bootRecord).toNat % 2 < 2 := Nat.mod_lt _ (by decide)
  generalize (x.flashB bootRecord).toNat % 2 = a at h ha
  have hself := x.rejected_reject_self slot
  have hother := x.rejected_reject_other slot
  cases hA : x.rejected a with
  | false =>
    obtain rfl : a = slot := by simpa [hA] using h
    cases hB : x.rejected (1 - a) <;> simp [hself, hother, hB]
  | true =>
    obtain ⟨hB, rfl⟩ : x.rejected (1 - a) = false ∧ 1 - a = slot := by simpa [hA] using h
    have hback : 1 - (1 - a) = a := by omega
    rw [hback] at hother ⊢
    simp [hself, hother, hA]

theorem Run.trySlot_rejected {r : Run} {slot : Nat} (h : r.dev.sec.verify slot = none) :
    r.trySlot slot = let q := r.modSec (fun x => x.reject slot)
      if q.dev.sec.nextSlot.isNone then (q.modSec (fun x => { x with cnt := x.count })).recover 2 else q := by
  simp only [Run.trySlot, h]
  rfl

theorem Run.trySlot_verified {r : Run} {slot : Nat} {i : Image} (h : r.dev.sec.verify slot = some i) :
    r.trySlot slot = ((r.bootImage slot i).modSec (fun x => { x with cnt := x.count })).stageTo 3 := by
  simp only [Run.trySlot, h]

/-- A slot that does not verify leads to the recovery state where the other one is rejected too, and to the other one else. -/
theorem Run.trySlot_rejected_sec {r : Run} {slot : Nat} (h : r.dev.sec.recov = false) (hn : r.dev.sec.nextSlot = some slot)
    (hv : r.dev.sec.verify slot = none) :
    (r.dev.sec.rejected (1 - slot) = true →
      (r.trySlot slot).dev.sec.RecoveredFrom 2 ∧ (r.trySlot slot).dev.sec.cnt = r.dev.sec.count) ∧
    (r.dev.sec.rejected (1 - slot) = false →
      (r.trySlot slot).dev.sec.Reached r.dev.sec.stage ∧ (r.trySlot slot).dev.sec.nextSlot = some (1 - slot)) := by
  have hnext := Secure.nextSlot_reject hn
  rw [Run.trySlot_rejected hv]
  constructor
  · intro ho
    rw [if_pos ho] at hnext
    simp only [Run.modSec_dev, hnext, Option.isNone_none, if_true]
    exact ⟨Run.recover_recoveredFrom _ 2, Secure.reject_count _ slot⟩
  · intro ho
    rw [if_neg (by rw [ho]; decide)] at hnext
    simp only [Run.modSec_dev, hnext, Option.isNone_some, Bool.false_eq_true, if_false]
    exact ⟨⟨(Secure.reject_recov _ slot).trans h, Secure.reject_stage _ slot⟩, trivial⟩

theorem Run.trySlot_verified_w {r : Run} {slot : Nat} {i : Image} (h : r.dev.sec.verify slot = some i) :
    (r.trySlot slot).w = (r.pokes (bankBase 0) i.body).w := by
  simp only [Run.trySlot_verified h, Run.stageTo, Run.bootImage, Run.measure4, Run.modSec_w, Run.modCc_w, Run.modSys_w]

/-- A slot that verifies ends stage 2: its image runs, CC3 at its entry, and CNT is filled (R367, R374). -/
theorem Run.trySlot_boots {r : Run} {slot : Nat} {i : Image} (h : r.dev.sec.recov = false)
    (hv : r.dev.sec.verify slot = some i) : let q := r.trySlot slot
    q.dev.sec.Reached 3 ∧ q.dev.sys.fwslot = slot ∧ q.dev.sec.slot = slot ∧ q.dev.sec.cnt = r.dev.sec.count ∧
      (q.cc 3).mode = .machine ∧
      (q.cc 3).pc = entryPc (BitVec.ofNat 64 (bankBase 0 + imgEntry (r.dev.sec.header slot))) := by
  simp only [Run.trySlot_verified hv, Run.stageTo, Run.bootImage, Run.measure4, Run.cc, Run.modSec_dev, Run.modCc_dev,
    Run.modSys_dev, Run.pokes_dev, CtlCores.get_modify_self _ _ (show 3 < 4 by omega), Secure.Reached, Secure.count, h, and_self]

/-! ### Stage 7: the control cores (R373, entry 140) -/

/-- Where the firmware that the ROM has started begins. -/
def Secure.firmwarePc (x : Secure) : DWord := entryPc (BitVec.ofNat 64 (bankBase 0 + imgEntry (x.header x.slot)))

/-- The bit of one control core in CCRUN. -/
theorem getLsbD_ccBit {k : Nat} (hk : k < 4) (j : Nat) : (1#4 <<< k).getLsbD j = decide (k = j) := by
  rw [← BitVec.twoPow_eq, BitVec.getLsbD_twoPow, decide_eq_true hk, Bool.true_and]

theorem Run.ccBoot_running {r : Run} {k : Nat} (h : r.dev.sys.ccrun.getLsbD k = true) : r.ccBoot k = r := by
  rw [Run.ccBoot, if_pos h]

/-- A control core that does not run is started at the firmware's entry. -/
theorem Run.ccBoot_stopped {r : Run} {k : Nat} (h : r.dev.sys.ccrun.getLsbD k = false) :
    r.ccBoot k = ((r.modCc k (fun c => { c with
        tvec := BitVec.ofNat 64 (bankBase 0 + imgEntry (r.dev.sec.header r.dev.sec.slot)), bank := some 0 })).modCc k
      CtlCore.start).modSys (fun x => { x with ccrun := x.ccrun ||| (1#4 <<< k) }) := by
  rw [Run.ccBoot, if_neg (by rw [h]; decide), Run.ccStart, if_neg (by rw [Run.modCc_dev, h]; decide)]

theorem Run.ccBoot_sec (r : Run) (k : Nat) : (r.ccBoot k).dev.sec = r.dev.sec := by
  cases h : r.dev.sys.ccrun.getLsbD k with
  | true => rw [Run.ccBoot_running h]
  | false => rw [Run.ccBoot_stopped h]; rfl

/-- What starts one control core leaves the others. -/
theorem Run.ccBoot_ne (r : Run) {j k : Nat} (hj : j < 4) (hk : k < 4) (hne : j ≠ k) :
    (r.ccBoot k).cc j = r.cc j ∧ (r.ccBoot k).dev.sys.ccrun.getLsbD j = r.dev.sys.ccrun.getLsbD j := by
  cases h : r.dev.sys.ccrun.getLsbD k with
  | true => rw [Run.ccBoot_running h]; exact ⟨rfl, rfl⟩
  | false =>
    rw [Run.ccBoot_stopped h]
    constructor
    · exact (Run.cc_modCc_ne _ _ hj hk hne).trans (Run.cc_modCc_ne r _ hj hk hne)
    · have hbit : (1#4 <<< k).getLsbD j = false := by rw [getLsbD_ccBit hk, decide_eq_false hne.symm]
      simp only [Run.modSys_dev, Run.modCc_dev, BitVec.getLsbD_or, hbit, Bool.or_false]

/-- The control core runs, and where it did not before it begins the firmware in supervisor mode. -/
theorem Run.ccBoot_self (r : Run) {k : Nat} (hk : k < 4) :
    (r.ccBoot k).dev.sys.ccrun.getLsbD k = true ∧ (r.dev.sys.ccrun.getLsbD k = false →
      ((r.ccBoot k).cc k).mode = .supervisor ∧ ((r.ccBoot k).cc k).pc = r.dev.sec.firmwarePc) := by
  cases h : r.dev.sys.ccrun.getLsbD k with
  | true => rw [Run.ccBoot_running h]; exact ⟨h, fun hn => absurd hn (by decide)⟩
  | false =>
    rw [Run.ccBoot_stopped h]
    constructor
    · have hbit : (1#4 <<< k).getLsbD k = true := by rw [getLsbD_ccBit hk, decide_eq_true rfl]
      simp only [Run.modSys_dev, Run.modCc_dev, BitVec.getLsbD_or, hbit, Bool.or_true]
    · intro _
      simp only [Run.cc, Run.modSys_dev, Run.modCc_dev, CtlCores.get_modify_self _ _ hk, CtlCore.start, Secure.firmwarePc, and_self]

theorem foldl_ccBoot_sec (ks : List Nat) (r : Run) : (ks.foldl Run.ccBoot r).dev.sec = r.dev.sec := by
  induction ks generalizing r with
  | nil => rfl
  | cons k ks ih => exact (ih _).trans (Run.ccBoot_sec r k)

theorem foldl_ccBoot_not_mem {ks : List Nat} {j : Nat} (hj : j < 4) (hks : ∀ k ∈ ks, k < 4) (hn : j ∉ ks) (r : Run) :
    (ks.foldl Run.ccBoot r).cc j = r.cc j ∧
      (ks.foldl Run.ccBoot r).dev.sys.ccrun.getLsbD j = r.dev.sys.ccrun.getLsbD j := by
  induction ks generalizing r with
  | nil => exact ⟨rfl, rfl⟩
  | cons k ks ih =>
    obtain ⟨hne, hnot⟩ := not_or.1 (mt List.mem_cons.2 hn)
    obtain ⟨hcc, hrun⟩ := r.ccBoot_ne hj (hks k List.mem_cons_self) hne
    obtain ⟨hcc', hrun'⟩ := ih (fun x hx => hks x (List.mem_cons_of_mem k hx)) hnot (r.ccBoot k)
    exact ⟨hcc'.trans hcc, hrun'.trans hrun⟩

/-- Every control core of a list without repetitions runs after all have been started. -/
theorem foldl_ccBoot_mem {ks : List Nat} {j : Nat} (hd : ks.Nodup) (hks : ∀ k ∈ ks, k < 4) (hm : j ∈ ks) (r : Run) :
    (ks.foldl Run.ccBoot r).dev.sys.ccrun.getLsbD j = true ∧ (r.dev.sys.ccrun.getLsbD j = false →
      ((ks.foldl Run.ccBoot r).cc j).mode = .supervisor ∧ ((ks.foldl Run.ccBoot r).cc j).pc = r.dev.sec.firmwarePc) := by
  induction ks generalizing r with
  | nil => exact absurd hm List.not_mem_nil
  | cons k ks ih =>
    obtain ⟨hk, hd'⟩ := List.nodup_cons.1 hd
    have hks' : ∀ x ∈ ks, x < 4 := fun x hx => hks x (List.mem_cons_of_mem k hx)
    have hj : j < 4 := hks j hm
    rw [List.foldl_cons]
    rcases List.mem_cons.1 hm with rfl | hm'
    · obtain ⟨hcc, hrun⟩ := foldl_ccBoot_not_mem hj hks' hk (r.ccBoot j)
      rw [hcc, hrun]
      exact r.ccBoot_self hj
    · have hne : j ≠ k := fun he => hk (he ▸ hm')
      obtain ⟨_, hrun⟩ := r.ccBoot_ne hj (hks k List.mem_cons_self) hne
      rw [← hrun, ← Run.ccBoot_sec r k]
      exact ih hd' hks' hm' (r.ccBoot k)

/-! ### The stages -/

/-- Stage 2 with an image that verifies (R366, R367). -/
theorem bringUp_image {s : State} {slot : Nat} {i : Image} (h : s.dev.sec.recov = false) (hs : s.dev.sec.stage = 2)
    (hn : s.dev.sec.nextSlot = some slot) (hv : s.dev.sec.verify slot = some i) (hm : s.memOk) :
    let t := finish s (Run.of s).bringUp
    t.dev.sec.Reached 3 ∧ t.dev.sys.fwslot = slot ∧ t.dev.sec.slot = slot ∧ t.dev.sec.cnt = s.dev.sec.count ∧
      (t.core 3).mode = .machine ∧
      (t.core 3).pc = entryPc (BitVec.ofNat 64 (bankBase 0 + imgEntry (s.dev.sec.header slot))) ∧
      t.mem.readN (bankBase 0) i.body.length = i.body ∧
      (∀ a, a < bankBase 0 ∨ bankBase 0 + i.body.length ≤ a → t.mem.read a = s.mem.read a) := by
  obtain ⟨hreach, hfw, hslot, hcnt, hmode, hpc⟩ := Run.trySlot_boots (r := Run.of s) h hv
  have hw := Run.trySlot_verified_w (r := Run.of s) hv
  simp only [Run.bringUp_stage2 (r := Run.of s) h hs hn, finish_dev, finish_core, finish_mem, hw]
  exact ⟨hreach, hfw, hslot, hcnt, hmode, hpc, Memory.readN_writes_pokes i.body hm _ _,
    fun a ha => Memory.read_writes_pokes_outside i.body hm (Run.of s) ha⟩

section
variable {r : Run} (h : r.dev.sec.recov = false)
include h

theorem Run.bringUp_links (hs : r.dev.sec.stage = 3) :
    (r.dev.sec.hw = 3 → r.bringUp.dev.sec.RecoveredFrom 3) ∧ (r.dev.sec.hw ≠ 3 → r.bringUp.dev.sec.Reached 4) := by
  rw [Run.bringUp_stage3 h hs]
  constructor <;> intro hw
  · rw [if_pos hw]; exact Run.recover_recoveredFrom r 3
  · rw [if_neg hw]; exact Run.stageTo_reached 4 h

theorem Run.bringUp_cores (hs : r.dev.sec.stage = 4) : let offline := r.dev.cores.any (fun e => e.2.offline)
    (r.dev.sec.hw = 4 ∨ offline = true → r.bringUp.dev.sec.RecoveredFrom 4) ∧
    (r.dev.sec.hw ≠ 4 → offline = false → r.bringUp.dev.sec.Reached 5 ∧ r.bringUp.dev.sec.bootAt = r.clk.dtime) := by
  rw [Run.bringUp_stage4 h hs]
  constructor
  · intro hbad
    rw [if_pos hbad]
    exact Run.recover_recoveredFrom r 4
  · intro hw ho
    rw [if_neg (by simp [hw, ho])]
    exact ⟨Run.stageTo_reached 5 h, rfl⟩

/-- Stage 5 ends at lock or after two seconds, and waits until then. -/
theorem Run.bringUp_lock (hs : r.dev.sec.stage = 5) : let locked := r.dev.ptp.st = .locked
    (locked ∨ r.dev.sec.bootAt + 2000000000 ≤ r.clk.dtime →
      r.bringUp.dev.sec.Reached 6 ∧ (r.bringUp.dev.sec.plk = true ↔ locked)) ∧
    (¬ locked → r.clk.dtime < r.dev.sec.bootAt + 2000000000 → r.bringUp = r) := by
  rw [Run.bringUp_stage5 h hs]
  constructor
  · intro hend
    rw [if_pos hend]
    exact ⟨Run.stageTo_reached (r := r.modSec _) 6 h, beq_iff_eq⟩
  · intro hlock hearly
    exact if_neg (not_or.2 ⟨hlock, Nat.not_le.2 hearly⟩)

/-- At stage 7 every control core runs. -/
theorem Run.bringUp_controlCores (hs : r.dev.sec.stage = 6) :
    r.bringUp.dev.sec.Reached 7 ∧ ∀ k, k < 3 → r.bringUp.dev.sys.ccrun.getLsbD k = true ∧
      (r.dev.sys.ccrun.getLsbD k = false → (r.bringUp.cc k).mode = .supervisor ∧ (r.bringUp.cc k).pc = r.dev.sec.firmwarePc) := by
  have hks : ∀ k ∈ List.range 3, k < 4 := fun k hk => Nat.lt_succ_of_lt (List.mem_range.1 hk)
  rw [Run.bringUp_stage6 h hs]
  exact ⟨Run.stageTo_reached 7 ((congrArg Secure.recov (foldl_ccBoot_sec _ r)).trans h),
    fun k hk => foldl_ccBoot_mem List.nodup_range hks (List.mem_range.2 hk) r⟩

end

/-! ### Reset and the removal of power (R18, R341, R345) -/

theorem Secure.nextSlot_kept (x : Secure) : x.kept.nextSlot = some ((x.flashB bootRecord).toNat % 2) := by
  have hnone (k : Nat) : x.kept.rejected k = false := ite_self _
  have hflash : x.kept.flashB bootRecord = x.flashB bootRecord := rfl
  simp only [Secure.nextSlot_eq, hnone, hflash, Bool.not_false, if_true]

/-- A device that starts has its fuses and flash and nothing else, its pools full, and is in stage 1 (R341, R373). -/
theorem State.booted_starts (s : State) : let t := s.booted
    t.dev.warps = [] ∧ t.mem = [] ∧ t.dev.sys.ccrun = 8#4 ∧ t.agenda = s.agenda ∧ t.dev.sec.flash = s.dev.sec.flash ∧
    t.dev.on = true ∧ t.dev.sec.fuseRow = s.dev.sec.fuseRow ∧ t.dev.sec.keyHash = s.dev.sec.keyHash ∧
    t.dev.sec.seed = s.dev.sec.seed ∧ t.clk.dtime = (if s.dev.on then s.clk.dtime else 0) ∧ t.dev.sec.recov = false ∧
    t.dev.sec.stage = 1 ∧ t.dev.sec.fail = 0 ∧ t.dev.power.tokens = [9200, 9200] ∧
    t.dev.power.refilled = [t.clk.dtime / 1000, t.clk.dtime / 1000] ∧
    t.dev.sec.nextSlot = some ((s.dev.sec.flashB bootRecord).toNat % 2) := by
  have hclk : s.booted.clk.dtime = if s.dev.on then s.clk.dtime else 0 := apply_ite Clock.dtime _ _ _
  exact ⟨rfl, rfl, rfl, rfl, rfl, rfl, rfl, rfl, rfl, hclk, rfl, rfl, rfl, rfl, rfl, Secure.nextSlot_kept s.dev.sec⟩

/-- A module without power has lost all but its fuses and flash, a thermal trip among it (R18, R345). -/
theorem State.unpowered_lost (s : State) (sleep : Bool) : let t := s.unpowered sleep
    t.dev.on = false ∧ t.dev.asleep = sleep ∧ t.mem = [] ∧ t.dev.warps = [] ∧ t.dev.power.trip = false ∧ t.clk.dtime = 0 ∧
    t.dev.sec.flash = s.dev.sec.flash ∧ t.dev.sec.fuseRow = s.dev.sec.fuseRow :=
  ⟨rfl, rfl, rfl, rfl, rfl, rfl, rfl, rfl⟩

theorem exec_reset (s : State) : exec .reset s = if s.dev.asleep ∨ s.dev.power.trip then .next s else .next s.booted := rfl
theorem exec_hostWake (s : State) : exec .hostWake s = if s.dev.asleep then .next s.booted else .next s := rfl
theorem exec_deepestSleepEntry (s : State) :
    exec .deepestSleepEntry s = if s.dev.on then .next (s.unpowered true) else .next s := rfl
theorem exec_powerRemoval (s : State) : exec .powerRemoval s = .next (s.unpowered false) := rfl

/-! ### What is served -/

theorem State.not_running {s : State} (h : s.dev.sec.stage ≠ 7) : s.running = false := by
  simp [State.running, h]

theorem State.not_enumerated {s : State} (hr : s.dev.sec.recov = false) (h : s.dev.sec.stage < 6) : s.enumerated = false := by
  simp [State.enumerated, hr, h]

/-- The four kinds of step that serve queues need a device that runs. -/
theorem State.serves_queue {s : State} {i : Instr} (hi : (∃ fn q v, i = .queueNotify fn q v) ∨
    (∃ part q, i = .ringEntryRead part q) ∨ (∃ part, i = .dispatchDecision part) ∨ (∃ g, i = .teamPlacement g)) :
    s.serves i = s.running := by
  rcases hi with ⟨_, _, _, rfl⟩ | ⟨_, _, rfl⟩ | ⟨_, rfl⟩ | ⟨_, rfl⟩ <;> rfl

theorem State.serves_request {s : State} {i : Instr} (hi : i = .getVersion ∨ (∃ k b nonce, i = .getMeasurements k b nonce)) :
    s.serves i = s.enumerated := by
  rcases hi with rfl | ⟨_, _, _, rfl⟩ <;> rfl

/-- Settles O60: each stage's own lemma, the start of a device, and the loss of power. -/
theorem resetAndPower : Obligations.ResetAndPower := by
  unfold Obligations.ResetAndPower
  refine ⟨fun s => ⟨fun h => ?_, fun ha ht => ?_, fun h => ?_, fun h => ?_, fun h => ?_⟩, State.booted_starts,
    fun s => ⟨fun h => ?_, fun h => ⟨Run.bringUp_fuses (r := Run.of s) h, fun slot hs hn => ⟨fun i hv hm => ?_, ?_, ?_⟩,
      Run.bringUp_links (r := Run.of s) h, Run.bringUp_cores (r := Run.of s) h, fun hs => ?_,
      Run.bringUp_controlCores (r := Run.of s) h⟩⟩,
    fun s i hr => ⟨fun hst hi => ?_, fun hst hi => ?_⟩, fun s i sleep hi => ?_⟩
  · rw [exec_reset, if_pos h]
  · rw [exec_reset, if_neg (by simp [ha, ht])]
  · rw [exec_hostWake, if_pos h]
  · rw [exec_hostWake, if_neg (by simp [h])]
  · rw [exec_deepestSleepEntry, if_neg (by simp [h])]
  · rw [Run.bringUp_recov (r := Run.of s) h]
  · obtain ⟨hreach, hrest⟩ := bringUp_image h hs hn hv hm
    exact ⟨hreach, hrest⟩
  · intro hv ho
    obtain ⟨hbad, _⟩ := Run.trySlot_rejected_sec (r := Run.of s) h hn hv
    rw [Run.bringUp_stage2 (r := Run.of s) h hs hn]
    exact hbad ((Secure.rejected_other _ slot).symm.trans ho)
  · intro hv ho
    obtain ⟨_, hnext⟩ := Run.trySlot_rejected_sec (r := Run.of s) h hn hv
    rw [Run.of_dev, hs] at hnext
    rw [Run.bringUp_stage2 (r := Run.of s) h hs hn]
    exact hnext ((Secure.rejected_other _ slot).symm.trans ho)
  · obtain ⟨hends, hwaits⟩ := Run.bringUp_lock (r := Run.of s) h hs
    exact ⟨hends, fun hlock hearly => congrArg (finish s) (hwaits hlock hearly)⟩
  · rw [State.serves_queue hi, State.not_running hst]
  · rw [State.serves_request hi, State.not_enumerated hr hst]
  · rcases hi with ⟨rfl, rfl⟩ | ⟨rfl, hon, rfl⟩
    · exact ⟨_, exec_powerRemoval s, s.unpowered_lost false⟩
    · refine ⟨s.unpowered true, ?_, s.unpowered_lost true⟩
      rw [exec_deepestSleepEntry, if_pos hon]

end Sys2Proof.Machine
end

section
/-! PROOFS. Results of FP32 arithmetic and of floating minimum and maximum: a NaN operand, the operand that is written, and the
registers that hold it (chapters 03, 06). -/

namespace Sys2Proof.Machine

/-! ### NaN operands (R53) -/

theorem Val.isNan_iff {v : Val} : v.isNan = true ↔ ∃ sig, v = .nan sig := by
  cases v <;> simp [Val.isNan]

theorem addV_isNan (m : Rm) {a b : Val} (h : a.isNan = true ∨ b.isNan = true) : (addV m a b).1.isNan = true := by
  simp only [Val.isNan_iff] at h
  rcases h with ⟨_, rfl⟩ | ⟨_, rfl⟩
  · rfl
  · cases a <;> rfl

theorem mulV_isNan {a b : Val} (h : a.isNan = true ∨ b.isNan = true) : (mulV a b).1.isNan = true := by
  simp only [Val.isNan_iff] at h
  rcases h with ⟨_, rfl⟩ | ⟨_, rfl⟩
  · rfl
  · cases a <;> rfl

theorem roundV_isNan (t : Fmt) (m : Rm) (sat : Bool) {v : Val} (h : v.isNan = true) : (roundV t m sat v).bits = t.cnan := by
  obtain ⟨_, rfl⟩ := Val.isNan_iff.1 h
  rfl

theorem fAdd_nan (t : Fmt) (m : Rm) {x y : Nat} (h : (decodeF t x).isNan = true ∨ (decodeF t y).isNan = true) :
    (fAdd t m x y).bits = t.cnan :=
  roundV_isNan t m false (addV_isNan m h)

theorem fMul_nan (t : Fmt) (m : Rm) {x y : Nat} (h : (decodeF t x).isNan = true ∨ (decodeF t y).isNan = true) :
    (fMul t m x y).bits = t.cnan :=
  roundV_isNan t m false (mulV_isNan h)

theorem fFma_nan (t : Fmt) (m : Rm) {x y z : Nat}
    (h : (decodeF t x).isNan = true ∨ (decodeF t y).isNan = true ∨ (decodeF t z).isNan = true) :
    (fFma t m x y z).bits = t.cnan := by
  refine roundV_isNan t m false (addV_isNan m ?_)
  rcases h with hx | hy | hz
  · exact .inl (mulV_isNan (.inl hx))
  · exact .inl (mulV_isNan (.inr hy))
  · exact .inr hz

/-! ### Minimum and maximum (R53, R107) -/

/-- The order of minimum and maximum: that of the values, with -0 below +0. -/
def Val.below (a b : Val) : Bool := ltV a b || (eqV a b && a.isNeg && !b.isNeg)

theorem Val.below_iff (a b : Val) :
    a.below b = true ↔ ltV a b = true ∨ (eqV a b = true ∧ a.isNeg = true ∧ b.isNeg = false) := by
  simp [Val.below, and_assoc]

section
variable (t : Fmt) (mx : Bool) {x y : Nat}

/-- Minimum and maximum of two numbers. -/
theorem fMinMax_numbers (hx : (decodeF t x).isNan = false) (hy : (decodeF t y).isNan = false) :
    let a := decodeF t x
    let b := decodeF t y
    let less := ltV a b = true ∨ (eqV a b = true ∧ a.isNeg = true ∧ b.isNeg = false)
    (less → (fMinMax t mx x y).bits = if mx then y else x) ∧ (¬ less → (fMinMax t mx x y).bits = if mx then x else y) := by
  intro a b less
  have hbits : (fMinMax t mx x y).bits = if a.below b != mx then x else y := by
    simp only [fMinMax, hx, hy, Bool.and_self, Bool.false_eq_true, if_false]
    rfl
  have hless : less ↔ a.below b = true := (Val.below_iff a b).symm
  rw [hbits, hless]
  cases a.below b <;> cases mx <;> simp

theorem fMinMax_nan_left (hx : (decodeF t x).isNan = true) (hy : (decodeF t y).isNan = false) :
    (fMinMax t mx x y).bits = y := by simp [fMinMax, hx, hy]

theorem fMinMax_nan_right (hx : (decodeF t x).isNan = false) (hy : (decodeF t y).isNan = true) :
    (fMinMax t mx x y).bits = x := by simp [fMinMax, hx, hy]

theorem fMinMax_nan_both (hx : (decodeF t x).isNan = true) (hy : (decodeF t y).isNan = true) :
    (fMinMax t mx x y).bits = t.cnan := by simp [fMinMax, hx, hy]

/-- The chosen pattern is one of the operands or the canonical NaN, so it has their width. -/
theorem fMinMax_lt {n : Nat} (hc : t.cnan < n) (hx : x < n) (hy : y < n) : (fMinMax t mx x y).bits < n := by
  unfold fMinMax
  dsimp only
  split
  · exact hc
  · split
    · exact hy
    · split
      · exact hx
      · dsimp only
        split
        · exact hx
        · exact hy

end

/-! ### Operands (R104, R105) -/

theorem signOp_lt {w : Nat} (hw : 0 < w) (code p : Nat) : signOp w code p < 2 ^ w := by
  have hlow : p % 2 ^ (w - 1) < 2 ^ (w - 1) := Nat.mod_lt _ (Nat.two_pow_pos _)
  have hpow : 2 ^ w = 2 ^ (w - 1) + 2 ^ (w - 1) := by
    rw [← Nat.mul_two, ← Nat.pow_succ, Nat.succ_eq_add_one, Nat.sub_add_cancel hw]
  have hsign (b : Bool) : (if b then 2 ^ (w - 1) else 0) ≤ 2 ^ (w - 1) := by cases b <;> simp
  exact hpow ▸ Nat.add_lt_add_of_lt_of_le hlow (hsign _)

theorem Env.pat_32 (e : Env) (l n : Nat) : e.pat l n 32 = (e.v l n).toNat := Nat.mod_eq_of_lt (e.v l n).isLt

theorem FExt.ok_imm {z : FUse} {b : Nat} {x : FExt} (h : x.ok z b = true) (hk : x.k = true) : x.imm < 2 ^ 16 := by
  simp only [FExt.ok, hk, if_true, Bool.and_eq_true, decide_eq_true_eq] at h
  obtain ⟨_, _, himm⟩ := h
  exact himm

theorem LOp.okF_ext {z : FUse} {pair : Bool} {o : LOp FExt} {x : FExt} (h : o.okF z pair = true) (hx : o.x = some x) :
    x.ok z o.b = true := by
  simp only [LOp.okF, hx, Bool.and_eq_true] at h
  obtain ⟨_, hok, _⟩ := h
  exact hok

theorem LOp.okF_imm {z : FUse} {pair : Bool} {o : LOp FExt} (h : o.okF z pair = true) (hk : o.fext.k = true) :
    o.fext.imm < 2 ^ 16 := by
  unfold LOp.fext at hk ⊢
  cases hx : o.x with
  | none => rw [hx] at hk; exact absurd hk Bool.false_ne_true
  | some x => rw [hx] at hk; exact FExt.ok_imm (LOp.okF_ext h hx) hk

theorem Env.fB_lt (e : Env) {z : FUse} {pair : Bool} {o : LOp FExt} (h : o.okF z pair = true) (l : Nat) :
    e.fB o l < 2 ^ 32 := by
  unfold Env.fB
  dsimp only
  split
  · next hk =>
    have himm := LOp.okF_imm h hk
    omega
  · exact signOp_lt (by omega) _ _

theorem Env.minMax_narrow (e : Env) {o : LOp FExt} (mx : Bool) (l : Nat) (h : o.fext.ft ≠ 1) :
    e.minMax o mx l = fres o.d 32 (fMinMax Fmt.f32 mx (signOp 32 o.fext.sa (e.v l o.a).toNat) (e.fB o l)) := by
  rw [← Env.pat_32]
  exact if_neg h

theorem Env.minMax_wide (e : Env) {o : LOp FExt} (mx : Bool) (l : Nat) (h : o.fext.ft = 1) :
    e.minMax o mx l = fres o.d 64 (fMinMax Fmt.f64 mx (signOp 64 o.fext.sa (e.v2 l o.a)) (signOp 64 o.fext.sb (e.v2 l o.b))) :=
  if_pos h

/-! ### Registers of a result -/

theorem fres_32_within {d : Nat} {x : FR} {ds : List Res} (h : Res.v d ∈ ds) : (fres d 32 x).within ds :=
  ⟨fun _ hy => List.mem_singleton.1 hy ▸ h, fun _ hy => absurd hy List.not_mem_nil⟩

theorem fres_64_within {d : Nat} {x : FR} {ds : List Res} (h : Res.v d ∈ ds) (h' : Res.v (d + 1) ∈ ds) :
    (fres d 64 x).within ds := by
  refine ⟨fun y hy => ?_, fun _ hy => absurd hy List.not_mem_nil⟩
  rcases List.mem_cons.1 hy with rfl | hy
  · exact h
  · exact List.mem_singleton.1 hy ▸ h'

theorem Lane.apply_fres_32 (y : Lane) (d : Nat) (x : FR) : lookD (y.apply (fres d 32 x)).v d 0 = word x.bits :=
  lookD_putD_self _ _ _ _

theorem Lane.apply_fres_64_low (y : Lane) (d : Nat) (x : FR) : lookD (y.apply (fres d 64 x)).v d 0 = word x.bits :=
  (lookD_putD_ne _ _ _ d.succ_ne_self.symm).trans (lookD_putD_self _ _ _ _)

theorem Lane.apply_fres_64_high (y : Lane) (d : Nat) (x : FR) :
    lookD (y.apply (fres d 64 x)).v (d + 1) 0 = word (x.bits / 2 ^ 32) := lookD_putD_self _ _ _ _

theorem toNat_word {n : Nat} (h : n < 2 ^ 32) : (word n).toNat = n := by
  rw [word, BitVec.toNat_ofNat, Nat.mod_eq_of_lt h]

theorem toNat_word_pair {n : Nat} (h : n < 2 ^ 64) : (word n).toNat + 2 ^ 32 * (word (n / 2 ^ 32)).toNat = n := by
  have hlow : (word n).toNat = n % 2 ^ 32 := BitVec.toNat_ofNat _ _
  have hhigh : (word (n / 2 ^ 32)).toNat = n / 2 ^ 32 := toNat_word (by omega)
  rw [hlow, hhigh]
  exact Nat.mod_add_div _ _

theorem vk_not_uniform {k n : Nat} {x : Res} (h : x ∈ vk k n) : x.uniform = false := by
  obtain ⟨j, _, rfl⟩ := List.mem_map.1 h
  rfl

/-- The registers that a floating form writes: a pair where FT says FP64. -/
theorem LOp.useF_w (three : Bool) (lat : Nat) (o : LOp FExt) :
    (o.useF 1 three lat).w = if o.fext.ft = 1 then [.v o.d, .v (o.d + 1)] else [.v o.d] := by
  obtain ⟨g, d, a, b, x⟩ := o
  cases x with
  | none => rfl
  | some x =>
    show vk (if x.ft = 1 then 2 else 1) d = if x.ft = 1 then _ else _
    split <;> rfl

theorem LOp.useF_mem (three : Bool) (lat : Nat) (o : LOp FExt) : Res.v o.d ∈ (o.useF 1 three lat).w := by
  rw [LOp.useF_w]; split <;> exact List.mem_cons_self

theorem Env.minMax_within (e : Env) {o : LOp FExt} {lat : Nat} (mx : Bool) (k : Nat) :
    (e.minMax o mx k).within (o.useF 1 false lat).w := by
  by_cases hft : o.fext.ft = 1
  · rw [Env.minMax_wide e mx k hft, LOp.useF_w, if_pos hft]
    exact fres_64_within List.mem_cons_self (List.mem_cons_of_mem _ List.mem_cons_self)
  · rw [Env.minMax_narrow e mx k hft]
    exact fres_32_within (LOp.useF_mem false lat o)

theorem LOp.useF_uniform {k lat : Nat} {three : Bool} {o : LOp FExt} {x : Res} (h : x ∈ (o.useF k three lat).w) :
    x.uniform = false := vk_not_uniform h

/-! ### Whole instructions -/

theorem Ready.wf {s : State} {i : Instr} {w l : Nat} {wp : Warp} (h : Ready s i w l wp) : i.wf = true := by
  have hl := h.legal
  simp only [Instr.legalFor, Bool.and_eq_true, and_assoc] at hl
  exact hl.1

theorem exec_fadd (o : LOp FExt) (s : State) : exec (.fadd o) s = laneOp (.fadd o) o.g (fun e k => fres o.d 32
    (fAdd Fmt.f32 (Rm.of o.fext.rm) (signOp 32 o.fext.sa (e.v k o.a).toNat) (e.fB o k))) s := by
  simp only [← Env.pat_32]; rfl

theorem exec_fmul (o : LOp FExt) (s : State) : exec (.fmul o) s = laneOp (.fmul o) o.g (fun e k => fres o.d 32
    (fMul Fmt.f32 (Rm.of o.fext.rm) (signOp 32 o.fext.sa (e.v k o.a).toNat) (e.fB o k))) s := by
  simp only [← Env.pat_32]; rfl

theorem exec_ffma (o : LOp FExt) (s : State) : exec (.ffma o) s = laneOp (.ffma o) o.g (fun e k => fres o.d 32
    (fFma Fmt.f32 (Rm.of o.fext.rm) (signOp 32 o.fext.sa (e.v k o.a).toNat) (e.fB o k)
      (signOp 32 o.fext.sc (e.v k o.cReg).toNat))) s := by
  simp only [← Env.pat_32]; rfl

/-- FMIN, or FMAX where `mx`. -/
def minMaxInstr (mx : Bool) (o : LOp FExt) : Instr := if mx then .fmax o else .fmin o

theorem minMaxInstr_kernelKind (mx : Bool) (o : LOp FExt) : (minMaxInstr mx o).kernelKind = none := by cases mx <;> rfl

theorem minMaxInstr_use (mx : Bool) (o : LOp FExt) : (minMaxInstr mx o).use = o.useF 1 false 4 := by cases mx <;> rfl

theorem minMaxInstr_wf (mx : Bool) (o : LOp FExt) : (minMaxInstr mx o).wf = o.okF fuseMm false := by cases mx <;> rfl

theorem exec_minMaxInstr (mx : Bool) (o : LOp FExt) (s : State) :
    exec (minMaxInstr mx o) s = laneOp (minMaxInstr mx o) o.g (fun e k => e.minMax o mx k) s := by cases mx <;> rfl

/-- A floating instruction whose result is one FP32 register, NaN wherever `nan` says that an operand is. -/
theorem fp32_result {s : State} {i : Instr} {w l : Nat} {wp : Warp} (h : Ready s i w l wp) (hi : i.kernelKind = none)
    {o : LOp FExt} {three : Bool} {lat : Nat} (hu : i.use = o.useF 1 three lat)
    (f : Env → Nat → FR) (nan : Env → Nat → Prop) (hnan : ∀ e k, nan e k → (f e k).bits = Fmt.f32.cnan) :
    ∃ t, laneOp i o.g (fun e k => fres o.d 32 (f e k)) s = .next t ∧ LaneEffect s t i o.g w l wp ∧
      ∀ k ∈ (s.env i w l wp).on o.g, t.v w k o.d = word (f (s.env i w l wp) k).bits ∧
        (nan (s.env i w l wp) k → t.v w k o.d = 0x7FC00000) := by
  obtain ⟨t, ht, heff, hres⟩ := laneOp_effect h hi (fun x hx => LOp.useF_uniform (hu ▸ hx)) o.g
    (fun e k => fres o.d 32 (f e k)) (fun _ _ => fres_32_within (hu ▸ LOp.useF_mem three lat o))
  refine ⟨t, ht, heff, fun k hk => ?_⟩
  have hv : t.v w k o.d = word (f (s.env i w l wp) k).bits := (hres k hk o.d).1.trans (Lane.apply_fres_32 _ _ _)
  exact ⟨hv, fun hn => hv.trans (congrArg word (hnan _ k hn))⟩

/-- FMIN and FMAX: their one register, or their pair under FT, holds the chosen pattern. -/
theorem minMax_result {s : State} {w l : Nat} {wp : Warp} {o : LOp FExt} {mx : Bool}
    (h : Ready s (minMaxInstr mx o) w l wp) :
    ∃ t, exec (minMaxInstr mx o) s = .next t ∧ LaneEffect s t (minMaxInstr mx o) o.g w l wp ∧
      ∀ k ∈ (s.env (minMaxInstr mx o) w l wp).on o.g, let e := s.env (minMaxInstr mx o) w l wp
        (o.fext.ft ≠ 1 → (t.v w k o.d).toNat =
          (fMinMax Fmt.f32 mx (signOp 32 o.fext.sa (e.v k o.a).toNat) (e.fB o k)).bits) ∧
        (o.fext.ft = 1 → (t.v w k o.d).toNat + 2 ^ 32 * (t.v w k (o.d + 1)).toNat =
          (fMinMax Fmt.f64 mx (signOp 64 o.fext.sa (e.v2 k o.a)) (signOp 64 o.fext.sb (e.v2 k o.b))).bits) := by
  have huse := minMaxInstr_use mx o
  have hok := (minMaxInstr_wf mx o).symm.trans h.wf
  obtain ⟨t, ht, heff, hres⟩ := laneOp_effect h (minMaxInstr_kernelKind mx o) (fun x hx => LOp.useF_uniform (huse ▸ hx)) o.g
    (fun e k => e.minMax o mx k) (fun e k => huse ▸ Env.minMax_within e mx k)
  refine ⟨t, (exec_minMaxInstr mx o s).trans ht, heff, fun k hk => ⟨fun hft => ?_, fun hft => ?_⟩⟩
  · rw [(hres k hk o.d).1, Env.minMax_narrow _ mx k hft, Lane.apply_fres_32]
    exact toNat_word (fMinMax_lt _ mx (by decide) (signOp_lt (by omega) _ _) (Env.fB_lt _ hok k))
  · rw [(hres k hk o.d).1, (hres k hk (o.d + 1)).1, Env.minMax_wide _ mx k hft, Lane.apply_fres_64_low, Lane.apply_fres_64_high]
    exact toNat_word_pair (fMinMax_lt _ mx (by decide) (signOp_lt (by omega) _ _) (signOp_lt (by omega) _ _))

/-- Settles O20: an FP32 result is the operation's rounded pattern, canonical where an operand is NaN, and the register or the
pair of FMIN and FMAX holds the pattern of `fMinMax`. -/
theorem floatResults : Obligations.FloatResults := by
  unfold Obligations.FloatResults
  refine ⟨fun s w l wp o h => ?_, fun s w l wp o h => ?_, fun s w l wp o h => ?_, fun s w l wp o mx i hi h => ?_⟩
  · rw [exec_fadd]
    exact fp32_result h rfl rfl _ _ (fun _ _ => fAdd_nan _ _)
  · rw [exec_fmul]
    exact fp32_result h rfl rfl _ _ (fun _ _ => fMul_nan _ _)
  · rw [exec_ffma]
    exact fp32_result h rfl rfl _ _ (fun _ _ => fFma_nan _ _)
  · subst hi
    obtain ⟨t, ht, heff, hres⟩ := minMax_result h
    refine ⟨t, ht, heff, fun k hk => ?_⟩
    obtain ⟨hnarrow, hwide⟩ := hres k hk
    by_cases hft : o.fext.ft = 1
    · simp only [hft, beq_self_eq_true, if_true, hwide hft]
      exact ⟨fMinMax_numbers _ mx, fMinMax_nan_left _ mx, fMinMax_nan_right _ mx, fMinMax_nan_both _ mx⟩
    · simp only [beq_eq_false_iff_ne.2 hft, Bool.false_eq_true, if_false, hnarrow hft, Nat.add_zero]
      exact ⟨fMinMax_numbers _ mx, fMinMax_nan_left _ mx, fMinMax_nan_right _ mx, fMinMax_nan_both _ mx⟩

end Sys2Proof.Machine
end

section
/-! PROOFS. Quires: what QBIND, QWAIT, QREL and QSTAT answer, and what they make of the tile table (chapter 12). -/

namespace Sys2Proof.Machine

/-! ### From a uniform instruction's own outcome to the outcome of its issue -/

@[simp] theorem State.env_w (s : State) (i : Instr) (w l : Nat) (wp : Warp) : (s.env i w l wp).w = w := rfl
@[simp] theorem State.env_lanes (s : State) (i : Instr) (w l : Nat) (wp : Warp) : (s.env i w l wp).lanes = wp.split l := rfl
@[simp] theorem State.env_wp_core (s : State) (i : Instr) (w l : Nat) (wp : Warp) : (s.env i w l wp).wp.core = wp.core := rfl
@[simp] theorem State.env_wp_team (s : State) (i : Instr) (w l : Nat) (wp : Warp) : (s.env i w l wp).wp.team = wp.team := rfl

section
variable {s : State} {i : Instr} {w l g : Nat} {wp : Warp} {f : Run → Env → Ret}
  (h : Ready s i w l wp) (hg : (s.env i w l wp).ug g = true)
include h hg

theorem uniOp_done {r : Run} (hf : f (s.served i wp) (s.env i w l wp) = .done r) :
    uniOp i g f s = .next (s.through i w l wp r) := by
  rw [uniOp_ready h g f hg, hf]; rfl

theorem uniOp_trap {c a t : Nat} (hf : f (s.served i wp) (s.env i w l wp) = .trap c a t) :
    uniOp i g f s = .next (s.trapped i w l wp c a t) := by
  rw [uniOp_ready h g f hg, hf]; rfl

theorem uniOp_wait {y : Why} (hf : f (s.served i wp) (s.env i w l wp) = .wait y) :
    uniOp i g f s = .next (s.waits w l wp (Run.of s) y) := by
  rw [uniOp_ready h g f hg, hf]; rfl

end

/-- A release that holds nothing back goes on with what it has flushed (R152). -/
theorem Run.released_free {r r' : Run} {e : Env} {lanes : List Nat} {scope : Nat}
    (h : r.release e.w e.wp lanes scope = (true, r')) (k : Run → Ret) : r.released e lanes scope false k = k r' := by
  simp only [Run.released, Bool.false_eq_true, if_false, h]

/-! ### The tile table -/

theorem Run.core_modCore_self (r : Run) (c : Nat) (f : Core → Core) : (r.modCore c f).core c = f (r.core c) := by
  simp only [Run.core, Run.modCore_dev, lookD, lookM_putM_self, Option.getD_some]

/-- A quire that is bound reads its binding, on the core or in the image of a saved one (R183). -/
theorem Run.quire_bind (r : Run) (core team n : Nat) (q : Quire) :
    (r.modCore core (fun c => { c with quires := putM c.quires (quireKey team n) q })).quire core team n = some q := by
  simp only [Run.quire, Run.core_modCore_self, lookM_putM_self]

theorem Run.quire_none_iff (r : Run) (core team n : Nat) :
    r.quire core team n = none ↔ lookM (r.core core).quires (quireKey team n) = none ∧
      (lookM r.dev.sched.cimages core).bind (fun c => lookM c.quires (quireKey team n)) = none := by
  unfold Run.quire
  cases lookM (r.core core).quires (quireKey team n) <;> simp

/-- A number that is not bound stays so when it is unbound. -/
theorem Run.quire_unbind {r : Run} {core team n : Nat} (h : r.quire core team n = none) :
    (r.modCore core (fun c => { c with quires := delM c.quires (quireKey team n) })).quire core team n = none := by
  obtain ⟨_, himage⟩ := (r.quire_none_iff core team n).1 h
  rw [Run.quire_none_iff, Run.core_modCore_self]
  exact ⟨lookM_delM_self _ _, himage⟩

/-- A quire that is bound takes its change where it stands. -/
theorem Run.quire_modQuire (r : Run) (core team n : Nat) (f : Quire → Quire) :
    (r.modQuire core team n f).quire core team n = (r.quire core team n).map f := by
  have hcore : (r.modQuire core team n f).core core = (r.core core).modQuire (quireKey team n) f :=
    r.core_modCore_self core (fun c => c.modQuire (quireKey team n) f)
  have himages : (r.modQuire core team n f).dev.sched.cimages =
      modM r.dev.sched.cimages core (fun c => c.modQuire (quireKey team n) f) := rfl
  simp only [Run.quire, hcore, himages, Core.modQuire, lookM_modM_self]
  cases lookM (r.core core).quires (quireKey team n) with
  | some q => rfl
  | none =>
    cases lookM r.dev.sched.cimages core with
    | none => rfl
    | some c => exact lookM_modM_self _ _ _

/-! ### QBIND (R183, R188) -/

theorem bindOk_bounds {member teamsz base size n w : Nat} (h : bindOk member teamsz base size n w = true) :
    base % 128 = 0 ∧ size % 128 = 0 ∧ 1 ≤ w ∧ w ≤ n := by
  simp only [bindOk, Bool.and_eq_true, beq_iff_eq, decide_eq_true_eq] at h
  obtain ⟨⟨⟨⟨⟨⟨⟨⟨⟨hbase, _⟩, hsize⟩, _⟩, _⟩, _⟩, hlow⟩, hhigh⟩, _⟩, _⟩ := h
  exact ⟨hbase, hsize, hlow, hhigh⟩

section
variable {r : Run} {core team g n base size cnt win : Nat} {out : Bool}

theorem Run.qbind_busy {q : Quire} (hq : r.quire core team n = some q) (hi : q.idle = false) :
    r.qbind core team g n out base size cnt win = (4, r) := by
  simp only [Run.qbind, hq, hi, Bool.not_false, if_true]

theorem Run.qbind_zero (hq : r.quire core team n = none) :
    r.qbind core team g n out base size 0 win =
      (1, r.modCore core (fun c => { c with quires := delM c.quires (quireKey team n) })) := by
  simp only [Run.qbind, hq, Bool.false_eq_true, if_false, if_true]

/-- What QBIND does where the number is not bound, or its quire is idle. -/
theorem Run.qbind_free (hfree : ∀ q, r.quire core team n = some q → q.idle = true) :
    r.qbind core team g n out base size cnt win =
      let others := (r.core core).quires.filter (fun e => e.1 != quireKey team n)
      if cnt = 0 then (1, r.modCore core (fun c => { c with quires := delM c.quires (quireKey team n) }))
      else if !bindOk (r.memberOf team core) (r.teamGeom g).2 base size cnt win then (3, r)
      else if 256 ≤ others.length ∨ 4096 < others.foldl (fun a e => a + e.2.count) 0 + cnt then (2, r)
      else (0, r.modCore core (fun c => { c with
        quires := putM c.quires (quireKey team n) (Quire.start base size cnt win out) })) := by
  unfold Run.qbind
  cases hq : r.quire core team n with
  | none => rfl
  | some q => simp only [hfree q hq, Bool.not_true, Bool.false_eq_true, if_false]

/-- Status 0 is that of a geometry within R183, and binds an empty quire. -/
theorem Run.qbind_bound (h : (r.qbind core team g n out base size cnt win).1 = 0) :
    bindOk (r.memberOf team core) (r.teamGeom g).2 base size cnt win = true ∧
    (r.qbind core team g n out base size cnt win).2 = r.modCore core (fun c => { c with
      quires := putM c.quires (quireKey team n) (Quire.start base size cnt win out) }) := by
  have hfree : ∀ q, r.quire core team n = some q → q.idle = true := fun q hq => by
    cases hi : q.idle with
    | true => rfl
    | false =>
      rw [Run.qbind_busy hq hi] at h
      exact absurd h (by decide : ¬ 4 = 0)
  rw [Run.qbind_free hfree] at h ⊢
  revert h
  dsimp only
  split
  · exact fun h => absurd h (by decide : ¬ 1 = 0)
  split
  · exact fun h => absurd h (by decide : ¬ 3 = 0)
  next hok =>
  split
  · exact fun h => absurd h (by decide : ¬ 2 = 0)
  · exact fun _ => ⟨by simpa using hok, rfl⟩

/-- What QBIND answers, and the quire that it binds. -/
theorem Run.qbind_status : let q := r.qbind core team g n out base size cnt win
    (∀ x, r.quire core team n = some x → x.idle = false → q.1 = 4 ∧ q.2 = r) ∧
    (r.quire core team n = none → cnt = 0 → q.1 = 1 ∧ q.2.quire core team n = none) ∧
    (q.1 = 0 → q.2.quire core team n = some (Quire.start base size cnt win out) ∧ base % 128 = 0 ∧ size % 128 = 0 ∧
      1 ≤ win ∧ win ≤ cnt) := by
  refine ⟨fun x hq hi => ?_, fun hq hc => ?_, fun h0 => ?_⟩
  · rw [Run.qbind_busy hq hi]; exact ⟨rfl, rfl⟩
  · subst hc
    rw [Run.qbind_zero hq]
    exact ⟨rfl, Run.quire_unbind hq⟩
  · obtain ⟨hok, hbound⟩ := Run.qbind_bound h0
    rw [hbound]
    exact ⟨Run.quire_bind r core team n _, bindOk_bounds hok⟩

end

theorem qbind_answers {s : State} {w l g d a n : Nat} {out : Bool} {wp : Warp}
    (h : Ready s (.qbind g d a out n) w l wp) : let i := Instr.qbind g d a out n
    let e := s.env i w l wp
    let r := s.served i wp
    e.ug g = true →
    let q := r.qbind wp.core wp.team e.grid n out (e.us a).toNat (e.us (a + 1)).toNat (e.us (a + 2)).toNat (e.us (a + 3)).toNat
    exec i s = .next (s.through i w l wp (q.2.putS e d (word q.1))) :=
  fun hg => uniOp_done h hg rfl

/-! ### QWAIT, QREL and QSTAT (R190 to R192) -/

section
variable {s : State} {w l g d a sel n : Nat} {wp : Warp} {q : Quire}

section
variable (h : Ready s (.qwait g d a n) w l wp) (hg : (s.env (.qwait g d a n) w l wp).ug g = true)
include h hg

theorem qwait_unbound (hq : (s.served (.qwait g d a n) wp).quire wp.core wp.team n = none) :
    exec (.qwait g d a n) s = .next (s.trapped (.qwait g d a n) w l wp 0x0D n (s.env (.qwait g d a n) w l wp).lead) :=
  uniOp_trap h hg (by simp only [State.env_wp_core, State.env_wp_team, hq])

variable (hq : (s.served (.qwait g d a n) wp).quire wp.core wp.team n = some q)
include hq

theorem qwait_usable (hu : q.usable ((s.env (.qwait g d a n) w l wp).us a).toNat = true ∨ (s.env (.qwait g d a n) w l wp).met = true) :
    exec (.qwait g d a n) s = .next (s.through (.qwait g d a n) w l wp
      ((s.served (.qwait g d a n) wp).putS (s.env (.qwait g d a n) w l wp) d 0)) :=
  uniOp_done h hg (by
    have hgo := Bool.or_eq_true_iff.2 hu.symm
    simp only [State.env_wp_core, State.env_wp_team, hq, hgo, if_true])

/-- Neither usable nor met before: a broken quire answers 1, another waits (R190). -/
theorem qwait_unusable (hu : q.usable ((s.env (.qwait g d a n) w l wp).us a).toNat = false)
    (hm : (s.env (.qwait g d a n) w l wp).met = false) :
    exec (.qwait g d a n) s = if q.broken then
      .next (s.through (.qwait g d a n) w l wp ((s.served (.qwait g d a n) wp).putS (s.env (.qwait g d a n) w l wp) d 1))
      else .next (s.waits w l wp (Run.of s) .quire) := by
  split
  · next hb => exact uniOp_done h hg (by simp only [State.env_wp_core, State.env_wp_team, hq, hu, hm, hb, Bool.or_self,
      Bool.false_eq_true, if_false, if_true])
  · next hb => exact uniOp_wait h hg (by simp only [State.env_wp_core, State.env_wp_team, hq, hu, hm, hb, Bool.or_self,
      Bool.false_eq_true, if_false])

end

section
variable (h : Ready s (.qrel g d a n) w l wp) (hg : (s.env (.qrel g d a n) w l wp).ug g = true)
include h hg

theorem qrel_unbound (hq : (s.served (.qrel g d a n) wp).quire wp.core wp.team n = none) :
    exec (.qrel g d a n) s = .next (s.trapped (.qrel g d a n) w l wp 0x0D n (s.env (.qrel g d a n) w l wp).lead) :=
  uniOp_trap h hg (by simp only [State.env_wp_core, State.env_wp_team, hq])

variable (hq : (s.served (.qrel g d a n) wp).quire wp.core wp.team n = some q)
include hq

theorem qrel_held (hk : q.releasable ((s.env (.qrel g d a n) w l wp).us a).toNat = false) :
    exec (.qrel g d a n) s = .next (s.through (.qrel g d a n) w l wp
      ((s.served (.qrel g d a n) wp).putS (s.env (.qrel g d a n) w l wp) d 1)) :=
  uniOp_done h hg (by simp only [State.env_wp_core, State.env_wp_team, hq, hk, Bool.not_false, if_true])

variable (hk : q.releasable ((s.env (.qrel g d a n) w l wp).us a).toNat = true)
include hk

theorem qrel_in (ho : q.out = false) : exec (.qrel g d a n) s = .next (s.through (.qrel g d a n) w l wp
    (((s.served (.qrel g d a n) wp).modQuire wp.core wp.team n (fun q =>
      q.release ((s.env (.qrel g d a n) w l wp).us a).toNat)).putS (s.env (.qrel g d a n) w l wp) d 0)) :=
  uniOp_done h hg (by simp only [State.env_wp_core, State.env_wp_team, hq, hk, ho, Bool.not_true, Bool.false_eq_true, if_false])

/-- On an out quire QREL is a release first (R152, R191). -/
theorem qrel_out {r' : Run} (ho : q.out = true) (hr : (s.served (.qrel g d a n) wp).release w (s.env (.qrel g d a n) w l wp).wp
      (wp.split l) 1 = (true, r')) :
    exec (.qrel g d a n) s = .next (s.through (.qrel g d a n) w l wp ((r'.modQuire wp.core wp.team n (fun q =>
      q.release ((s.env (.qrel g d a n) w l wp).us a).toNat)).putS (s.env (.qrel g d a n) w l wp) d 0)) :=
  uniOp_done h hg (by
    have hfree := Run.released_free (e := s.env (.qrel g d a n) w l wp) hr
    simp only [State.env_wp_core, State.env_wp_team, State.env_lanes, hq, hk, ho, Bool.not_true, Bool.false_eq_true, if_false, if_true,
      hfree])

end

section
variable (h : Ready s (.qstat g d sel n) w l wp) (hg : (s.env (.qstat g d sel n) w l wp).ug g = true)
include h hg

theorem qstat_unbound (hq : (s.served (.qstat g d sel n) wp).quire wp.core wp.team n = none) :
    exec (.qstat g d sel n) s = .next (s.through (.qstat g d sel n) w l wp
      ((s.served (.qstat g d sel n) wp).putS (s.env (.qstat g d sel n) w l wp) d 0)) :=
  uniOp_done h hg (by simp only [State.env_wp_core, State.env_wp_team, hq]; rfl)

theorem qstat_bound (hq : (s.served (.qstat g d sel n) wp).quire wp.core wp.team n = some q) :
    exec (.qstat g d sel n) s = .next (s.through (.qstat g d sel n) w l wp
      ((s.served (.qstat g d sel n) wp).putS (s.env (.qstat g d sel n) w l wp) d (word (q.stat sel)))) :=
  uniOp_done h hg (by simp only [State.env_wp_core, State.env_wp_team, hq])

end
end

/-! ### The released slot (R184, R185) -/

theorem Quire.release_in {q : Quire} (k : Nat) (h : q.out = false) :
    q.release k = { q with slots := delM q.slots (k % q.count), c := q.c + 1 } := by
  simp only [Quire.release, h, Bool.false_eq_true, if_false]

theorem Quire.release_out {q : Quire} (k : Nat) (h : q.out = true) :
    q.release k = { q with slots := putD q.slots (k % q.count) 2 0, f := q.f + 1 } := by
  simp only [Quire.release, h, if_true]

theorem Quire.release_slot_ne (q : Quire) {j k : Nat} (h : j % q.count ≠ k % q.count) : (q.release k).slot j = q.slot j := by
  cases ho : q.out with
  | false => simp only [Quire.release_in k ho, Quire.slot, lookD, lookM_delM_ne _ h]
  | true => simp only [Quire.release_out k ho, Quire.slot, lookD_putD_ne _ _ _ h]

/-- QREL's slot is empty on an in quire and ready on an out quire, whose counter has gone up by one. -/
theorem Quire.release_effect (q : Quire) (k : Nat) :
    (q.out = false → (q.release k).slot k = 0 ∧ (q.release k).c = q.c + 1 ∧ (q.release k).f = q.f) ∧
    (q.out = true → (q.release k).slot k = 2 ∧ (q.release k).f = q.f + 1 ∧ (q.release k).c = q.c) ∧
    (∀ j, j % q.count ≠ k % q.count → (q.release k).slot j = q.slot j) := by
  refine ⟨fun ho => ?_, fun ho => ?_, fun j hj => q.release_slot_ne hj⟩
  · rw [Quire.release_in k ho]
    exact ⟨by simp only [Quire.slot, lookD, lookM_delM_self, Option.getD_none], rfl, rfl⟩
  · rw [Quire.release_out k ho]
    exact ⟨by simp only [Quire.slot, lookD_putD_self], rfl, rfl⟩

/-- Settles O40: each case of an answer has its own lemma above. -/
theorem quireInstructions : Obligations.QuireInstructions := by
  unfold Obligations.QuireInstructions
  refine ⟨fun s w l g d a n out wp h hg => qbind_answers h hg, fun r core team g n base size cnt win out => Run.qbind_status,
    fun s w l g d a n wp h hg => ⟨qwait_unbound h hg, fun q hq => ⟨qwait_usable h hg hq, fun hu hm hb => ?_, fun hu hm hb => ?_⟩⟩,
    fun s w l g d a n wp h hg => ⟨qrel_unbound h hg, fun q hq => ⟨qrel_held h hg hq, qrel_in h hg hq, fun r' hk ho hr => ?_⟩⟩,
    Quire.release_effect, fun s w l g d sel n wp h hg => ⟨qstat_unbound h hg, fun q hq => qstat_bound h hg hq⟩⟩
  · exact (qwait_unusable h hg hq hu hm).trans (if_pos hb)
  · exact (qwait_unusable h hg hq hu hm).trans (if_neg (by rw [hb]; decide))
  · exact qrel_out h hg hq hk ho hr

end Sys2Proof.Machine
end

section
/-! PROOFS. The commands of a running list: what a command's own answer makes of its list, and the answer of each command (chapter 12). -/

namespace Sys2Proof.Machine

/-! ### From a command's answer to the outcome of its issue -/

section
variable {s : State} {i : Instr} {e p : Nat} {x : CmdList} {f : Run → Nat → CmdList → LRet}
  (h : ReadyList s e p x) (hi : i.wf = true)
include h hi

theorem listOp_next {r : Run} (hf : f (Run.of s) (e * 16 + p) x = .next r) :
    listOp i f s = .next (s.listNext (e * 16 + p) r) := by
  rw [listOp_ready h hi f, hf]; rfl

theorem listOp_jump {r : Run} {pos : Nat} (hf : f (Run.of s) (e * 16 + p) x = .jump r pos) :
    listOp i f s = .next (finish s (r.modList (e * 16 + p) (fun y => { y with pos := pos }))) := by
  rw [listOp_ready h hi f, hf]; rfl

theorem listOp_wait (hf : f (Run.of s) (e * 16 + p) x = .wait) : listOp i f s = .next (finish s (Run.of s)) := by
  rw [listOp_ready h hi f, hf]; rfl

theorem listOp_ended {r : Run} (hf : f (Run.of s) (e * 16 + p) x = .ended r) : listOp i f s = .next (finish s r) := by
  rw [listOp_ready h hi f, hf]; rfl

/-- A command that aborts its list does so with its own index (R201). -/
theorem listOp_abort {c : Nat} (hf : f (Run.of s) (e * 16 + p) x = .abort c) :
    listOp i f s = .next (finish s ((Run.of s).listAbort (e * 16 + p) c ((x.pos - x.first) / 8))) := by
  rw [listOp_ready h hi f, hf]; rfl

theorem transferOp_next {q mask : Nat} {r : Run} (hf : f (Run.of s) (e * 16 + p) x = .next r) :
    transferOp i q mask f s = .next (s.listNext (e * 16 + p) r) :=
  transferOp_ready h hi hf

end

/-! ### The meaning of each command -/

theorem exec_streamNop (s : State) : exec .streamNop s = execStreamNop s := rfl
theorem exec_base (idx : Bool) (addr : Nat) (s : State) : exec (.base idx addr) s = execBase idx addr s := rfl
theorem exec_dim (d count : Nat) (stride : Int) (s : State) : exec (.dim d count stride) s = execDim d count stride s := rfl
theorem exec_tile (rows rb : Nat) (pitch : Int) (s : State) : exec (.tile rows rb pitch) s = execTile rows rb pitch s := rfl
theorem exec_conv (mode : Nat) (s : State) : exec (.conv mode) s = execConv mode s := rfl
theorem exec_loop (d : Nat) (s : State) : exec (.loop d) s = execLoop d s := rfl
theorem exec_next (d : Nat) (s : State) : exec (.next d) s = execNext d s := rfl
theorem exec_push (q mask : Nat) (s : State) : exec (.push q mask) s = execPush q mask s := rfl
theorem exec_gath (q mask : Nat) (s : State) : exec (.gath q mask) s = execGath q mask s := rfl
theorem exec_pull (q mask : Nat) (s : State) : exec (.pull q mask) s = execPull q mask s := rfl

/-! ### Loops (R200) -/

section
variable {s : State} {e p d : Nat} {x : CmdList} (h : ReadyList s e p x)
include h

theorem exec_dim_open {count : Nat} {stride : Int} (hi : (Instr.dim d count stride).wf = true) (ho : x.isOpen d = true) :
    exec (.dim d count stride) s =
      .next (finish s ((Run.of s).listAbort (e * 16 + p) 0x13 ((x.pos - x.first) / 8))) := by
  rw [exec_dim, execDim]
  exact listOp_abort h hi (if_pos ho)

theorem exec_dim_closed {count : Nat} {stride : Int} (hi : (Instr.dim d count stride).wf = true) (ho : x.isOpen d = false) :
    exec (.dim d count stride) s = .next (s.listNext (e * 16 + p) ((Run.of s).modList (e * 16 + p) (fun y => { y with
      count := setNth y.count d count, stride := setNth y.stride d stride, idx := setNth y.idx d 0 }))) := by
  rw [exec_dim, execDim]
  exact listOp_next h hi (if_neg (by rw [ho]; decide))

theorem exec_loop_open (hi : (Instr.loop d).wf = true) (ho : x.isOpen d = true) :
    exec (.loop d) s = .next (finish s ((Run.of s).listAbort (e * 16 + p) 0x13 ((x.pos - x.first) / 8))) := by
  rw [exec_loop, execLoop]
  exact listOp_abort h hi (if_pos ho)

theorem exec_loop_closed (hi : (Instr.loop d).wf = true) (ho : x.isOpen d = false) :
    exec (.loop d) s = .next (s.listNext (e * 16 + p) ((Run.of s).modList (e * 16 + p) (fun y => { y with
      idx := setNth y.idx d 0, loops := (d, y.pos + 8) :: y.loops }))) := by
  rw [exec_loop, execLoop]
  exact listOp_next h hi (if_neg (by rw [ho]; decide))

variable (hi : (Instr.next d).wf = true)
include hi

theorem exec_next_again {body : Nat} {ls : List (Nat × Nat)} (hl : x.loops = (d, body) :: ls)
    (hc : nthD x.idx d 0 + 1 < nthD x.count d 0) :
    exec (.next d) s = .next (finish s (((Run.of s).modList (e * 16 + p) (fun y => { y with
      idx := setNth y.idx d (nthD x.idx d 0 + 1) })).modList (e * 16 + p) (fun y => { y with pos := body }))) := by
  rw [exec_next, execNext]
  exact listOp_jump h hi (by simp only [hl, ne_eq, not_true, if_false, hc, if_true])

theorem exec_next_leaves {body : Nat} {ls : List (Nat × Nat)} (hl : x.loops = (d, body) :: ls)
    (hc : nthD x.count d 0 ≤ nthD x.idx d 0 + 1) :
    exec (.next d) s = .next (s.listNext (e * 16 + p) ((Run.of s).modList (e * 16 + p) (fun y => { y with
      idx := setNth y.idx d 0, loops := ls }))) := by
  rw [exec_next, execNext]
  exact listOp_next h hi (by simp only [hl, ne_eq, not_true, if_false, Nat.not_lt.2 hc])

/-- NEXT aborts a list whose innermost open loop is on another dimension, or that has none. -/
theorem exec_next_stray (hl : ∀ y ∈ x.loops.head?, y.1 ≠ d) :
    exec (.next d) s = .next (finish s ((Run.of s).listAbort (e * 16 + p) 0x13 ((x.pos - x.first) / 8))) := by
  rw [exec_next, execNext]
  refine listOp_abort h hi ?_
  cases hx : x.loops with
  | nil => rfl
  | cons y ls =>
    rw [hx] at hl
    exact if_pos (hl y rfl)

end

/-! ### Fills and drains (R197, R198) -/

section
variable {s : State} {e p q mask rows rb : Nat} {pitch : Int} {x : CmdList} (h : ReadyList s e p x)
  (ht : x.tile = some (rows, rb, pitch))

section
variable {qs : List (Nat × Nat × Option Quire)} {bss : List (List Byte)}

theorem Run.fillStart_ok {r r' : Run} {l rb ib : Nat} {ms vas : List Nat}
    (hr : r.rowsRead ((r.spaceOfGrid x.grid).ofStack (l / 256)) (r.nodeOf x.grid) rb vas = .ok (bss, r')) :
    r.fillStart l q x ms qs rb ib vas =
      .next ((r'.fillBegin l q x ms qs bss).modList l (fun y => { y with indexbase := ib })) := by
  simp only [Run.fillStart, hr]

variable (hqs : (Run.of s).quiresOf x q (membersOf mask) = qs) (hb : fillBad x ((Run.of s).gangOf x) mask qs = none)
  (hf : (Run.of s).fillFree x.team qs = true)
include h ht hqs hb hf

/-- PUSH starts its fill with the rows from the current address on (R197). -/
theorem exec_push_starts {r' : Run} (hi : (Instr.push q mask).wf = true)
    (hr : (Run.of s).rowsRead (((Run.of s).spaceOfGrid x.grid).ofStack ((e * 16 + p) / 256)) ((Run.of s).nodeOf x.grid) rb
      ((List.range rows).map (fun j => pitched x.addr j pitch)) = .ok (bss, r')) :
    exec (.push q mask) s = .next (s.listNext (e * 16 + p)
      ((r'.fillBegin (e * 16 + p) q x (membersOf mask) qs bss).modList (e * 16 + p) (fun y =>
        { y with indexbase := x.indexbase }))) := by
  rw [exec_push, execPush]
  exact transferOp_next h hi (by
    simp only [hqs, hb, hf, ht, Option.getD_some, Bool.not_true, Bool.false_eq_true, if_false]
    exact Run.fillStart_ok hr)

/-- GATH reads its index words first, and then the rows that they choose (R197). -/
theorem exec_gath_starts {r1 r2 : Run} {ix : List (List Byte)} (hi : (Instr.gath q mask).wf = true)
    (hx : (Run.of s).rowsRead (((Run.of s).spaceOfGrid x.grid).ofStack ((e * 16 + p) / 256)) ((Run.of s).nodeOf x.grid) 4
      ((List.range rows).map (fun j => (x.indexbase + 4 * j) % 2 ^ 64)) = .ok (ix, r1))
    (hr : r1.rowsRead ((r1.spaceOfGrid x.grid).ofStack ((e * 16 + p) / 256)) (r1.nodeOf x.grid) rb
      (ix.map (fun w => pitched x.addr (ofBytes w) pitch)) = .ok (bss, r2)) :
    exec (.gath q mask) s = .next (s.listNext (e * 16 + p)
      ((r2.fillBegin (e * 16 + p) q x (membersOf mask) qs bss).modList (e * 16 + p) (fun y =>
        { y with indexbase := (x.indexbase + 4 * rows) % 2 ^ 64 }))) := by
  rw [exec_gath, execGath]
  exact transferOp_next h hi (by
    simp only [hqs, hb, hf, ht, Option.getD_some, Bool.not_true, Bool.false_eq_true, if_false, hx]
    exact Run.fillStart_ok hr)

end

theorem Run.drainStart_ok {r : Run} {l m core : Nat} {z : Quire} {pas : List Nat}
    (hp : r.rowsPas ((r.spaceOfGrid x.grid).ofStack (l / 256)) rb ((List.range rows).map (fun j => pitched x.addr j pitch)) =
      .ok (pas, false))
    (hc : r.tpoisoned x.team (z.base + z.c % z.count * z.size) (rows * rb) = false) :
    r.drainStart l q x m core z rows rb pitch = .next ((r.modQuire core x.team q (fun z => { z with
      slots := putD z.slots (z.c % z.count) 3 0, c := z.c + 1 })).startTransfer l q [m] ⟨true, q, [(m, z.c, false)],
        (x.pos - x.first) / 8, List.zip pas (r.treadN x.team (z.base + z.c % z.count * z.size) (rows * rb))⟩) := by
  simp only [Run.drainStart, hp, hc, Bool.false_eq_true, if_false]

include h ht

/-- PULL starts the drain of a ready slot while fewer than W slots are draining (R185, R198). -/
theorem exec_pull_starts {m : Nat} {z : Quire} {pas : List Nat} (hi : (Instr.pull q mask).wf = true) (hm : membersOf mask = [m])
    (hg : m < (Run.of s).gangOf x) (hz : (Run.of s).quire ((Run.of s).memberCore x.team m) x.team q = some z)
    (ho : z.out = true) (hcv : x.conv = 0) (hsz : rows * rb ≤ z.size) (hsv : (Run.of s).teamSaved x.team = false)
    (hrd : z.slot z.c = 2) (hw : z.draining < z.win)
    (hp : (Run.of s).rowsPas (((Run.of s).spaceOfGrid x.grid).ofStack ((e * 16 + p) / 256)) rb
      ((List.range rows).map (fun j => pitched x.addr j pitch)) = .ok (pas, false))
    (hc : (Run.of s).tpoisoned x.team (z.base + z.c % z.count * z.size) (rows * rb) = false) :
    exec (.pull q mask) s = .next (s.listNext (e * 16 + p) (((Run.of s).modQuire ((Run.of s).memberCore x.team m) x.team q
      (fun z => { z with slots := putD z.slots (z.c % z.count) 3 0, c := z.c + 1 })).startTransfer (e * 16 + p) q [m]
        ⟨true, q, [(m, z.c, false)], (x.pos - x.first) / 8,
          List.zip pas ((Run.of s).treadN x.team (z.base + z.c % z.count * z.size) (rows * rb))⟩)) := by
  rw [exec_pull, execPull]
  exact transferOp_next h hi (by
    have hfits : (!z.out || x.conv != 0 || decide (z.size < rows * rb)) = false := by simp [ho, hcv, hsz]
    have hgoes : ((Run.of s).teamSaved x.team || z.slot z.c != 2 || decide (z.win ≤ z.draining)) = false := by simp [hsv, hrd, hw]
    simp only [hm, ht, Nat.not_le.2 hg, hz, hfits, hgoes, Bool.false_eq_true, if_false]
    exact Run.drainStart_ok hp hc)

end

/-- Settles O41: a command that only sets registers by its answer alone, the others by their lemmas above. -/
theorem streamCommands : Obligations.StreamCommands := by
  unfold Obligations.StreamCommands
  intro s e p x h
  refine ⟨?_, fun idx addr hi => ?_, fun d count stride hi => ⟨exec_dim_open h hi, exec_dim_closed h hi⟩,
    fun rows rb pitch hi => ?_, fun mode hi => ?_, fun d hi => ⟨exec_loop_open h hi, exec_loop_closed h hi⟩,
    fun d body ls hi hl => ⟨exec_next_again h hi hl, exec_next_leaves h hi hl⟩, fun d hi hl => exec_next_stray h hi hl,
    fun q mask rows rb pitch r' bss hi ht hb hf hr => exec_push_starts h ht rfl hb hf hi hr,
    fun q mask rows rb pitch r1 r2 ix bss hi ht hb hf hx hr => exec_gath_starts h ht rfl hb hf hi hx hr,
    fun q mask m rows rb pitch z pas hi hm ht hg hz ho hcv hsz hsv hrd hw hp hc =>
      exec_pull_starts h ht hi hm hg hz ho hcv hsz hsv hrd hw hp hc⟩
  · rw [exec_streamNop, execStreamNop]; exact listOp_next h rfl rfl
  · rw [exec_base, execBase]; exact listOp_next h hi rfl
  · rw [exec_tile, execTile]; exact listOp_next h hi rfl
  · rw [exec_conv, execConv]; exact listOp_next h hi rfl

end Sys2Proof.Machine
end

section
/-! PROOFS. Lists that start, signal, stop and are cancelled, and the completion of their fills and drains (chapter 12). -/

namespace Sys2Proof.Machine

/-! ### SEGO and SECAN (R189, R193) -/

section
variable {s : State} {w l : Nat} {o : UXOp} {any : Bool} {wp : Warp} (h : Ready s (.sego o any) w l wp)
  (hg : (s.env (.sego o any) w l wp).ug o.g = true)
include h hg

theorem sego_fails {c : Nat} (hf : (s.served (.sego o any) wp).segoFail (s.env (.sego o any) w l wp)
      (if any then none else some ((s.env (.sego o any) w l wp).us o.b).toNat) ((s.env (.sego o any) w l wp).us2 o.a) = some c) :
    exec (.sego o any) s = .next (s.through (.sego o any) w l wp
      ((s.served (.sego o any) wp).putS (s.env (.sego o any) w l wp) o.d (word c))) :=
  uniOp_done h hg (by simp only [hf])

/-- SEGO is a device-scope release, and then starts its list (R189). -/
theorem sego_starts {r' : Run} (hf : (s.served (.sego o any) wp).segoFail (s.env (.sego o any) w l wp)
      (if any then none else some ((s.env (.sego o any) w l wp).us o.b).toNat) ((s.env (.sego o any) w l wp).us2 o.a) = none)
    (hr : (s.served (.sego o any) wp).release w (s.env (.sego o any) w l wp).wp everyLane 2 = (true, r')) :
    let e := s.env (.sego o any) w l wp
    let q := r'.sego e (if any then none else some (e.us o.b).toNat) (e.us2 o.a)
    exec (.sego o any) s = .next (s.through (.sego o any) w l wp (q.2.putS e o.d (word q.1))) :=
  uniOp_done h hg (by
    simp only [hf]
    exact Run.released_free (e := s.env (.sego o any) w l wp) hr _)

end

/-- A list that SECAN cancels: it runs commands, has not been ended, and has the identifier's generation (R193). -/
def CmdList.cancellable (x : CmdList) (id : Nat) : Bool :=
  x.running && !x.handle && x.aborting.isNone && id == listId (id % 512) x.gen

theorem CmdList.cancellable_iff (x : CmdList) (id : Nat) : x.cancellable id = true ↔
    x.running = true ∧ x.handle = false ∧ x.aborting = none ∧ id = listId (id % 512) x.gen := by
  simp [CmdList.cancellable, and_assoc]

theorem CmdList.not_cancellable {x : CmdList} {id : Nat}
    (h : x.running = false ∨ x.handle = true ∨ x.aborting ≠ none ∨ id ≠ listId (id % 512) x.gen) : x.cancellable id = false := by
  rw [Bool.eq_false_iff, ne_eq, CmdList.cancellable_iff]
  rintro ⟨hrun, hhandle, habort, hid⟩
  simp [hrun, hhandle, habort, ← hid] at h

section
variable {s : State} {w l g d a : Nat} {wp : Warp} (h : Ready s (.secan g d a) w l wp)
  (hg : (s.env (.secan g d a) w l wp).ug g = true)
include h hg

theorem secan_none (hx : lookM s.dev.lists (((s.env (.secan g d a) w l wp).us a).toNat % 512) = none) :
    exec (.secan g d a) s = .next (s.through (.secan g d a) w l wp
      ((s.served (.secan g d a) wp).putS (s.env (.secan g d a) w l wp) d 1)) :=
  uniOp_done h hg (by
    rw [State.served, Run.tellKernel_none rfl]
    simp only [Run.of_dev, hx])

variable {x : CmdList} (hx : lookM s.dev.lists (((s.env (.secan g d a) w l wp).us a).toNat % 512) = some x)
include hx

theorem secan_cancels (hc : x.cancellable ((s.env (.secan g d a) w l wp).us a).toNat = true) :
    exec (.secan g d a) s = .next (s.through (.secan g d a) w l wp
      (((s.served (.secan g d a) wp).modList (((s.env (.secan g d a) w l wp).us a).toNat % 512) (fun y =>
        { y with cancel := true })).putS (s.env (.secan g d a) w l wp) d 0)) :=
  uniOp_done h hg (by
    rw [State.served, Run.tellKernel_none rfl]
    simp only [Run.of_dev, hx]
    exact if_pos hc)

theorem secan_ended (hc : x.cancellable ((s.env (.secan g d a) w l wp).us a).toNat = false) :
    exec (.secan g d a) s = .next (s.through (.secan g d a) w l wp
      ((s.served (.secan g d a) wp).putS (s.env (.secan g d a) w l wp) d 1)) :=
  uniOp_done h hg (by
    rw [State.served, Run.tellKernel_none rfl]
    simp only [Run.of_dev, hx]
    exact if_neg (Bool.eq_false_iff.1 hc))

end

/-! ### A write at the home, outside a contained node -/

@[simp] theorem Run.noteVis_w (r : Run) (node : Option Nat) (pa : Nat) : (r.noteVis node pa).w = r.w := by
  unfold Run.noteVis; dsimp only; split <;> rfl

@[simp] theorem Run.noteVis_lists (r : Run) (node : Option Nat) (pa : Nat) : (r.noteVis node pa).dev.lists = r.dev.lists := by
  unfold Run.noteVis; dsimp only; split <;> rfl

@[simp] theorem Run.unpoison_w (r : Run) (node : Option Nat) (pa n : Nat) : (r.unpoison node pa n).w = r.w := by
  unfold Run.unpoison; split <;> rfl

@[simp] theorem Run.unpoison_lists (r : Run) (node : Option Nat) (pa n : Nat) :
    (r.unpoison node pa n).dev.lists = r.dev.lists := by
  unfold Run.unpoison; split <;> rfl

theorem Run.pokes_w_congr {r r' : Run} (h : r.w = r'.w) (bs : List Byte) (a : Nat) : (r.pokes a bs).w = (r'.pokes a bs).w := by
  induction bs generalizing r r' a with
  | nil => exact h
  | cons b bs ih => exact ih (congrArg (List.cons (a, b)) h) (a + 1)

/-- Bytes written one by one at their homes are those of one write, and no list moves. -/
theorem Run.hputs_none (r : Run) (pa : Nat) (bs : List Byte) :
    (r.hputs none pa bs).w = (r.pokes pa bs).w ∧ (r.hputs none pa bs).dev.lists = r.dev.lists := by
  induction bs generalizing r pa with
  | nil => exact ⟨rfl, rfl⟩
  | cons b bs ih =>
    obtain ⟨hw, hlists⟩ := ih ((r.poke pa b).noteVis none pa) (pa + 1)
    exact ⟨hw.trans (Run.pokes_w_congr (Run.noteVis_w _ _ _) bs (pa + 1)), hlists.trans (Run.noteVis_lists _ _ _)⟩

theorem Run.recallLine_nil {r : Run} (h : r.dev.ms.partials = []) (line : Nat) : r.recallLine line = r := by
  rw [Run.recallLine, h]; rfl

/-- With no update-only copies to recall, a write at the home is of its bytes alone. -/
theorem Run.homeWrite_none {r : Run} (h : r.dev.ms.partials = []) (pa : Nat) (bs : List Byte) :
    (r.homeWrite none pa bs).w = (r.pokes pa bs).w ∧ (r.homeWrite none pa bs).dev.lists = r.dev.lists := by
  simp only [Run.homeWrite, Run.recallLine_nil h, Run.unpoison_w, Run.unpoison_lists]
  exact r.hputs_none pa bs

@[simp] theorem Run.by'_dev (r : Run) (g : Nat) : (r.by' g).dev = r.dev := rfl

@[simp] theorem State.listNext_mem (s : State) (l : Nat) (r : Run) : (s.listNext l r).mem = s.mem.writes r.w.reverse := rfl

@[simp] theorem State.listNext_lists (s : State) (l : Nat) (r : Run) :
    (s.listNext l r).dev.lists = modM r.dev.lists l (fun y => { y with pos := y.pos + 8 }) := rfl

theorem bytesOf_length (k v : Nat) : (bytesOf k v).length = k := by
  induction k generalizing v with
  | zero => rfl
  | succ k ih => exact congrArg Nat.succ (ih _)

/-! ### SIG and STOP (R202) -/

theorem exec_sig (addr : Nat) (s : State) : exec (.sig addr) s = execSig addr s := rfl
theorem exec_stop (s : State) : exec .stop s = execStop s := rfl

section
variable {s : State} {e p : Nat} {x : CmdList} (h : ReadyList s e p x)
include h

theorem exec_sig_waits {addr : Nat} (hi : (Instr.sig addr).wf = true) (hs : (Run.of s).settled x = false) :
    exec (.sig addr) s = .next (finish s (Run.of s)) := by
  rw [exec_sig, execSig]
  exact listOp_wait h hi (by simp only [hs, Bool.not_false, if_true])

/-- SIG in a settled list writes the count of completed transfers, and its GWCT joins those of the list. -/
theorem exec_sig_writes {addr pa : Nat} {pas : List Nat} (hi : (Instr.sig addr).wf = true) (hs : (Run.of s).settled x = true)
    (hp : (Run.of s).rowPas (((Run.of s).spaceOfGrid x.grid).ofStack ((e * 16 + p) / 256)) .store addr 8 = .ok (pa :: pas, false)) :
    let r := ((Run.of s).by' x.grid).homeWrite ((Run.of s).nodeOf x.grid) pa (bytesOf 8 x.done)
    exec (.sig addr) s = .next (s.listNext (e * 16 + p) (r.modList (e * 16 + p) (fun y =>
      { y with gwct := max y.gwct (r.gwctOf pa) }))) := by
  rw [exec_sig, execSig]
  exact listOp_next h hi (by simp only [hs, hp, Bool.not_true, Bool.false_eq_true, if_false, List.headD_cons])

/-- The doubleword of SIG is in memory, which is otherwise as it was, and the list goes on (R202). -/
theorem exec_sig_effect {addr pa : Nat} {pas : List Nat} (hi : (Instr.sig addr).wf = true) (hs : (Run.of s).settled x = true)
    (hp : (Run.of s).rowPas (((Run.of s).spaceOfGrid x.grid).ofStack ((e * 16 + p) / 256)) .store addr 8 = .ok (pa :: pas, false))
    (hn : (Run.of s).nodeOf x.grid = none) (hpart : s.dev.ms.partials = []) (hm : s.memOk) :
    ∃ t, exec (.sig addr) s = .next t ∧ t.mem.readN pa 8 = bytesOf 8 x.done ∧
      (∀ a, a < pa ∨ pa + 8 ≤ a → t.mem.read a = s.mem.read a) ∧
      (∀ y, lookM t.dev.lists (e * 16 + p) = some y → y.pos = x.pos + 8) := by
  have hlen : (bytesOf 8 x.done).length = 8 := bytesOf_length 8 x.done
  obtain ⟨hw, hlists⟩ := Run.homeWrite_none (r := (Run.of s).by' x.grid) hpart pa (bytesOf 8 x.done)
  refine ⟨_, exec_sig_writes h hi hs hp, ?_, fun a ha => ?_, fun y hy => ?_⟩
  · have hread := Memory.readN_writes_pokes (bytesOf 8 x.done) hm ((Run.of s).by' x.grid) pa
    rw [hlen] at hread
    simp only [State.listNext_mem, Run.modList_w, hn, hw, hread]
  · have hread := Memory.read_writes_pokes_outside (bytesOf 8 x.done) hm ((Run.of s).by' x.grid) (hlen.symm ▸ ha)
    simp only [State.listNext_mem, Run.modList_w, hn, hw, hread]
    rfl
  · simp only [State.listNext_lists, Run.modList_dev, hn, hlists, Run.by'_dev, Run.of_dev, lookM_modM_self, h.list, Option.map_some,
      Option.some.injEq] at hy
    subst hy
    rfl

theorem exec_stop_waits (hs : (Run.of s).settled x = false) : exec .stop s = .next (finish s (Run.of s)) := by
  rw [exec_stop, execStop]
  exact listOp_wait h rfl (by simp only [hs, Bool.not_false, if_true])

theorem exec_stop_ends (hs : (Run.of s).settled x = true) :
    exec .stop s = .next (finish s (((Run.of s).listStatus (e * 16 + p) 2 ((x.pos - x.first) / 8)).modList (e * 16 + p)
      (fun y => { y with running := false }))) := by
  rw [exec_stop, execStop]
  exact listOp_ended h rfl (by simp only [hs, Bool.not_true, Bool.false_eq_true, if_false])

end

/-! ### A cancelled list (R201) -/

theorem exec_listCancelled (e p : Nat) (s : State) : exec (.listCancelled e p) s = execListCancelled e p s := rfl

theorem exec_listCancelled_aborts {s : State} {e p : Nat} {x : CmdList} (hx : lookM s.dev.lists (e * 16 + p) = some x)
    (hr : x.running = true) (ha : x.aborting = none) (hc : x.cancel = true) :
    exec (.listCancelled e p) s = .next (finish s ((Run.of s).listAbort (e * 16 + p) 0x14 x.firstOpen)) := by
  rw [exec_listCancelled, execListCancelled, act_eq]
  simp only [Run.of_dev, hx, hr, ha, hc, Option.isSome_none, Bool.not_true, Bool.false_eq_true, if_false, if_true]

/-! ### Team memory -/

theorem tkey_eq_iff {team a b : Nat} : tkey team a = tkey team b ↔ a = b := by
  unfold tkey; omega

/-- A write of one byte more puts that byte behind the others. -/
theorem Run.tput_concat (r : Run) (team a : Nat) (bs : List Byte) (b : Byte) :
    (r.tput team a (bs ++ [b])).dev.ms.team = putD (r.tput team a bs).dev.ms.team (tkey team (a + bs.length)) b 0 := by
  have hlen : (List.range bs.length).length = bs.length := List.length_range
  simp only [Run.tput, Run.modMs_dev, List.length_append, List.length_singleton, List.range_succ, List.zip_append hlen,
    List.foldl_append, List.zip_cons_cons, List.zip_nil_right, List.foldl_cons, List.foldl_nil]

/-- A byte of team memory after a write of the first `n` bytes from `a` on, by induction on how many are written. -/
theorem Run.tread_tput_take (r : Run) (team a : Nat) {k : Nat} (bs : List Byte) (hk : k < bs.length) (n : Nat) (hn : n ≤ bs.length) :
    (r.tput team a (bs.take n)).tread team (a + k) = if k < n then bs[k] else r.tread team (a + k) := by
  induction n with
  | zero => rfl
  | succ n ih =>
    have hlt : n < bs.length := hn
    have hlen : (bs.take n).length = n := List.length_take_of_le (Nat.le_of_lt hlt)
    rw [Run.tread, List.take_succ_eq_append_getElem hlt, Run.tput_concat, hlen]
    by_cases he : k = n
    · subst he
      rw [lookD_putD_self, if_pos (Nat.lt_succ_self k)]
    · have hkey : tkey team (a + k) ≠ tkey team (a + n) := fun hk' => he (Nat.add_left_cancel (tkey_eq_iff.1 hk'))
      have hiff : k < n + 1 ↔ k < n := by omega
      rw [lookD_putD_ne _ _ _ hkey]
      simp only [hiff]
      exact ih (Nat.le_of_lt hlt)

/-- A byte of team memory after a write from `a` on. -/
theorem Run.tread_tput (r : Run) (team a : Nat) {k : Nat} (bs : List Byte) (hk : k < bs.length) :
    (r.tput team a bs).tread team (a + k) = bs[k] := by
  have hread := r.tread_tput_take team a bs hk bs.length (Nat.le_refl _)
  rwa [List.take_length, if_pos hk] at hread

theorem Run.treadN_eq (r : Run) (team a : Nat) (bs : List Byte) (h : ∀ (k : Nat) (hk : k < bs.length), r.tread team (a + k) = bs[k]) :
    r.treadN team a bs.length = bs := by
  induction bs generalizing a with
  | nil => rfl
  | cons b bs ih =>
    have hb : r.tread team a = b := h 0 (Nat.zero_lt_succ _)
    have hbs : r.treadN team (a + 1) bs.length = bs := ih (a + 1) (fun k hk => by
      rw [Nat.add_right_comm]
      exact h (k + 1) (Nat.succ_lt_succ hk))
    rw [List.length_cons, Run.treadN, hb, hbs]

/-- What reads team memory alone sees a write there as it was made. -/
theorem Run.treadN_twrite {r t : Run} {team a : Nat} {bs : List Byte} (h : t.dev.ms.team = (r.twrite team a bs).dev.ms.team) :
    t.treadN team a bs.length = bs := by
  refine t.treadN_eq team a bs (fun k hk => ?_)
  have hread : t.tread team (a + k) = (r.tput team a bs).tread team (a + k) := by rw [Run.tread, h]; rfl
  rw [hread, Run.tread_tput r team a bs hk]

/-! ### What the completion of a fill leaves alone -/

@[simp] theorem Run.twrite_w (r : Run) (team a : Nat) (bs : List Byte) : (r.twrite team a bs).w = r.w := rfl
@[simp] theorem Run.modQuire_w (r : Run) (core team n : Nat) (f : Quire → Quire) : (r.modQuire core team n f).w = r.w := rfl
@[simp] theorem Run.partDone_w (r : Run) (l t m : Nat) : (r.partDone l t m).w = r.w := rfl
@[simp] theorem Run.modQuire_ms (r : Run) (core team n : Nat) (f : Quire → Quire) :
    (r.modQuire core team n f).dev.ms = r.dev.ms := rfl
@[simp] theorem Run.partDone_ms (r : Run) (l t m : Nat) : (r.partDone l t m).dev.ms = r.dev.ms := rfl
@[simp] theorem Run.twrite_quire (r : Run) (team a : Nat) (bs : List Byte) (core k n : Nat) :
    (r.twrite team a bs).quire core k n = r.quire core k n := rfl
@[simp] theorem Run.partDone_quire (r : Run) (l t m core k n : Nat) :
    (r.partDone l t m).quire core k n = r.quire core k n := rfl
@[simp] theorem quire_finish (s : State) (r : Run) (core k n : Nat) :
    (Run.of (finish s r)).quire core k n = r.quire core k n := rfl
@[simp] theorem ms_finish (s : State) (r : Run) : (Run.of (finish s r)).dev.ms = r.dev.ms := rfl

/-! ### Transfers that complete (R184, R198) -/

/-- A fill's bytes enter the slot, the slot is ready, and that part of the transfer is done. -/
def Run.slotFilled (r : Run) (l tid m seq core : Nat) (x : CmdList) (tr : Transfer) (z : Quire) : Run :=
  ((r.twrite x.team (z.base + seq % z.count * z.size) (tr.data.map (·.2))).modQuire core x.team tr.quire (fun z =>
    { z with slots := putD z.slots (seq % z.count) 2 0 })).partDone l tid m

theorem exec_slotReady (tid core : Nat) (s : State) : exec (.slotReady tid core) s = execSlotReady tid core s := rfl
theorem exec_drainComplete (tid : Nat) (s : State) : exec (.drainComplete tid) s = execDrainComplete tid s := rfl

section
variable {s : State} {tid l m seq : Nat} {x : CmdList} {tr : Transfer}
  (hf : (Run.of s).findTransfer tid = some (l, x, tr)) (hsv : (Run.of s).teamSaved x.team = false)
include hf hsv

theorem exec_slotReady_fills {core : Nat} {done : Bool} {z : Quire} (hpull : tr.pull = false)
    (hpart : tr.parts.find? (fun p => !p.2.2 && (Run.of s).memberCore x.team p.1 == core) = some (m, seq, done))
    (hlow : (Run.of s).lowerOpen x.team m tr.quire seq false = false) (hz : (Run.of s).quire core x.team tr.quire = some z) :
    exec (.slotReady tid core) s = .next (finish s ((Run.of s).slotFilled l tid m seq core x tr z)) := by
  rw [exec_slotReady, execSlotReady, act_eq]
  simp only [hf, hpart, hpull, hsv, hlow, hz, Bool.or_self, Bool.false_eq_true, if_false]
  rfl

/-- A drain's bytes are applied, its slot is empty, and an ended list that waited for it alone ends (R198, R201). -/
theorem exec_drainComplete_empties {done : Bool} {ps : List (Nat × Nat × Bool)} (hpull : tr.pull = true)
    (hparts : tr.parts = (m, seq, done) :: ps) (hlow : (Run.of s).lowerOpen x.team m tr.quire seq true = false) :
    exec (.drainComplete tid) s = .next (finish s (((((Run.of s).drainApply l x tr).modQuire
      ((Run.of s).memberCore x.team m) x.team tr.quire
      (fun z => { z with slots := delM z.slots (seq % z.count) })).partDone l tid m).listFinish l)) := by
  rw [exec_drainComplete, execDrainComplete, act_eq]
  simp only [hf, hparts, hpull, hsv, hlow, Bool.not_true, Bool.or_self, Bool.false_eq_true, if_false]

end

/-- The filled slot holds the tile and is ready; memory has not changed. -/
theorem slotFilled_effect {s : State} {l tid m seq core : Nat} {x : CmdList} {tr : Transfer} {z : Quire}
    (hz : (Run.of s).quire core x.team tr.quire = some z) :
    let t := finish s ((Run.of s).slotFilled l tid m seq core x tr z)
    (Run.of t).treadN x.team (z.base + seq % z.count * z.size) tr.data.length = tr.data.map (·.2) ∧
    (Run.of t).quire core x.team tr.quire = some { z with slots := putD z.slots (seq % z.count) 2 0 } ∧ t.mem = s.mem := by
  refine ⟨?_, ?_, ?_⟩
  · have hread := Run.treadN_twrite (r := Run.of s) (team := x.team) (a := z.base + seq % z.count * z.size)
      (bs := tr.data.map (·.2)) (t := Run.of (finish s ((Run.of s).slotFilled l tid m seq core x tr z)))
      (by simp only [ms_finish, Run.slotFilled, Run.partDone_ms, Run.modQuire_ms])
    rwa [List.length_map] at hread
  · simp only [quire_finish, Run.slotFilled, Run.partDone_quire, Run.quire_modQuire, Run.twrite_quire, hz, Option.map_some]
  · simp only [finish_mem, Run.slotFilled, Run.partDone_w, Run.modQuire_w, Run.twrite_w, Run.of_w, List.reverse_nil]
    rfl

/-- Settles O42: starting and cancelling by SEGO's and SECAN's lemmas, SIG and STOP by those of a settled list, and the two ways
in which a transfer completes. -/
theorem listsAndTransfers : Obligations.ListsAndTransfers := by
  unfold Obligations.ListsAndTransfers
  refine ⟨fun s w l o any wp h hg => ⟨fun c hf => sego_fails h hg hf, fun r' hf hr => sego_starts h hg hf hr⟩,
    fun s w l g d a wp h hg => ⟨fun x hx hrun hhandle habort hid => ?_, secan_none h hg, fun x hx hnot => ?_⟩,
    fun s e p addr pa pas x h hi => ⟨exec_sig_waits h hi, exec_sig_effect h hi⟩,
    fun s e p x h => ⟨exec_stop_waits h, exec_stop_ends h⟩,
    fun s e p x hx hr ha hc => exec_listCancelled_aborts hx hr ha hc,
    fun s tid core l m seq done x tr z hf hpull hsv hpart hlow hz =>
      ⟨_, exec_slotReady_fills hf hsv hpull hpart hlow hz, slotFilled_effect hz⟩,
    fun s tid l m seq done ps x tr hf hpull hsv hparts hlow => exec_drainComplete_empties hf hsv hpull hparts hlow⟩
  · exact secan_cancels h hg hx ((CmdList.cancellable_iff x _).2 ⟨hrun, hhandle, habort, hid⟩)
  · exact secan_ended h hg hx (CmdList.not_cancellable hnot)

end Sys2Proof.Machine
end

section
/-! PROOFS. What enters the queue of the matrix array: MCLAIM's claims, the operations that take effect later, and the tokens of an
MMA (chapter 13, R342). -/

namespace Sys2Proof.Machine

/-! ### An instruction that enters the queue (R212) -/

section
variable {r : Run} {e : Env} {k : Run → Ret}

theorem Run.room16_full (h : 16 ≤ (r.core e.wp.core).queue.length) : r.room16 e k = .wait .queueFull := if_pos h

theorem Run.room16_free (h : (r.core e.wp.core).queue.length < 16) : r.room16 e k = k r := if_neg (Nat.not_le.2 h)

end

section
variable {s : State} {i : Instr} {w l g : Nat} {wp : Warp} {k : Env → Run → Ret}
  (h : Ready s i w l wp) (hg : (s.env i w l wp).ug g = true)
include h hg

theorem queueOp_full (hi : i.kernelKind = none) (hfull : 16 ≤ ((Run.of s).core wp.core).queue.length) :
    uniOp i g (fun r e => r.room16 e (k e)) s = .next (s.waits w l wp (Run.of s) .queueFull) :=
  uniOp_wait h hg (Run.room16_full (by rw [State.served, Run.tellKernel_none hi]; exact hfull))

variable (hroom : ((s.served i wp).core wp.core).queue.length < 16)
include hroom

theorem queueOp_done {r : Run} (hk : k (s.env i w l wp) (s.served i wp) = .done r) :
    uniOp i g (fun r e => r.room16 e (k e)) s = .next (s.through i w l wp r) :=
  uniOp_done h hg ((Run.room16_free hroom).trans hk)

theorem queueOp_trap {c a t : Nat} (hk : k (s.env i w l wp) (s.served i wp) = .trap c a t) :
    uniOp i g (fun r e => r.room16 e (k e)) s = .next (s.trapped i w l wp c a t) :=
  uniOp_trap h hg ((Run.room16_free hroom).trans hk)

theorem queueOp_wait {y : Why} (hk : k (s.env i w l wp) (s.served i wp) = .wait y) :
    uniOp i g (fun r e => r.room16 e (k e)) s = .next (s.waits w l wp (Run.of s) y) :=
  uniOp_wait h hg ((Run.room16_free hroom).trans hk)

end

/-! ### Runs of resources (R216) -/

theorem mem_run {a n j : Nat} : j ∈ run a n ↔ a ≤ j ∧ j < a + n := by
  simp only [run, List.mem_map, List.mem_range]
  exact ⟨fun ⟨i, hi, hj⟩ => by omega, fun ⟨hlow, hhigh⟩ => ⟨j - a, by omega, by omega⟩⟩

/-- The run that is found lies below the total, and nothing in it is claimed. -/
theorem freeRun_some {m : Map Nat} {total n k : Nat} (h : freeRun m total n = some k) :
    k + n ≤ total ∧ ∀ j, k ≤ j → j < k + n → lookM m j = none := by
  have hk := List.find?_some h
  simp only [Bool.and_eq_true, decide_eq_true_eq, List.all_eq_true, Option.isNone_iff_eq_none] at hk
  obtain ⟨hfits, hfree⟩ := hk
  exact ⟨hfits, fun j hlow hhigh => hfree j (mem_run.2 ⟨hlow, hhigh⟩)⟩

theorem lookM_claimAll (m : Map Nat) (team : Nat) (ls : List Nat) (j : Nat) :
    lookM (claimAll m team ls) j = if j ∈ ls then some team else lookM m j := by
  induction ls generalizing m with
  | nil => rfl
  | cons a ls ih =>
    have hcons : claimAll m team (a :: ls) = claimAll (putM m a team) team ls := rfl
    rw [hcons, ih]
    by_cases hls : j ∈ ls
    · rw [if_pos hls, if_pos (List.mem_cons_of_mem a hls)]
    · by_cases hj : j = a
      · subst hj
        rw [if_neg hls, if_pos List.mem_cons_self, lookM_putM_self]
      · rw [if_neg hls, if_neg (fun hm => (List.mem_cons.1 hm).elim hj hls), lookM_putM_ne _ _ hj]

/-- A core whose run of resources from `k` on, slots or one weight set, is claimed by a team. -/
def Core.claim (c : Core) (team : Nat) (wset : Bool) (k count : Nat) : Core :=
  if wset then { c with setOwner := claimAll c.setOwner team [k] }
  else { c with slotOwner := claimAll c.slotOwner team (run k count) }

theorem Core.claim_slots (c : Core) {team k count j : Nat} (hlow : k ≤ j) (hhigh : j < k + count) :
    lookM (c.claim team false k count).slotOwner j = some team :=
  (lookM_claimAll c.slotOwner team (run k count) j).trans (if_pos (mem_run.2 ⟨hlow, hhigh⟩))

theorem Core.claim_set (c : Core) (team k count : Nat) : lookM (c.claim team true k count).setOwner k = some team :=
  (lookM_claimAll c.setOwner team [k] k).trans (if_pos List.mem_cons_self)

/-! ### MCLAIM (R216) -/

@[simp] theorem Run.putS_w (r : Run) (e : Env) (d : Nat) (x : Word) : (r.putS e d x).w = r.w := by
  unfold Run.putS; split <;> rfl

@[simp] theorem Run.putS_core (r : Run) (e : Env) (d : Nat) (x : Word) (c : Nat) : (r.putS e d x).core c = r.core c := by
  unfold Run.putS; split <;> rfl

/-- A run that gives a ready split's instruction its uniform result ends in a state that holds the result, the run's bytes and
the run's cores. -/
theorem through_putS {s : State} {i : Instr} {w l : Nat} {wp : Warp} (h : Ready s i w l wp) (r : Run) (d : Nat) (x : Word)
    (hr : lookM r.dev.warps w = some wp) : let t := s.through i w l wp (r.putS (s.env i w l wp) d x)
    (d < 192 → t.s w d = x) ∧ t.mem = s.mem.writes r.w.reverse ∧ ∀ c, ((Run.of t).core c).still = (r.core c).still := by
  have hput : r.putS (s.env i w l wp) d x = r.modWarp w (fun y => y.setS d x) := by
    have hag : (s.env i w l wp).agent = .warp w l := h.agent
    unfold Run.putS; rw [hag]; rfl
  obtain ⟨_, hmem, _, _, _, hcores, _⟩ := through_frame s i w l wp (r.putS (s.env i w l wp) d x)
  refine ⟨fun hd => ?_, by rw [hmem, Run.putS_w], fun c => by rw [hcores, Run.putS_core]⟩
  have hwarp := through_warp s i w l wp (r.putS (s.env i w l wp) d x)
  rw [hput, Run.modWarp_dev, lookM_modM_self, hr, ← hput] at hwarp
  unfold State.s
  rw [hwarp]
  exact (Warp.getS_setS wp d d x).trans (if_pos ⟨rfl, hd⟩)

section
variable {s : State} {w l g d count : Nat} {wset : Bool} {wp : Warp} (h : Ready s (.mclaim g d wset count) w l wp)
  (hg : (s.env (.mclaim g d wset count) w l wp).ug g = true)
include h hg

theorem mclaim_none (hf : (if wset then freeRun ((s.served (.mclaim g d wset count) wp).core wp.core).setOwner 2 1
      else freeRun ((s.served (.mclaim g d wset count) wp).core wp.core).slotOwner 32 count) = none) :
    exec (.mclaim g d wset count) s = .next (s.through (.mclaim g d wset count) w l wp
      ((s.served (.mclaim g d wset count) wp).putS (s.env (.mclaim g d wset count) w l wp) d 0xFFFFFFFF)) :=
  uniOp_done h hg (by simp only [State.env_wp_core, hf])

variable {k : Nat} (hf : (if wset then freeRun ((s.served (.mclaim g d wset count) wp).core wp.core).setOwner 2 1
      else freeRun ((s.served (.mclaim g d wset count) wp).core wp.core).slotOwner 32 count) = some k)
include hf

theorem mclaim_claims : exec (.mclaim g d wset count) s = .next (s.through (.mclaim g d wset count) w l wp
    (((s.served (.mclaim g d wset count) wp).modCore wp.core (fun c => c.claim wp.team wset k count)).putS
      (s.env (.mclaim g d wset count) w l wp) d (word k))) :=
  uniOp_done h hg (by simp only [State.env_wp_core, State.env_wp_team, hf]; rfl)

/-- MCLAIM answers the run it has found, which was free and is its team's. -/
theorem mclaim_effect : let c := (s.served (.mclaim g d wset count) wp).core wp.core
    ∃ t, exec (.mclaim g d wset count) s = .next t ∧ (d < 192 → t.s w d = word k) ∧
      (wset = false → (∀ j, k ≤ j → j < k + count → lookM c.slotOwner j = none ∧
        lookM ((Run.of t).core wp.core).slotOwner j = some wp.team) ∧ k + count ≤ 32) ∧
      (wset = true → lookM ((Run.of t).core wp.core).setOwner k = some wp.team) ∧ t.mem = s.mem := by
  have hserved : s.served (.mclaim g d wset count) wp = Run.of s := Run.tellKernel_none rfl
  rw [hserved] at hf
  obtain ⟨hs, hmem, hcores⟩ := through_putS h ((Run.of s).modCore wp.core (fun c => c.claim wp.team wset k count)) d (word k) h.warp
  have hcore := hcores wp.core
  rw [Run.core_modCore_self] at hcore
  refine ⟨_, mclaim_claims h hg (hserved ▸ hf), ?_⟩
  rw [hserved]
  refine ⟨hs, fun hw => ?_, fun hw => ?_, hmem⟩
  · subst hw
    have hslots := congrArg Core.slotOwner hcore
    obtain ⟨hfits, hfree⟩ := freeRun_some hf
    exact ⟨fun j hlow hhigh => ⟨hfree j hlow hhigh,
      (congrArg (lookM · j) hslots).trans (Core.claim_slots _ hlow hhigh)⟩, hfits⟩
  · subst hw
    exact (congrArg (lookM · k) (congrArg Core.setOwner hcore)).trans (Core.claim_set _ wp.team k count)

end

/-! ### Operations that take effect in their turn (R211, R213 to R219, R224) -/

theorem Run.slotBad_claimed {r : Run} {e : Env} {slot n : Nat} (h : slot < 32 ∧ r.unclaimed e slot n = none) :
    r.slotBad e slot n = none := by
  rw [Run.slotBad, if_neg (Nat.not_le.2 h.1), h.2]; rfl

/-- A bank that is not busy, or that the split has waited for already, holds nothing back (R213). -/
theorem Run.bank_not_awaited {r : Run} {e : Env} {bank : Nat}
    (h : e.met = true ∨ (r.core e.wp.core).busyBank e.wp.team bank = false) :
    (!e.met && (r.core e.wp.core).busyBank e.wp.team bank) = false := by
  cases h with
  | inl hmet => rw [hmet]; rfl
  | inr hbusy => rw [hbusy, Bool.and_false]

theorem Run.macc_enters {r : Run} {e : Env} {bank ta rows cvt : Nat} (op : MOp)
    (hb : r.bankOk e bank = true ∧ (e.met = true ∨ (r.core e.wp.core).busyBank e.wp.team bank = false)) (hta : ta % 64 = 0)
    (ht : teamOk (r.teamGeom e.grid).1 (r.teamGeom e.grid).2 ta (rows * 64 * maccBytes cvt) = true) :
    r.macc e bank ta rows cvt op = .done (r.enqueue e op [] [] true) := by
  obtain ⟨hok, hfree⟩ := hb
  have hgo := Run.bank_not_awaited hfree
  simp only [Run.macc, hok, hta, ht, hgo, Bool.not_true, Bool.false_eq_true, if_false, ne_eq, not_true]

section
variable {s : State} {i : Instr} {w l g a b n o : Nat} {wp : Warp} (h : Ready s i w l wp)
  (hg : (s.env i w l wp).ug g = true) (hroom : ((s.served i wp).core wp.core).queue.length < 16)
include h hg hroom

theorem mrel_enters {d : Nat} {ws : Bool} (hi : i = .mrel g d a ws n)
    (ha : ((s.env i w l wp).us a).toNat < (if ws then 2 else 32)) :
    exec i s = .next (s.through i w l wp (((s.served i wp).enqueue (s.env i w l wp)
      (.mrel ws ((s.env i w l wp).us a).toNat n d) [] [] true).modWarp w (fun y => y.await d 1))) := by
  subst hi
  exact queueOp_done h hg hroom (by simp only [Nat.not_le.2 ha, decide_false, Bool.false_eq_true, if_false, State.env_w])

theorem mrel_out_of_limits {d : Nat} {ws : Bool} (hi : i = .mrel g d a ws n)
    (ha : (if ws then 2 else 32) ≤ ((s.env i w l wp).us a).toNat) :
    exec i s = .next (s.trapped i w l wp 7 (2 ^ 64 - 8) (s.env i w l wp).lead) := by
  subst hi
  exact queueOp_trap h hg hroom (by simp only [ha, decide_true, if_true]; rfl)

theorem mlds_enters (hi : i = .mlds g a b n o)
    (ha : ((s.env i w l wp).us a).toNat < 32 ∧ (s.served i wp).unclaimed (s.env i w l wp) ((s.env i w l wp).us a).toNat 1 = none)
    (hb : ((s.env i w l wp).us b).toNat % 128 = 0)
    (ht : teamOk ((s.served i wp).teamGeom (s.env i w l wp).grid).1 ((s.served i wp).teamGeom (s.env i w l wp).grid).2
      ((s.env i w l wp).us b).toNat n = true) :
    exec i s = .next (s.through i w l wp ((s.served i wp).enqueue (s.env i w l wp)
      (.mlds ((s.env i w l wp).us b).toNat ((s.env i w l wp).us a).toNat n o) [] [] true)) := by
  subst hi
  exact queueOp_done h hg hroom (by
    simp only [Run.slotBad_claimed ha, hb, ht, ne_eq, not_true, Bool.not_true, Bool.false_eq_true, if_false])

/-- MLDS from a quire slot takes the slot's bytes as it issues (R214). -/
theorem mldsQ_enters {q ta : Nat} (hi : i = .mldsQ g a b q n o)
    (ha : ((s.env i w l wp).us a).toNat < 32 ∧ (s.served i wp).unclaimed (s.env i w l wp) ((s.env i w l wp).us a).toNat 1 = none)
    (hq : (s.served i wp).quireLoc (s.env i w l wp).wp (s.env i w l wp).met q ((s.env i w l wp).us b).toNat 0 n false =
      .ok (.team ta)) :
    exec i s = .next (s.through i w l wp ((s.served i wp).enqueue (s.env i w l wp)
      (.mldsQ q ((s.env i w l wp).us b).toNat ((s.env i w l wp).us a).toNat n o)
      (List.zip (List.range n) ((s.served i wp).treadN wp.team ta n)) ((s.served i wp).teamBad wp.team ta n 4) true)) := by
  subst hi
  exact queueOp_done h hg hroom (by simp only [Run.slotBad_claimed ha, hq, State.env_wp_team])

/-- MWLD sets the set's format as it issues, and latches the tile in its turn (R218). -/
theorem mwld_enters (hi : i = .mwld g a b n o)
    (ha : ((s.env i w l wp).us a).toNat < 32 ∧
      (s.served i wp).unclaimed (s.env i w l wp) ((s.env i w l wp).us a).toNat (fmtBytes o) = none)
    (hb : ((s.env i w l wp).us b).toNat < 2)
    (hm : (s.served i wp).setMine (s.env i w l wp) ((s.env i w l wp).us b).toNat = true) :
    exec i s = .next (s.through i w l wp (((s.served i wp).modCore wp.core (fun c => { c with
      setFmt := putM c.setFmt ((s.env i w l wp).us b).toNat (o, n) })).enqueue (s.env i w l wp)
        (.mwld ((s.env i w l wp).us a).toNat ((s.env i w l wp).us b).toNat o n) [] [] true)) := by
  subst hi
  exact queueOp_done h hg hroom (by
    simp only [Nat.not_le.2 hb, false_and, Run.slotBad_claimed ha, hm, Bool.not_true, Bool.false_eq_true, if_false,
      State.env_wp_core])

theorem mhad_enters {scale : Int} (hi : i = .mhad g a scale n o)
    (ha : ((s.env i w l wp).us a).toNat < 32 ∧ (s.served i wp).unclaimed (s.env i w l wp) ((s.env i w l wp).us a).toNat 1 = none) :
    exec i s = .next (s.through i w l wp ((s.served i wp).enqueue (s.env i w l wp)
      (.mhad ((s.env i w l wp).us a).toNat scale n o) [] [] true)) := by
  subst hi
  exact queueOp_done h hg hroom (by simp only [Run.slotBad_claimed ha])

section
variable (ha : (s.served i wp).bankOk (s.env i w l wp) ((s.env i w l wp).us a).toNat = true ∧
  ((s.env i w l wp).met = true ∨
    ((s.served i wp).core wp.core).busyBank wp.team ((s.env i w l wp).us a).toNat = false))
include ha

theorem mzero_enters (hi : i = .mzero g a) :
    exec i s = .next (s.through i w l wp ((s.served i wp).enqueue (s.env i w l wp)
      (.mzero ((s.env i w l wp).us a).toNat) [] [] true)) := by
  subst hi
  obtain ⟨hok, hfree⟩ := ha
  have hgo := Run.bank_not_awaited hfree
  exact queueOp_done h hg hroom (by simp only [hok, hgo, Bool.not_true, Bool.false_eq_true, if_false])

variable (hb : ((s.env i w l wp).us b).toNat % 64 = 0)
  (ht : teamOk ((s.served i wp).teamGeom (s.env i w l wp).grid).1 ((s.served i wp).teamGeom (s.env i w l wp).grid).2
    ((s.env i w l wp).us b).toNat (n * 64 * maccBytes o) = true)
include hb ht

theorem maccSt_enters (hi : i = .maccSt g a b n o) :
    exec i s = .next (s.through i w l wp ((s.served i wp).enqueue (s.env i w l wp)
      (.maccSt ((s.env i w l wp).us a).toNat ((s.env i w l wp).us b).toNat n o) [] [] true)) := by
  subst hi
  exact queueOp_done h hg hroom (Run.macc_enters _ ha hb ht)

theorem maccLd_enters (hi : i = .maccLd g a b n o) :
    exec i s = .next (s.through i w l wp ((s.served i wp).enqueue (s.env i w l wp)
      (.maccLd ((s.env i w l wp).us a).toNat ((s.env i w l wp).us b).toNat n o) [] [] true)) := by
  subst hi
  exact queueOp_done h hg hroom (Run.macc_enters _ ha hb ht)

end
end

/-! ### The tokens of an MMA (R222, R342) -/

/-- The run in which a stack's pool has given `need` tokens. -/
def Run.spend (r : Run) (stack need : Nat) : Run :=
  r.modPower (fun p => { p with tokens := modNth p.tokens stack (fun t => t - need) })

section
variable {r : Run} {e : Env} {x : Grid} {rows : Nat} {k : Run → Ret} (hx : r.grid e.grid = some x)
include hx

theorem Run.takeTokens_pays (hp : mmaTokens rows + x.cls * r.refill (stackOf e.wp.core) / 8 ≤
      r.tokensFor e (stackOf e.wp.core) x.cls) :
    r.takeTokens e rows k = k (r.spend (stackOf e.wp.core) (mmaTokens rows)) := by
  have hcls : r.clsOf e.grid = x.cls := by rw [Run.clsOf, hx]
  simp only [Run.takeTokens, Run.wants, hcls, Nat.not_lt.2 hp, if_false]
  rfl

theorem Run.takeTokens_waits (hp : ¬ mmaTokens rows + x.cls * r.refill (stackOf e.wp.core) / 8 ≤
      r.tokensFor e (stackOf e.wp.core) x.cls) :
    r.takeTokens e rows k = .wait (.tokens (mmaTokens rows)) := by
  have hcls : r.clsOf e.grid = x.cls := by rw [Run.clsOf, hx]
  simp only [Run.takeTokens, Run.wants, hcls, Nat.lt_of_not_le hp, if_true]

end

/-- What a ready MMA that comes first leaves of a pool: it takes its tokens when the pool holds them and its class's reserve. -/
theorem Run.tokensFor_cons {r : Run} {e : Env} {stack cls c n : Nat} {xs : List (Nat × Nat)}
    (h : r.mmasBefore e cls = (c, n) :: xs) : r.tokensFor e stack cls = xs.foldl (fun t x =>
      if t < x.2 + x.1 * r.refill stack / 8 then t else t - x.2)
        (if nthD r.dev.power.tokens stack 0 < n + c * r.refill stack / 8 then nthD r.dev.power.tokens stack 0
          else nthD r.dev.power.tokens stack 0 - n) := by
  rw [Run.tokensFor, h]; rfl

theorem Run.tokensFor_nil {r : Run} {e : Env} {stack cls : Nat} (h : r.mmasBefore e cls = []) :
    r.tokensFor e stack cls = nthD r.dev.power.tokens stack 0 := by
  rw [Run.tokensFor, h]; rfl

/-! ### MMA (R220, R221) -/

section
variable {r : Run} {e : Env} {a : Nat} {b : MmaBlock} {pay : Run → MmaBlock → Option Nat → Ret}
  (hroom : (r.core e.wp.core).queue.length < 16)
include hroom

theorem Run.mmaWork_bad {k : Nat} (hk : mmaBad (fun k => (e.us (a + k)).toNat) = some k) :
    r.mmaWork e a pay = .trap 7 (limAddr k) e.lead :=
  (Run.room16_free hroom).trans (by simp only [hk])

variable (hk : mmaBad (fun k => (e.us (a + k)).toNat) = none) (hb : mmaBlock (fun k => (e.us (a + k)).toNat) = b)
  (hc : r.mmaCheck e b = none)
include hk hb hc

/-- An MMA on slots has passed its checks. -/
theorem Run.mmaWork_slots (hh : b.h = false) : r.mmaWork e a pay = pay r b none :=
  (Run.room16_free hroom).trans (by simp only [hk, hb, hc, hh, Bool.not_false, if_true])

/-- An MMA on a tile handle has passed its checks, once it has read a descriptor that it accepts (R221). -/
theorem Run.mmaWork_handle {pas : List Nat} {rem : Bool} (hh : b.h = true)
    (hloc : r.globLoc (r.spaceAt e) .load b.haddr 32 = .ok (.glob pas rem))
    (hacq : e.lanes.any (fun k => r.laneAcq e.w k) = false)
    (hover : r.overlaps e (r.nodeOf e.grid) (e.lanes.map (fun k => (k, Loc.glob pas rem))) = false)
    (hline : r.lineBusy e.wp.core (nkey (r.nodeOf e.grid) (pas.headD 0) / 128) = false)
    (hrow : r.syncRow e.wp.core e.grid (r.nodeOf e.grid) pas = none) :
    let got := (r.seeAt e.wp.core e.w (r.nodeOf e.grid) pas).loadSync e.wp.core e.grid (r.nodeOf e.grid) (pas.headD 0) 32
    got.2.handleOk e.wp.core (ofBytes got.1) b.rows b.fmt = true →
      r.mmaWork e a pay = pay got.2 b (some (ofBytes got.1)) := fun hok =>
  (Run.room16_free hroom).trans (by
    simp only [hk, hb, hc, hh, hloc, hacq, hover, hline, hrow, hok, Bool.not_true, Bool.or_self, Bool.false_eq_true, if_false])

end

section
variable {s : State} {w l g a : Nat} {wp : Warp} {b : MmaBlock} {x : Grid} (h : Ready s (.mma g a) w l wp)
  (hg : (s.env (.mma g a) w l wp).ug g = true) (hroom : ((s.served (.mma g a) wp).core wp.core).queue.length < 16)
include h hg hroom

/-- A block with a value out of its range is cause 0x07, with the mark of its first such word. -/
theorem mma_bad_block {k : Nat} (hk : mmaBad (fun k => ((s.env (.mma g a) w l wp).us (a + k)).toNat) = some k) :
    exec (.mma g a) s = .next (s.trapped (.mma g a) w l wp 7 (2 ^ 64 - 16 + k) (s.env (.mma g a) w l wp).lead) :=
  uniOp_trap h hg (Run.mmaWork_bad hroom hk)

variable (hk : mmaBad (fun k => ((s.env (.mma g a) w l wp).us (a + k)).toNat) = none)
  (hb : mmaBlock (fun k => ((s.env (.mma g a) w l wp).us (a + k)).toNat) = b)
  (hc : (s.served (.mma g a) wp).mmaCheck (s.env (.mma g a) w l wp) b = none)
include hk hb hc

section
variable (hx : (s.served (.mma g a) wp).grid (s.env (.mma g a) w l wp).grid = some x) (hh : b.h = false)
include hx hh

theorem mma_slots_enters (hp : mmaTokens b.rows + x.cls * (s.served (.mma g a) wp).refill (stackOf wp.core) / 8 ≤
      (s.served (.mma g a) wp).tokensFor (s.env (.mma g a) w l wp) (stackOf wp.core) x.cls) :
    exec (.mma g a) s = .next (s.through (.mma g a) w l wp (((s.served (.mma g a) wp).spend (stackOf wp.core)
      (mmaTokens b.rows)).enqueue (s.env (.mma g a) w l wp) (b.op none) [] [] true)) :=
  uniOp_done h hg ((Run.mmaWork_slots hroom hk hb hc hh).trans (Run.takeTokens_pays hx hp))

/-- An MMA that the pool is too low for waits, and takes none (R342). -/
theorem mma_slots_waits (hp : ¬ mmaTokens b.rows + x.cls * (s.served (.mma g a) wp).refill (stackOf wp.core) / 8 ≤
      (s.served (.mma g a) wp).tokensFor (s.env (.mma g a) w l wp) (stackOf wp.core) x.cls) :
    exec (.mma g a) s = .next (s.waits w l wp (Run.of s) (.tokens (mmaTokens b.rows))) :=
  uniOp_wait h hg ((Run.mmaWork_slots hroom hk hb hc hh).trans (Run.takeTokens_waits hx hp))

end

/-- An MMA on a tile handle enters without its rows, which come later (R221). -/
theorem mma_handle_enters {pas : List Nat} {rem : Bool} (hh : b.h = true) : let e := s.env (.mma g a) w l wp
    let r := s.served (.mma g a) wp
    r.globLoc (r.spaceAt e) .load b.haddr 32 = .ok (.glob pas rem) →
    (wp.split l).any (fun k => r.laneAcq w k) = false →
    r.overlaps e (r.nodeOf e.grid) ((wp.split l).map (fun k => (k, Loc.glob pas rem))) = false →
    r.lineBusy wp.core (nkey (r.nodeOf e.grid) (pas.headD 0) / 128) = false →
    r.syncRow wp.core e.grid (r.nodeOf e.grid) pas = none →
    let got := (r.seeAt wp.core w (r.nodeOf e.grid) pas).loadSync wp.core e.grid (r.nodeOf e.grid) (pas.headD 0) 32
    got.2.handleOk wp.core (ofBytes got.1) b.rows b.fmt = true → got.2.grid e.grid = some x →
    mmaTokens b.rows + x.cls * got.2.refill (stackOf wp.core) / 8 ≤ got.2.tokensFor e (stackOf wp.core) x.cls →
    exec (.mma g a) s = .next (s.through (.mma g a) w l wp ((got.2.spend (stackOf wp.core) (mmaTokens b.rows)).enqueue e
      (b.op (some (ofBytes got.1))) [] [] false)) := by
  intro e r hloc hacq hover hline hrow got hok hx hp
  exact uniOp_done h hg ((Run.mmaWork_handle hroom hk hb hc hh hloc hacq hover hline hrow hok).trans
    (Run.takeTokens_pays hx hp))

end

/-- Settles O43: MCLAIM's two answers, one lemma for each operation that enters, and MMA's checks and tokens. -/
theorem matrixOperationsEnterTheQueue : Obligations.MatrixOperationsEnterTheQueue := by
  unfold Obligations.MatrixOperationsEnterTheQueue
  refine ⟨fun s w l g d count wset wp h hg => ⟨mclaim_none h hg, fun k hf => mclaim_effect h hg hf⟩, ?_,
    fun s i w l g wp h hg hroom => ⟨fun d a ws n hi => ⟨mrel_enters h hg hroom hi, mrel_out_of_limits h hg hroom hi⟩,
      fun a b n o hi => mlds_enters h hg hroom hi, fun a b q n o ta hi => mldsQ_enters h hg hroom hi,
      fun a b n o hi => mwld_enters h hg hroom hi, fun a sc z f hi => mhad_enters h hg hroom hi,
      fun a b n o hi ha hb ht => maccSt_enters h hg hroom ha hb ht hi,
      fun a b n o hi ha hb ht => maccLd_enters h hg hroom ha hb ht hi, fun a hi ha => mzero_enters h hg hroom ha hi⟩,
    fun s w l g a wp h hg hroom => ⟨fun k hk => mma_bad_block h hg hroom hk, fun x hk hc hx =>
      ⟨fun hh hp => mma_slots_enters h hg hroom hk rfl hc hx hh hp, fun hh hp => mma_slots_waits h hg hroom hk rfl hc hx hh hp,
        fun pas rem hh => mma_handle_enters h hg hroom hk rfl hc hh⟩⟩,
    fun r e st cls => ⟨Run.tokensFor_nil, fun c n xs hbefore => ⟨fun hlow => ?_, fun hhigh => ?_⟩⟩⟩
  · intro s i w l wp g h _ hi hg hfull
    rcases hi with ⟨_, _, _, _, rfl⟩ | ⟨_, _, _, _, rfl⟩ | ⟨_, _, _, _, _, rfl⟩ | ⟨_, _, _, _, rfl⟩ | ⟨_, _, _, _, rfl⟩ |
      ⟨_, _, _, _, rfl⟩ | ⟨_, _, _, _, rfl⟩ | ⟨_, rfl⟩ | ⟨_, rfl⟩
    all_goals exact queueOp_full h hg rfl hfull
  · rw [Run.tokensFor_cons hbefore, if_pos hlow]
  · rw [Run.tokensFor_cons hbefore, if_neg (Nat.not_lt.2 hhigh)]

end Sys2Proof.Machine
end

section
/-! PROOFS. What completes in the matrix array: MWAIT, the operations whose turn has come, and the requests of tile handles
(chapter 13). -/

namespace Sys2Proof.Machine

/-! ### MWAIT (R215) -/

/-- An operation on a bank of a team, with a key below `upto`, is queued. -/
def Core.bankHeld (c : Core) (upto team bank : Nat) : Bool :=
  c.queue.any (fun x => decide (x.1 < upto) && x.2.team == team && x.2.op.names.contains (128 + bank))

section
variable {s : State} {w l g d a : Nat} {wp : Warp} (h : Ready s (.mwait g d a) w l wp)
  (hg : (s.env (.mwait g d a) w l wp).ug g = true)
  (hb : (s.served (.mwait g d a) wp).bankOk (s.env (.mwait g d a) w l wp) ((s.env (.mwait g d a) w l wp).us a).toNat = true)
include h hg hb

theorem mwait_held (hq : ((s.served (.mwait g d a) wp).core wp.core).bankHeld
      ((s.served (.mwait g d a) wp).mwaitUpto (s.env (.mwait g d a) w l wp)) wp.team
      ((s.env (.mwait g d a) w l wp).us a).toNat = true) :
    exec (.mwait g d a) s = .next (s.waits w l wp (Run.of s)
      (.matrix ((s.served (.mwait g d a) wp).mwaitUpto (s.env (.mwait g d a) w l wp)))) := by
  unfold Core.bankHeld at hq
  exact uniOp_wait h hg (by
    simp only [State.env_wp_core, State.env_wp_team, hb, hq, Bool.not_true, Bool.false_eq_true, if_false, if_true])

variable (hq : ((s.served (.mwait g d a) wp).core wp.core).bankHeld
  ((s.served (.mwait g d a) wp).mwaitUpto (s.env (.mwait g d a) w l wp)) wp.team
  ((s.env (.mwait g d a) w l wp).us a).toNat = false)
include hq

theorem mwait_clean (hf : ((s.served (.mwait g d a) wp).core wp.core).failed.contains
      (bankKey wp.team ((s.env (.mwait g d a) w l wp).us a).toNat) = false) :
    exec (.mwait g d a) s = .next (s.through (.mwait g d a) w l wp
      ((s.served (.mwait g d a) wp).putS (s.env (.mwait g d a) w l wp) d 0)) := by
  unfold Core.bankHeld at hq
  exact uniOp_done h hg (by
    simp only [State.env_wp_core, State.env_wp_team, hb, hq, hf, Bool.not_true, Bool.false_eq_true, if_false])

/-- MWAIT answers 1 for a bank with a failed operation, and forgets it. -/
theorem mwait_failed (hf : ((s.served (.mwait g d a) wp).core wp.core).failed.contains
      (bankKey wp.team ((s.env (.mwait g d a) w l wp).us a).toNat) = true) :
    exec (.mwait g d a) s = .next (s.through (.mwait g d a) w l wp (((s.served (.mwait g d a) wp).modCore wp.core (fun c =>
      { c with failed := c.failed.filter (fun k => k != bankKey wp.team ((s.env (.mwait g d a) w l wp).us a).toNat) })).putS
        (s.env (.mwait g d a) w l wp) d 1)) := by
  unfold Core.bankHeld at hq
  exact uniOp_done h hg (by
    simp only [State.env_wp_core, State.env_wp_team, hb, hq, hf, Bool.not_true, Bool.false_eq_true, if_false, if_true])

end

/-! ### The turn of an operation (R212) -/

theorem exec_matrixOpComplete (core op : Nat) (s : State) : exec (.matrixOpComplete core op) s = execMatrixOpComplete core op s := rfl

/-- An operation has left its core's queue. -/
def Run.dequeue (r : Run) (core op : Nat) : Run := r.modCore core (fun c => { c with queue := delM c.queue op })

theorem Run.core_dequeue (r : Run) (core op : Nat) :
    (r.dequeue core op).core core = { r.core core with queue := delM (r.core core).queue op } := r.core_modCore_self core _

section
variable {r : Run} {core op : Nat} {q : QOp}

/-- An operation is due once no earlier one shares a resource of it, its cycle is over, and its rows have come. -/
theorem Run.opDue_of (he : (r.core core).queue.any (fun e => decide (e.1 < op) && e.2.shares q) = false)
    (hc : queueCycle op < r.clk.cycles) (hs : (q.streamed || q.failed) = true) : r.opDue core op q = true := by
  simp only [Run.opDue, he, hc, hs, Bool.not_false, decide_true, Bool.and_self]

/-- One behind another, or whose cycle is not over, is not. -/
theorem Run.not_opDue_of (h : (r.core core).queue.any (fun e => decide (e.1 < op) && e.2.shares q) = true ∨
      r.clk.cycles ≤ queueCycle op) : r.opDue core op q = false := by
  cases h with
  | inl he => simp only [Run.opDue, he, Bool.not_true, Bool.false_and]
  | inr hc => simp only [Run.opDue, Nat.not_lt.2 hc, decide_false, Bool.and_false, Bool.false_and]

end

section
variable {s : State} {core op : Nat} {q : QOp} (hq : lookM ((Run.of s).core core).queue op = some q)
include hq

theorem exec_matrixOpComplete_early (hd : (Run.of s).opDue core op q = false) :
    exec (.matrixOpComplete core op) s = .next (finish s (Run.of s)) := by
  rw [exec_matrixOpComplete, execMatrixOpComplete, act_eq]
  simp only [hq, hd, Bool.false_eq_true, if_false]

theorem exec_matrixOpComplete_due (hd : (Run.of s).opDue core op q = true) :
    exec (.matrixOpComplete core op) s = .next (finish s (((Run.of s).dequeue core op).mopRun core q)) := by
  rw [exec_matrixOpComplete, execMatrixOpComplete, act_eq]
  simp only [hq, hd, if_true]
  rfl

end

@[simp] theorem core_finish (s : State) (r : Run) (c : Nat) : (Run.of (finish s r)).core c = r.core c := rfl

/-! ### MZERO (R215, R224) -/

@[simp] theorem Core.setPoison_queue (c : Core) (k n : Nat) (bad : Map Nat) : (c.setPoison k n bad).queue = c.queue := by
  unfold Core.setPoison; split <;> rfl

@[simp] theorem Core.setPoison_failed (c : Core) (k n : Nat) (bad : Map Nat) : (c.setPoison k n bad).failed = c.failed := by
  unfold Core.setPoison; split <;> rfl

/-- A cleared bank has no failed operation, and the queue is as it was. -/
theorem Run.bankClear_core (r : Run) (core key : Nat) (data : Map Byte) :
    ((r.bankClear core key data).core core).queue = (r.core core).queue ∧
    ((r.bankClear core key data).core core).failed.contains key = false := by
  rw [Run.bankClear, Run.core_modCore_self, Core.setPoison_queue, Core.setPoison_failed]
  exact ⟨rfl, by simp⟩

theorem mzero_completes {s : State} {core op bank : Nat} {q : QOp} (hq : lookM ((Run.of s).core core).queue op = some q)
    (hop : q.op = .mzero bank) (hd : (Run.of s).opDue core op q = true) :
    ∃ t, exec (.matrixOpComplete core op) s = .next t ∧ lookM ((Run.of t).core core).queue op = none ∧
      ((Run.of t).core core).failed.contains (bankKey q.team bank) = false ∧ t.mem = s.mem := by
  have hrun : ((Run.of s).dequeue core op).mopRun core q =
      ((Run.of s).dequeue core op).bankClear core (bankKey q.team bank) [] := by rw [Run.mopRun, hop]
  obtain ⟨hqueue, hfailed⟩ := ((Run.of s).dequeue core op).bankClear_core core (bankKey q.team bank) []
  refine ⟨_, exec_matrixOpComplete_due hq hd, ?_, ?_, ?_⟩
  · rw [core_finish, hrun, hqueue, Run.core_dequeue, lookM_delM_self]
  · rw [core_finish, hrun, hfailed]
  · rw [hrun]; rfl

/-! ### MREL (R216) -/

theorem lookM_filterM_none {α : Type} {m : Map α} {f : Nat → α → Bool} {k : Nat} (h : ∀ v, f k v = false) :
    lookM (filterM m f) k = none := by
  induction m with
  | nil => rfl
  | cons e m ih =>
    obtain ⟨j, u⟩ := e
    unfold filterM at ih ⊢
    rw [List.filter_cons]
    split
    · next hj =>
      have hne : j ≠ k := fun hjk => by rw [hjk, h u] at hj; exact absurd hj (by decide)
      rw [lookM, if_neg hne, ih]
    · exact ih

/-- A core whose slots of a run have no owner. -/
def Core.freeSlots (c : Core) (first count : Nat) : Core :=
  { c with slotOwner := filterM c.slotOwner (fun k _ => !(run first count).contains k) }

theorem Core.freeSlots_none (c : Core) {first count k : Nat} (hlow : first ≤ k) (hhigh : k < first + count) :
    lookM (c.freeSlots first count).slotOwner k = none := by
  have hin : (run first count).contains k = true := List.contains_iff_mem.2 (mem_run.2 ⟨hlow, hhigh⟩)
  exact lookM_filterM_none (f := fun k _ => !(run first count).contains k) (fun _ => by rw [hin]; rfl)

theorem Warp.getS_putSs_single (wp : Warp) {d : Nat} (x : Word) (hd : d < 192) : (wp.putSs d [x]).getS d = x :=
  (Warp.getS_setS _ d d x).trans (if_pos ⟨rfl, hd⟩)

theorem Run.modWarpAny_resident {r : Run} {w : Nat} {wp : Warp} (h : lookM r.dev.warps w = some wp) (f : Warp → Warp) :
    r.modWarpAny w f = r.modWarp w f := by
  rw [Run.modWarpAny, Run.warp, h]

section
variable {r : Run} {core team warp first count d : Nat} {wp : Warp} (hwp : lookM r.dev.warps warp = some wp)
include hwp

/-- MREL of slots that are all its team's gives them back, and answers 0. -/
theorem Run.mrelRun_mine (h : (run first count).all (fun k => lookM (r.core core).slotOwner k == some team) = true) :
    r.mrelRun core team warp false first count d =
      (r.modCore core (fun c => c.freeSlots first count)).modWarp warp (fun y => y.putSs d [0]) := by
  simp only [Run.mrelRun, Bool.false_eq_true, if_false, h, Bool.not_true]
  exact Run.modWarpAny_resident (r := r.modCore core (fun c => c.freeSlots first count)) hwp _

/-- MREL of others gives none back, and answers 1. -/
theorem Run.mrelRun_not_mine (h : (run first count).all (fun k => lookM (r.core core).slotOwner k == some team) = false) :
    r.mrelRun core team warp false first count d = r.modWarp warp (fun y => y.putSs d [1]) := by
  simp only [Run.mrelRun, Bool.false_eq_true, if_false, h, Bool.not_false, if_true]
  exact Run.modWarpAny_resident hwp _

end

/-- A run that puts one result into a resident warp's uniform register ends in a state that holds it. -/
theorem finish_putSs {s : State} {r : Run} {w d : Nat} {wp : Warp} (x : Word) (hd : d < 192) (hwp : lookM r.dev.warps w = some wp) :
    (finish s (r.modWarp w (fun y => y.putSs d [x]))).s w d = x := by
  simp only [State.s, finish_dev, Run.modWarp_dev, lookM_modM_self, hwp, Option.map_some]
  exact Warp.getS_putSs_single wp x hd

theorem Run.core_modWarp (r : Run) (w c : Nat) (f : Warp → Warp) : (r.modWarp w f).core c = r.core c := rfl

theorem mrel_completes {s : State} {core op first count d : Nat} {q : QOp} {wp : Warp}
    (hq : lookM ((Run.of s).core core).queue op = some q) (hop : q.op = .mrel false first count d) (hlt : d < 192)
    (hd : (Run.of s).opDue core op q = true) (hwp : lookM s.dev.warps q.warp = some wp) :
    let c := (Run.of s).core core
    let mine := (run first count).all (fun k => lookM c.slotOwner k == some q.team)
    ∃ t, exec (.matrixOpComplete core op) s = .next t ∧ t.s q.warp d = (if mine then 0 else 1) ∧
      (mine = true → ∀ k, first ≤ k → k < first + count → lookM ((Run.of t).core core).slotOwner k = none) ∧
      (mine = false → ((Run.of t).core core).slotOwner = c.slotOwner) := by
  intro c mine
  have hrun : ((Run.of s).dequeue core op).mopRun core q =
      ((Run.of s).dequeue core op).mrelRun core q.team q.warp false first count d := by rw [Run.mopRun, hop]
  have howner : (((Run.of s).dequeue core op).core core).slotOwner = c.slotOwner := by rw [Run.core_dequeue]
  refine ⟨_, exec_matrixOpComplete_due hq hd, ?_⟩
  rw [hrun]
  cases hm : mine with
  | true =>
    have hall : (run first count).all (fun k => lookM (((Run.of s).dequeue core op).core core).slotOwner k == some q.team) = true :=
      howner ▸ hm
    rw [Run.mrelRun_mine hwp hall]
    refine ⟨finish_putSs 0 hlt hwp, fun _ k hlow hhigh => ?_, fun hn => absurd hn (by decide)⟩
    rw [core_finish, Run.core_modWarp, Run.core_modCore_self]
    exact Core.freeSlots_none _ hlow hhigh
  | false =>
    have hall : (run first count).all (fun k => lookM (((Run.of s).dequeue core op).core core).slotOwner k == some q.team) = false :=
      howner ▸ hm
    rw [Run.mrelRun_not_mine hwp hall]
    exact ⟨finish_putSs 1 hlt hwp, fun hn => absurd hn (by decide), fun _ => howner⟩

/-! ### Tile handles (R204, R221) -/

theorem exec_tileHandleRequest (core : Nat) (s : State) : exec (.tileHandleRequest core) s = execTileHandleRequest core s := rfl

section
variable {s : State} {core id d : Nat} {q : QOp} {tm : Team} (hop : ((Run.of s).core core).handleOp = some (id, q, d))
  (hsv : (Run.of s).teamSaved q.team = false)
include hop hsv

theorem tileHandle_finds_none (hpl : q.place = none) (hf : (Run.of s).freePos core (hEngine d core) = []) :
    exec (.tileHandleRequest core) s = .next (finish s (Run.of s)) := by
  rw [exec_tileHandleRequest, execTileHandleRequest, act_eq]
  simp only [hop, hsv, hpl, hf, List.isEmpty_nil, Bool.false_eq_true, if_false, if_true]

variable (htm : (Run.of s).team q.team = some tm)
include htm

/-- A request takes a position of the free ones (R204). -/
theorem tileHandle_takes (hpl : q.place = none) (hf : (Run.of s).freePos core (hEngine d core) ≠ []) :
    let x := (Run.of s).assign ((Run.of s).freePos core (hEngine d core)) q.team tm.grid q.warp 0 true
    exec (.tileHandleRequest core) s = .next (finish s (x.2.2.modCore core (fun c => { c with queue := modM c.queue id (fun q =>
      { q with place := some x.1 }) }))) := by
  rw [exec_tileHandleRequest, execTileHandleRequest, act_eq]
  simp only [hop, hsv, htm, hpl, List.isEmpty_eq_false_iff.2 hf, Bool.false_eq_true, if_false]

/-- After the release of its warp the request gives its rows to the MMA, and its position up (R221). -/
theorem tileHandle_streams {l : Nat} {r1 r2 : Run} {bss : List (List Byte)} (hpl : q.place = some l)
    (hrel : (Run.of s).warpReleased q.warp = (true, r1))
    (hrows : r1.rowsRead ((r1.spaceOfGrid tm.grid).ofStack (stackOf core)) (r1.nodeOf tm.grid) (hRowBytes d)
      ((List.range (hRows d)).map (fun j => pitched (hBase d) j (hPitch d))) = .ok (bss, r2)) :
    let bytes := (bss.map (convRow (hConv d))).flatten
    exec (.tileHandleRequest core) s = .next (finish s ((r2.modCore core (fun c => { c with queue := modM c.queue id (fun q =>
      { q with streamed := true, stream := List.zip (List.range bytes.length) bytes, place := none }) })).giveUp l)) := by
  rw [exec_tileHandleRequest, execTileHandleRequest, act_eq]
  simp only [hop, hsv, htm, hpl, hrel, hrows, Bool.not_true, Bool.false_eq_true, if_false]

end

/-- Settles O44: MWAIT's three answers, the turn of an operation with the effects of MZERO and MREL, and the three steps of a tile
handle's request. -/
theorem matrixOperationsComplete : Obligations.MatrixOperationsComplete := by
  unfold Obligations.MatrixOperationsComplete
  exact ⟨fun s w l g d a wp h hg hb => ⟨mwait_held h hg hb, mwait_clean h hg hb, mwait_failed h hg hb⟩,
    fun s core op q hq => ⟨fun h => exec_matrixOpComplete_early hq (Run.not_opDue_of h),
      fun he hc hs => exec_matrixOpComplete_due hq (Run.opDue_of he hc hs)⟩,
    fun s core op bank q hq hop hs hc he => mzero_completes hq hop (Run.opDue_of he hc (by rw [hs]; rfl)),
    fun s core op first count d q wp hq hop hs hlt hc he hwp =>
      mrel_completes hq hop hlt (Run.opDue_of he hc (by rw [hs]; rfl)) hwp,
    fun s core id d q tm hop hpl hsv htm => ⟨tileHandle_finds_none hop hsv hpl, tileHandle_takes hop hsv htm hpl⟩,
    fun s core id d l q tm r1 r2 bss hop hpl hsv hrel htm hrows => tileHandle_streams hop hsv htm hpl hrel hrows⟩

end Sys2Proof.Machine
end

section
/-! PROOFS. Triangles and bins: TRISUB's answers, the commit of a bin, and the edge functions and classes of a triangle (chapter 14). -/

namespace Sys2Proof.Machine

/-! ### Areas and edge functions (R241, R242) -/

/-- The edges go round the triangle, so that the sample's own coordinates cancel in the sum. -/
theorem sum_edgeAt_edgesOf (c : List Int) (sx sy : Int) :
    ((edgesOf c).map (edgeAt sx sy)).foldl (fun a b => a + b) 0 = (if area2 c < 0 then -1 else 1) * area2 c := by
  simp only [edgesOf, List.map_cons, List.map_nil, List.foldl_cons, List.foldl_nil, edgeAt]
  generalize (if area2 c < 0 then (-1 : Int) else 1) = sign
  dsimp only [area2]
  grind

/-- The sign that normalises the edge functions makes the area positive. -/
theorem sign_mul_area2 (c : List Int) : (if area2 c < 0 then -1 else 1) * area2 c = ((area2 c).natAbs : Int) := by
  split <;> omega

theorem triClass_culled_iff (x : DrawDesc) (c : List Int) :
    triClass x c = 0 ↔ area2 c = 0 ∨ (area2 c < 0 ∧ x.cullb = true) := by
  unfold triClass
  dsimp only
  split
  next hculled => exact ⟨fun _ => hculled, fun _ => rfl⟩
  next hkept =>
    refine ⟨fun h => ?_, fun h => absurd h hkept⟩
    split at h
    · exact absurd h (by decide : ¬ 1 = 0)
    · exact absurd h (by decide : ¬ 2 = 0)

/-- A record that is not culled is told apart by its area alone. -/
theorem triClass_kept {x : DrawDesc} {c : List Int} (h : triClass x c ≠ 0) :
    triClass x c = if 512 * x.thr ≤ (area2 c).natAbs then 1 else 2 := by
  have hkept := mt (triClass_culled_iff x c).2 h
  unfold triClass
  exact if_neg hkept

theorem triClass_large_iff (x : DrawDesc) (c : List Int) :
    triClass x c = 1 ↔ triClass x c ≠ 0 ∧ 512 * x.thr ≤ (area2 c).natAbs := by
  constructor
  · intro h
    have hkept : triClass x c ≠ 0 := by rw [h]; decide
    refine ⟨hkept, Decidable.byContradiction fun hsmall => ?_⟩
    rw [triClass_kept hkept, if_neg hsmall] at h
    exact absurd h (by decide : ¬ 2 = 1)
  · intro ⟨hkept, hlarge⟩
    rw [triClass_kept hkept, if_pos hlarge]

/-! ### TRISUB (R240, R241, R358) -/

theorem exec_trisub (o : UXOp) (count : Nat) (s : State) : exec (.trisub o count) s = execTrisub o count s := rfl

/-- A wait that keeps what the instruction has begun. -/
theorem uniOp_waitIn {s : State} {i : Instr} {w l g : Nat} {wp : Warp} {f : Run → Env → Ret} {r : Run} {y : Why}
    (h : Ready s i w l wp) (hg : (s.env i w l wp).ug g = true) (hf : f (s.served i wp) (s.env i w l wp) = .waitIn r y) :
    uniOp i g f s = .next (s.waits w l wp r y) := by
  rw [uniOp_ready h g f hg, hf]; rfl

/-- Where a write to a remote page demotes nothing and nothing is still to be committed, TRISUB does not stop for R358. -/
theorem no_demotion_of {remote pending : Bool} {demoted : Option Run} (h : remote = true → demoted = none ∧ pending = false) :
    (if remote then demoted else none) = none ∧ (remote && pending) = false := by
  cases remote with
  | false => exact ⟨rfl, rfl⟩
  | true => exact h rfl

-- The descriptor's address is a variable: the kernel would otherwise compute it from the two registers that hold it.
section
variable {s : State} {w l count desc : Nat} {o : UXOp} {wp : Warp} {pas : List Nat} {rem : Bool} {bs : List Byte} {r r1 : Run} {e : Env}
  (h : Ready s (.trisub o count) w l wp) (he : s.env (.trisub o count) w l wp = e) (hr : s.served (.trisub o count) wp = r)
  (hus : e.us2 o.a = desc) (hg : e.ug o.g = true) (hdesc : r.globLoc (r.spaceAt e) .load desc 64 = .ok (.glob pas rem))
  (hclean : r.poisoned (r.nodeOf e.grid) pas = false) (hread : r.homeRead (r.nodeOf e.grid) (pas.headD 0) 64 = (bs, r1))
include h he hr hus hg hdesc hclean hread

theorem trisub_refuses (hbad : (DrawDesc.parse (ofBytes bs)).ok (ofBytes bs) = false) :
    exec (.trisub o count) s = .next (s.trapped (.trisub o count) w l wp 7 desc e.lead) := by
  rw [exec_trisub, execTrisub]
  refine uniOp_trap h (he ▸ hg) ?_
  rw [he, hr, hus]
  simp only [hdesc, hclean, hread, hbad, Bool.false_eq_true, Bool.not_false, if_false, if_true]

variable {recs : List (List Byte)} {p : DrawPlace} (hok : (DrawDesc.parse (ofBytes bs)).ok (ofBytes bs) = true)
  (hrecs : r1.triRecords e (e.us o.b).toNat count = .ok recs)
  (hplaces : r1.drawPlaces (r.spaceAt e) desc (DrawDesc.parse (ofBytes bs)) ((recs.drop e.progress.1).filter
    (fun b => triClass (DrawDesc.parse (ofBytes bs)) (triOf b).1 == 2)).length = .ok p)
include hok hrecs hplaces

theorem trisub_demotes {r' : Run} (hremote : p.remote = true) (hdem : r1.demoteNow e.grid = some r') :
    exec (.trisub o count) s = .next (s.waits w l wp r' .fence) := by
  rw [exec_trisub, execTrisub]
  refine uniOp_waitIn h (he ▸ hg) ?_
  rw [he, hr, hus]
  simp only [hdesc, hclean, hread, hok, hrecs, hplaces, hremote, hdem, Bool.not_true, Bool.false_eq_true, if_false, if_true]

/-- TRISUB handles the records that an earlier try has left, up to a small one that the queue has no room for. -/
theorem trisub_submits (hstay : p.remote = true → r1.demoteNow e.grid = none ∧ r1.commitPending e.grid = false) :
    let x := DrawDesc.parse (ofBytes bs)
    let k := (r1.drawOf e.grid desc x).1
    let t := (recs.drop e.progress.1).foldl (TriRun.step x k (r.nodeOf e.grid) p)
      { r := (r1.drawOf e.grid desc x).2, done := e.progress.1, kept := e.progress.2, stall := false }
    (t.stall = false → exec (.trisub o count) s =
      .next (s.through (.trisub o count) w l wp ((t.r.progress e none).putS e o.d (word t.kept)))) ∧
    (t.stall = true → exec (.trisub o count) s = .next (s.waits w l wp (t.r.progress e (some (t.done, t.kept))) .space)) := by
  obtain ⟨hdem, hcommit⟩ := no_demotion_of hstay
  rw [exec_trisub, execTrisub]
  refine ⟨fun hroom => uniOp_done h (he ▸ hg) ?_, fun hfull => uniOp_waitIn h (he ▸ hg) ?_⟩
  · rw [he, hr, hus]
    simp only [hdesc, hclean, hread, hok, hrecs, hplaces, hdem, hcommit, hroom, Bool.not_true, Bool.false_eq_true, if_false]
  · rw [he, hr, hus]
    simp only [hdesc, hclean, hread, hok, hrecs, hplaces, hdem, hcommit, hfull, Bool.not_true, Bool.false_eq_true, if_false, if_true]

end

/-! ### The bins of the fixed rasteriser (R243, R358) -/

theorem exec_rasterBinProcess (draw bin : Nat) (s : State) :
    exec (.rasterBinProcess draw bin) s = execRasterBinProcess draw bin s := rfl

/-- A bin that is due, and whose atomics demote no node, takes every triangle sent to it, in order, and is committed. -/
theorem rasterBinProcess_commits {s : State} {k bin : Nat} {d : Draw} (hdraw : lookM s.dev.sched.draws k = some d)
    (hbin : bin < d.binCount) (hopen : d.bins.contains bin = false) (hhas : d.binHas bin = true)
    (hdone : (Run.of s).teamsDone d.grid = true) (hcommit : (Run.of s).commitPending d.grid = false)
    (hlocal : (Run.of s).nodeOf d.grid = none ∨ (Run.of s).binRemote d bin = false) :
    exec (.rasterBinProcess k bin) s = .next (finish s (((d.tris.filter (fun t => d.overlaps t bin)).foldl (fun r t =>
      (d.binPixels bin).foldl (fun r p => r.rasterSample k d t p) r) (Run.of s)).modDraw k
        (fun d => { d with bins := addNew d.bins bin }))) := by
  have hdue : (decide (d.binCount ≤ bin) || d.bins.contains bin || !d.binHas bin || !(Run.of s).teamsDone d.grid ||
      (Run.of s).commitPending d.grid) = false := by
    simp only [decide_eq_false (Nat.not_le.2 hbin), hopen, hhas, hdone, hcommit, Bool.not_true, Bool.or_false]
  have hstay : (((Run.of s).nodeOf d.grid).isSome && (Run.of s).binRemote d bin) = false := by
    obtain hnode | hnear := hlocal
    · rw [hnode]; rfl
    · rw [hnear, Bool.and_false]
  rw [exec_rasterBinProcess, execRasterBinProcess, act_eq]
  simp only [Run.of_dev, hdraw, hdue, hstay, Bool.false_eq_true, if_false]

/-- Settles O47: TRISUB's answers case by case, the commit of a bin, the sum of the edge functions, and the classes of a record. -/
theorem trianglesAndBins : Obligations.TrianglesAndBins := by
  unfold Obligations.TrianglesAndBins
  exact ⟨fun s w l count o wp pas rem bs r1 recs p h hg hdesc hclean hread => ⟨trisub_refuses h rfl rfl rfl hg hdesc hclean hread,
      fun hok hrecs hplaces => ⟨fun r' => trisub_demotes h rfl rfl rfl hg hdesc hclean hread hok hrecs hplaces,
        trisub_submits h rfl rfl rfl hg hdesc hclean hread hok hrecs hplaces⟩⟩,
    fun s k bin d hdraw hbin hopen hhas hdone hcommit hlocal =>
      ⟨_, rasterBinProcess_commits hdraw hbin hopen hhas hdone hcommit hlocal, rfl⟩,
    fun c sx sy => (sum_edgeAt_edgesOf c sx sy).trans (sign_mul_area2 c),
    fun x c => ⟨triClass_culled_iff x c, triClass_large_iff x c⟩⟩

end Sys2Proof.Machine
end

section
/-! PROOFS. The compositing unit: the order of a slot's buffer, one lane's term, read and replay, the drain of a bank, and its binding
(chapter 15). -/

namespace Sys2Proof.Machine

theorem exec_cadd (g d a b c : Nat) (s : State) : exec (.cadd g d a b c) s = execCadd g d a b c s := rfl
theorem exec_crd (g d b : Nat) (s : State) : exec (.crd g d b) s = execCrd g d b s := rfl
theorem exec_crdCnt (g d b : Nat) (s : State) : exec (.crdCnt g d b) s = execCrdCnt g d b s := rfl
theorem exec_crpl (g d a b : Nat) (s : State) : exec (.crpl g d a b) s = execCrpl g d a b s := rfl
theorem exec_cflush (g d a : Nat) (s : State) : exec (.cflush g d a) s = execCflush g d a s := rfl
theorem exec_cbind (g d a logsz : Nat) (logs : Bool) (s : State) :
    exec (.cbind g d a logs logsz) s = execCbind g d a logs logsz s := rfl
theorem exec_cbindUnb (g d a : Nat) (s : State) : exec (.cbindUnb g d a) s = execCbindUnb g d a s := rfl

/-! ### The buffer of a slot (R256, R257) -/

/-- Entries in key order, at most eight of them (Table 15.5). -/
def CSlot.Ordered (s : CSlot) : Prop := s.buf.length ≤ 8 ∧ s.buf.Pairwise (fun a b => a.key ≤ b.key)

theorem length_insertTerm (m : CTerm) (ys : List CTerm) : (insertTerm m ys).length = ys.length + 1 := by
  induction ys with
  | nil => rfl
  | cons y ys ih =>
    unfold insertTerm
    split
    · rw [List.length_cons, ih, List.length_cons]
    · rfl

theorem mem_insertTerm {m z : CTerm} {ys : List CTerm} : z ∈ insertTerm m ys ↔ z = m ∨ z ∈ ys := by
  induction ys with
  | nil => simp [insertTerm]
  | cons y ys ih =>
    unfold insertTerm
    split
    · rw [List.mem_cons, ih, List.mem_cons, or_left_comm]
    · exact List.mem_cons

/-- A term put in after every entry whose key is not above its own leaves the keys in order. -/
theorem pairwise_insertTerm (m : CTerm) {ys : List CTerm} (h : ys.Pairwise (fun a b => a.key ≤ b.key)) :
    (insertTerm m ys).Pairwise (fun a b => a.key ≤ b.key) := by
  induction ys with
  | nil => exact List.pairwise_singleton _ m
  | cons y ys ih =>
    obtain ⟨hy, hys⟩ := List.pairwise_cons.1 h
    unfold insertTerm
    split
    next hle =>
      refine List.pairwise_cons.2 ⟨fun z hz => ?_, ih hys⟩
      obtain rfl | hz := mem_insertTerm.1 hz
      · exact hle
      · exact hy z hz
    next hgt =>
      have hmy : m.key ≤ y.key := Nat.le_of_not_le hgt
      refine List.pairwise_cons.2 ⟨fun z hz => ?_, h⟩
      obtain rfl | hz := List.mem_cons.1 hz
      · exact hmy
      · exact Nat.le_trans hmy (hy z hz)

/-- The slot that a drained term has entered (R257). -/
def CSlot.composited (s : CSlot) (late : Bool) (m : CTerm) : CSlot :=
  { s with
    rad := List.zipWith (fun a l => fma32 s.t (h2f l) a) s.rad m.li
    t := mul32 s.t (h2f m.ti)
    keyd := if late then s.keyd else m.key
    kv := true }

/-- A drain whose slot retires: the terms still held are discarded (R257). -/
def Drain.retired (d : Drain) : Drain :=
  { d with s := { d.s with ret := true, disc := satCount (d.s.disc + d.s.buf.length), buf := [] } }

section
variable (x : DCtx) (j : Nat)

/-- The log takes nothing out of the buffer. -/
@[simp] theorem DCtx.log_buf (m : CTerm) (p : Nat) (d : Drain) : (x.log j m p d).s.buf = d.s.buf := by
  unfold DCtx.log
  split
  · rfl
  split
  · rfl
  dsimp only
  split
  · rfl
  split <;> rfl

/-- A drain puts its term into the slot and into the log; a slot whose transmittance is then below the threshold retires. -/
theorem DCtx.drain_eq (late : Bool) (m : CTerm) (d : Drain) : x.drain j late m d =
    if lt32 (x.log j m d.s.t { d with s := d.s.composited late m }).s.t x.bind.thr then
      (x.log j m d.s.t { d with s := d.s.composited late m }).retired
    else x.log j m d.s.t { d with s := d.s.composited late m } := rfl

/-- A drain leaves the buffer as it was, or retires the slot and discards it. -/
theorem DCtx.drain_buf (late : Bool) (m : CTerm) (d : Drain) :
    (x.drain j late m d).s.buf = d.s.buf ∨ (x.drain j late m d).s.buf = [] := by
  rw [DCtx.drain_eq]
  split
  · exact .inr rfl
  · exact .inl (x.log_buf j m _ _)

theorem DCtx.drain_ordered (late : Bool) (m : CTerm) {d : Drain} (h : d.s.Ordered) : (x.drain j late m d).s.Ordered := by
  unfold CSlot.Ordered
  obtain hbuf | hbuf := x.drain_buf j late m d
  · rw [hbuf]; exact h
  · rw [hbuf]; exact ⟨Nat.zero_le 8, List.Pairwise.nil⟩

theorem DCtx.add_retired (m : CTerm) {d : Drain} (h : d.s.ret = true) :
    x.add j m d = (2, { d with s := { d.s with disc := satCount (d.s.disc + 1) } }) := by
  unfold DCtx.add
  exact if_pos h

/-- CADD keeps the buffer ordered: the ninth entry drains the nearest. -/
theorem DCtx.add_ordered (m : CTerm) {d : Drain} (h : d.s.Ordered) : (x.add j m d).2.s.Ordered := by
  have hlen := length_insertTerm m d.s.buf
  have hpw := pairwise_insertTerm m h.2
  unfold DCtx.add
  dsimp only
  split
  · exact h
  split
  · exact x.drain_ordered j true m h
  generalize insertTerm m d.s.buf = b at hlen hpw ⊢
  split
  next hnine =>
    cases b with
    | nil => exact h
    | cons y ys => exact x.drain_ordered j false y ⟨Nat.le_of_eq (Nat.succ.inj hnine), (List.pairwise_cons.1 hpw).2⟩
  next hfits =>
    have hfull : b.length ≤ 9 := hlen ▸ Nat.succ_le_succ h.1
    exact ⟨Nat.le_of_lt_succ (Nat.lt_of_le_of_ne hfull hfits), hpw⟩

end

/-! ### A bank without logs writes none (R259) -/

/-- What a drain leaves behind outside its slot. -/
def Drain.record (d : Drain) : List (Nat × Bool × List Byte) × Option (Nat × Nat) × List Nat := (d.logs, d.held, d.lost)

section
variable {x : DCtx} (hoff : x.bind.logs = false) (j : Nat)
include hoff

theorem DCtx.log_off (m : CTerm) (p : Nat) (d : Drain) : x.log j m p d = d := by
  unfold DCtx.log
  rw [hoff]
  rfl

theorem DCtx.drain_record (late : Bool) (m : CTerm) (d : Drain) : (x.drain j late m d).record = d.record := by
  rw [DCtx.drain_eq, DCtx.log_off hoff]
  split <;> rfl

theorem DCtx.drainAll_record (n : Nat) (d : Drain) : (x.drainAll j n d).record = d.record := by
  induction n generalizing d with
  | zero => rfl
  | succ n ih =>
    unfold DCtx.drainAll
    split
    · rfl
    next m ms _ =>
      have hone := DCtx.drain_record hoff j false m { d with s := { d.s with buf := ms } }
      dsimp only
      split
      · exact hone
      · exact (ih _).trans hone

theorem DCtx.add_record (m : CTerm) (d : Drain) : (x.add j m d).2.record = d.record := by
  unfold DCtx.add
  dsimp only
  split
  · rfl
  split
  · exact DCtx.drain_record hoff j true m d
  split
  · split
    · rfl
    · exact DCtx.drain_record hoff j false _ _
  · rfl

end

/-! ### One change of a slot -/

theorem Run.bound_putCslot (r : Run) (e : Env) (bank j k : Nat) (s : CSlot) : (r.putCslot e bank j s).bound e k = r.bound e k := by
  rw [Run.bound, Run.putCslot, Run.core_modCore_self]
  rfl

/-- A slot of the issuing core's banks as a drain finds it. -/
def Run.drainOf (r : Run) (e : Env) (bank j : Nat) (lost : List Nat) : Drain :=
  { s := r.cslot e bank j, logs := [], held := none, lost := lost }

/-- What a drain of a bank bound so rests on. -/
def Run.drainCtx (r : Run) (e : Env) (bn : CBind) : DCtx := { bind := bn, logAt := r.logTo e }

/-- A change that logs nothing puts its slot back and gives its lane's result. -/
theorem Comp.slot_unlogged {c : Comp} {e : Env} {bank j : Nat} {bn : CBind} (f : DCtx → Drain → List Word × Drain) (l : Nat)
    (hheld : c.held = none) (hbound : c.r.bound e bank = some bn)
    (hrec : (f (c.r.drainCtx e bn) (c.r.drainOf e bank j c.lost)).2.record = ([], none, c.lost)) :
    c.slot e bank j f l = { c with
      r := c.r.putCslot e bank j (f (c.r.drainCtx e bn) (c.r.drainOf e bank j c.lost)).2.s
      res := c.res ++ [(l, (f (c.r.drainCtx e bn) (c.r.drainOf e bank j c.lost)).1)] } := by
  unfold Run.drainCtx Run.drainOf at hrec ⊢
  obtain ⟨hlogs, hrest⟩ := Prod.mk.inj hrec
  obtain ⟨hnone, hlost⟩ := Prod.mk.inj hrest
  simp only [Comp.slot, hheld, hbound, hlogs, hnone, hlost, List.append_nil, Option.isSome_none, Bool.false_eq_true, if_false]

/-- A compositing instruction that has changed nothing yet. -/
def Run.compStart (r : Run) (e : Env) : Comp := { r := r, logs := [], held := none, lost := e.lostLogs, res := [] }

/-- Without log writes nothing holds the instruction's results back. -/
theorem Run.compEnd_unlogged (r0 : Run) (e : Env) (d : Nat) {c : Comp} (hheld : c.held = none) (hlogs : c.logs = []) :
    r0.compEnd e d c = .done (c.res.foldl (fun r x => r.onLanes e.w [x.1] (fun _ l => l.putVs d x.2)) c.r) := by
  simp only [Run.compEnd, hheld, hlogs, List.any_nil, List.isEmpty_nil, Bool.not_true, Bool.false_and, Bool.false_eq_true, if_false,
    List.foldl_nil]

/-! ### One lane's slot word (R255, R256, R261) -/

theorem issue_done {s : State} {i : Instr} {w l : Nat} {wp : Warp} {f : Run → Env → Ret} {r : Run} (h : Ready s i w l wp)
    (hf : f (s.served i wp) (s.env i w l wp) = .done r) : issue i f s = .next (s.through i w l wp r) := by
  rw [issue_ready h, hf]; rfl

/-- Bank and slot of a slot word. -/
theorem Env.slotAt_eq (e : Env) (b l : Nat) : e.slotAt b l = ((e.v l b).toNat / 256 % 32, (e.v l b).toNat % 256) := by
  simp only [Env.slotAt, fld, Nat.reducePow, Nat.div_one]

theorem map_word_toNat (ws : List Word) : (ws.map (fun w => w.toNat)).map word = ws := by
  rw [List.map_map]
  exact List.map_id'' (fun w => by simp [word]) ws

section
variable {r : Run} {e : Env} {g d a b k bank j : Nat} {bn : CBind} (hat : e.slotAt b k = (bank, j)) (hword : (e.v k b).toNat < 2 ^ 13)
  (hbound : r.bound e bank = some bn) (hon : e.on g = [k]) (hacq : r.laneAcq e.w k = false)
  (hclean : r.slotPoison e bank j 1 = none)

include hat hword hbound in
theorem Run.slotWordOk_of_bound : r.slotWordOk e (e.v k b).toNat = true := by
  have hbank : fld (e.v k b).toNat 8 5 = bank := congrArg Prod.fst hat
  rw [Run.slotWordOk, hbank, hbound, decide_eq_true hword]
  rfl

include hon hacq in
theorem Run.acqBefore_one : r.acqBefore e (e.on g) = false := by
  rw [Run.acqBefore, hon, List.any_cons, hacq]
  rfl

include hat hword hbound hclean

include hon hacq in
/-- An instruction of one lane that logs nothing changes the lane's slot and writes its result. -/
theorem Run.comp_one (f : Nat → DCtx → Nat → Drain → List Word × Drain)
    (hrec : (f k (r.drainCtx e bn) j (r.drainOf e bank j e.lostLogs)).2.record = ([], none, e.lostLogs)) :
    let z := f k (r.drainCtx e bn) j (r.drainOf e bank j e.lostLogs)
    r.comp e g d b f = .done ((r.putCslot e bank j z.2.s).onLanes e.w [k] (fun _ y => y.putVs d z.1)) := by
  have hgood : r.slotWordBad e (e.on g) b = none := by
    simp only [Run.slotWordBad, hon, List.find?_cons, List.find?_nil, Run.slotWordOk_of_bound hat hword hbound, Bool.not_true,
      Option.map_none]
  have hsound : (e.on g).findSome? (fun l => r.slotPoison e (e.slotAt b l).1 (e.slotAt b l).2 1) = none := by
    rw [hon, List.findSome?_cons, hat, hclean]
    rfl
  have hslot := Comp.slot_unlogged (c := r.compStart e) (fun x m => f k x j m) k rfl hbound hrec
  have hcomp : r.comp e g d b f = r.compEnd e d ((r.compStart e).slot e bank j (fun x m => f k x j m) k) := by
    simp only [Run.comp, Run.acqBefore_one hon hacq, hgood, hsound, Bool.false_eq_true, if_false]
    rw [hon, List.foldl_cons, List.foldl_nil, hat]
    rfl
  rw [hcomp, hslot]
  exact Run.compEnd_unlogged _ _ _ rfl rfl

/-! ### Replay of one lane (R260) -/

theorem Run.crplLane_overflowed (hovf : (r.cslot e bank j).lovf = true) :
    r.crplLane e a bank j k (e.v k b).toNat = .ok ([0, 0, 0, 0, 0, 0, 0, 0xFFFFFFFE], none, r) := by
  simp only [Run.crplLane, Run.slotWordOk_of_bound hat hword hbound, hbound, hclean, hovf, if_true]
  rfl

theorem Run.crplLane_empty (hovf : (r.cslot e bank j).lovf = false) (hlog : (r.cslot e bank j).logn = 0) :
    r.crplLane e a bank j k (e.v k b).toNat =
      .ok ([0, 0, 0, 0, e.v k (a + 4), e.v k (a + 5), e.v k (a + 6), 0xFFFFFFFF], none, r) := by
  simp only [Run.crplLane, Run.slotWordOk_of_bound hat hword hbound, hbound, hclean, hovf, hlog, map_word_toNat, if_true,
    Bool.false_eq_true, if_false]
  rfl

end

/-- The lanes of a CRPL that are one lane, which reads no error. -/
theorem Run.crplLanes_one {r r' : Run} {e : Env} {g a b k bank j : Nat} {ws : List Word} (hat : e.slotAt b k = (bank, j))
    (hon : e.on g = [k]) (h : r.crplLane e a bank j k (e.v k b).toNat = .ok (ws, none, r')) :
    Run.crplLanes e a b (e.on g) r = .ok ([(k, ws)], none, r') := by
  rw [hon]
  simp only [Run.crplLanes, hat, h, Option.orElse_none]

/-! ### Instructions over one slot word -/

/-- CADD, CRD and CRD.cnt of one lane: the slot's change, and the lane's result. -/
theorem comp_issues {s : State} {i : Instr} {w l g d b k bank j : Nat} {wp : Warp} {bn : CBind} {r : Run} {e : Env}
    (h : Ready s i w l wp) (he : s.env i w l wp = e) (hr : s.served i wp = r)
    (hat : e.slotAt b k = (bank, j)) (hword : (e.v k b).toNat < 2 ^ 13) (hbound : r.bound e bank = some bn)
    (hon : e.on g = [k]) (hacq : r.laneAcq w k = false) (hclean : r.slotPoison e bank j 1 = none)
    (f : Env → Nat → DCtx → Nat → Drain → List Word × Drain)
    (hrec : (f e k (r.drainCtx e bn) j (r.drainOf e bank j e.lostLogs)).2.record = ([], none, e.lostLogs)) :
    let z := f e k (r.drainCtx e bn) j (r.drainOf e bank j e.lostLogs)
    issue i (fun r e => r.comp e g d b (f e)) s =
      .next (s.through i w l wp ((r.putCslot e bank j z.2.s).onLanes w [k] (fun _ y => y.putVs d z.1))) := by
  subst he hr
  exact issue_done h (Run.comp_one hat hword hbound hon hacq hclean _ hrec)

/-- CRPL of one lane that reads no error answers what the unit has replayed. -/
theorem crpl_issues {s : State} {w l g d a b k bank j : Nat} {wp : Warp} {ws : List Word} {r' : Run}
    (h : Ready s (.crpl g d a b) w l wp) (hat : (s.env (.crpl g d a b) w l wp).slotAt b k = (bank, j))
    (hon : (s.env (.crpl g d a b) w l wp).on g = [k]) (hacq : (s.served (.crpl g d a b) wp).laneAcq w k = false)
    (hlane : (s.served (.crpl g d a b) wp).crplLane (s.env (.crpl g d a b) w l wp) a bank j k
      ((s.env (.crpl g d a b) w l wp).v k b).toNat = .ok (ws, none, r')) :
    exec (.crpl g d a b) s = .next (s.through (.crpl g d a b) w l wp (r'.onLanes w [k] (fun _ y => y.putVs d ws))) := by
  rw [exec_crpl, execCrpl]
  refine issue_done h ?_
  have hlanes := Run.crplLanes_one hat hon hlane
  simp only [Run.acqBefore_one hon hacq, hlanes, Bool.false_eq_true, if_false]
  rfl

/-! ### CFLUSH (R258) -/

/-- The run in which slot `j` of a bank bound so has been drained. -/
def Run.drainSlot (r : Run) (e : Env) (bank : Nat) (bn : CBind) (j : Nat) : Run :=
  r.putCslot e bank j ((r.drainCtx e bn).drainAll j 8 (r.drainOf e bank j e.lostLogs)).s

/-- The drain of a bank's slots, as far as those of a list. -/
def Comp.drained (c : Comp) (e : Env) (bank : Nat) (js : List Nat) : Comp :=
  js.foldl (fun c j => c.slot e bank j (fun x m => ([], x.drainAll j 8 m)) 0) c

/-- Slot after slot, a bank without logs is drained, and nothing holds the drains. -/
theorem Comp.drained_unlogged {e : Env} {bank : Nat} {bn : CBind} (hoff : bn.logs = false) (js : List Nat) {c : Comp}
    (hheld : c.held = none) (hlogs : c.logs = []) (hlost : c.lost = e.lostLogs) (hbound : c.r.bound e bank = some bn) :
    (c.drained e bank js).r = js.foldl (fun r j => r.drainSlot e bank bn j) c.r ∧ (c.drained e bank js).held = none ∧
      (c.drained e bank js).logs = [] := by
  induction js generalizing c with
  | nil => exact ⟨rfl, hheld, hlogs⟩
  | cons j js ih =>
    have hslot := Comp.slot_unlogged (j := j) (fun x m => ([], x.drainAll j 8 m)) 0 hheld hbound
      (DCtx.drainAll_record (x := c.r.drainCtx e bn) hoff j 8 _)
    rw [hlost] at hslot
    have hnext : c.drained e bank (j :: js) =
        { c with r := c.r.drainSlot e bank bn j, lost := e.lostLogs, res := c.res ++ [(0, [])] }.drained e bank js :=
      congrArg (fun c => Comp.drained c e bank js) hslot
    rw [hnext, List.foldl_cons]
    exact ih hheld hlogs rfl ((c.r.bound_putCslot e bank j bank _).trans hbound)

theorem Run.compEnd_drained {r : Run} {e : Env} {bank d : Nat} {bn : CBind} (hoff : bn.logs = false) (js : List Nat)
    (hbound : r.bound e bank = some bn) :
    r.compEnd e d { (r.compStart e).drained e bank js with res := [] } = .done (js.foldl (fun r j => r.drainSlot e bank bn j) r) := by
  obtain ⟨hrun, hheld, hlogs⟩ := Comp.drained_unlogged (c := r.compStart e) hoff js rfl rfl rfl hbound
  exact (Run.compEnd_unlogged r e d (c := { (r.compStart e).drained e bank js with res := [] }) hheld hlogs).trans
    (congrArg Ret.done hrun)

section
variable {s : State} {w l g d a bank : Nat} {wp : Warp} {bn : CBind} {r : Run} {e : Env} (h : Ready s (.cflush g d a) w l wp)
  (he : s.env (.cflush g d a) w l wp = e) (hr : s.served (.cflush g d a) wp = r) (hbank : (e.us a).toNat = bank) (hg : e.ug g = true)
include h he hr hbank hg

theorem cflush_limit (hlim : r.banksOf e.grid ≤ bank) :
    exec (.cflush g d a) s = .next (s.trapped (.cflush g d a) w l wp 7 (limAddr 8) e.lead) := by
  subst he hr hbank
  rw [exec_cflush, execCflush]
  exact uniOp_trap h hg (by simp only [hlim, if_true])

theorem cflush_drains (hlt : bank < r.banksOf e.grid) (hbound : r.bound e bank = some bn) (hoff : bn.logs = false)
    (hclean : r.slotPoison e bank 0 256 = none) (hacq : r.acqBefore e e.lanes = false) :
    exec (.cflush g d a) s = .next (s.through (.cflush g d a) w l wp
      (((List.range 256).foldl (fun r j => r.drainSlot e bank bn j) r).putS e d 0)) := by
  subst he hr hbank
  rw [exec_cflush, execCflush]
  refine uniOp_done h hg ?_
  have hdrained := Run.compEnd_drained (d := 0) hoff (List.range 256) hbound
  unfold Run.compStart Comp.drained at hdrained
  simp only [Nat.not_le.2 hlt, hacq, hbound, hclean, hdrained, Bool.false_eq_true, if_false]

end

/-! ### CBIND (R254) -/

@[simp] theorem Core.setPoison_banks (c : Core) (k n : Nat) (bad : Map Nat) : (c.setPoison k n bad).banks = c.banks := by
  unfold Core.setPoison; split <;> rfl

theorem Core.bank_congr {c c' : Core} (h : c.banks = c'.banks) (key : Nat) : c.bank key = c'.bank key := by
  rw [Core.bank, h, Core.bank]

/-- A bank bound for compositing, with every slot at its start. -/
def Run.bindBank (r : Run) (core key : Nat) (b : CBind) : Run :=
  (r.bankClear core key bankStart).modCore core (fun c => { c with cbinds := putM c.cbinds key b })

/-- A bank no longer bound; its bytes stay. -/
def Run.unbindBank (r : Run) (core key : Nat) : Run := r.modCore core (fun c => { c with cbinds := delM c.cbinds key })

theorem Run.bindBank_core (r : Run) (core key : Nat) (b : CBind) :
    lookM ((r.bindBank core key b).core core).cbinds key = some b ∧
    ((r.bindBank core key b).core core).bank key = { clear := true, data := bankStart } := by
  rw [Run.bindBank, Run.core_modCore_self, Run.bankClear, Run.core_modCore_self]
  refine ⟨lookM_putM_self _ _ _, ?_⟩
  simp only [Core.bank, Core.setPoison_banks, lookD, lookM_putM_self, Option.getD_some]

theorem Run.unbindBank_core (r : Run) (core key : Nat) : lookM ((r.unbindBank core key).core core).cbinds key = none := by
  rw [Run.unbindBank, Run.core_modCore_self]
  exact lookM_delM_self _ _

section
variable {r : Run} {e : Env} {bank : Nat} (hlt : bank < r.banksOf e.grid) (hacq : r.acqBefore e e.lanes = false)
  (hfree : e.met = true ∨ (r.core e.wp.core).busyBank e.wp.team bank = false)
include hlt hacq hfree

/-- A bank of the team that nothing names, with no acquire outstanding, is bound or unbound at once (R212, R261). -/
theorem Run.bindable'_free (k : Unit → Ret) : r.bindable' e bank k = k () := by
  simp only [Run.bindable', Nat.not_le.2 hlt, hacq, Run.bank_not_awaited hfree, Bool.false_eq_true, if_false]

end

section
variable {s : State} {w l g d a logsz bank base : Nat} {logs : Bool} {wp : Warp} {r : Run} {e : Env}

theorem cbind_binds (h : Ready s (.cbind g d a logs logsz) w l wp)
    (he : s.env (.cbind g d a logs logsz) w l wp = e) (hr : s.served (.cbind g d a logs logsz) wp = r)
    (hbank : (e.us a).toNat = bank) (hbase : e.us2 (a + 2) = base) (hg : e.ug g = true)
    (hlt : bank < r.banksOf e.grid) (hacq : r.acqBefore e e.lanes = false)
    (hfree : e.met = true ∨ (r.core wp.core).busyBank wp.team bank = false)
    (harea : logs = true → base % 16 = 0 ∧ canonical base = true ∧ r.logAreaBad (r.spaceAt e) base (4096 * 2 ^ logsz) = none) :
    exec (.cbind g d a logs logsz) s = .next (s.through (.cbind g d a logs logsz) w l wp
      ((r.bindBank wp.core (bankKey wp.team bank) ⟨e.us (a + 1), logs, base, logsz⟩).putS e d 0)) := by
  subst he hr hbank hbase
  rw [exec_cbind, execCbind]
  refine uniOp_done h hg ?_
  have hgo := Run.bindable'_free hlt hacq hfree
  cases logs with
  | false =>
    simp only [Nat.not_le.2 hlt, hgo, Bool.not_false, if_false, if_true]
    rfl
  | true =>
    obtain ⟨haligned, hcanon, hwritable⟩ := harea rfl
    simp only [Nat.not_le.2 hlt, hgo, haligned, hcanon, hwritable, Bool.not_true, Bool.false_eq_true, ne_eq, not_true, if_false,
      Option.map_none]
    rfl

theorem cbindUnb_unbinds (h : Ready s (.cbindUnb g d a) w l wp)
    (he : s.env (.cbindUnb g d a) w l wp = e) (hr : s.served (.cbindUnb g d a) wp = r)
    (hbank : (e.us a).toNat = bank) (hg : e.ug g = true)
    (hlt : bank < r.banksOf e.grid) (hacq : r.acqBefore e e.lanes = false)
    (hfree : e.met = true ∨ (r.core wp.core).busyBank wp.team bank = false) :
    exec (.cbindUnb g d a) s = .next (s.through (.cbindUnb g d a) w l wp
      ((r.unbindBank wp.core (bankKey wp.team bank)).putS e d 0)) := by
  subst he hr hbank
  rw [exec_cbindUnb, execCbindUnb]
  exact uniOp_done h hg (Run.bindable'_free hlt hacq hfree _)

end

/-- An instruction that changes its core's banks alone, and answers 0, writes no memory. -/
theorem bank_effect {s : State} {i : Instr} {w l d : Nat} {wp : Warp} {r : Run} (h : Ready s i w l wp)
    (hexec : exec i s = .next (s.through i w l wp (r.putS (s.env i w l wp) d 0))) (hi : i.kernelKind = none)
    (hwarps : r.dev.warps = (s.served i wp).dev.warps) (hw : r.w = (s.served i wp).w) :
    ∃ t, exec i s = .next t ∧ (d < 192 → t.s w d = 0) ∧ t.mem = s.mem ∧
      ((Run.of t).core wp.core).cbinds = (r.core wp.core).cbinds ∧
      ∀ k, ((Run.of t).core wp.core).bank k = (r.core wp.core).bank k := by
  have hserved : s.served i wp = Run.of s := Run.tellKernel_none hi
  rw [hserved] at hwarps hw
  obtain ⟨hs, hmem, hcores⟩ := through_putS h r d 0 (hwarps ▸ h.warp)
  rw [hw] at hmem
  have hcore := hcores wp.core
  have hcbinds := congrArg Core.cbinds hcore
  have hbanks := congrArg Core.banks hcore
  exact ⟨_, hexec, hs, hmem, hcbinds, Core.bank_congr hbanks⟩

/-- Settles O46: CADD, CRD and CRD.cnt are one change of a slot without logs, CRPL is its lane's replay, CFLUSH goes through the bank's
slots, CBIND and CBIND.unb change the core's banks alone, and a term put in its place keeps the buffer ordered. -/
theorem compositing : Obligations.Compositing := by
  unfold Obligations.Compositing
  refine ⟨?_, ?_, ?_, ?_, ?_, ?_, ?_, ?_⟩
  · intro s w l g d a b c k wp bn i h e r bank j hon hword hbound hoff hacq hclean
    exact comp_issues h rfl rfl (Env.slotAt_eq e b k) hword hbound hon hacq hclean _
      (DCtx.add_record (x := r.drainCtx e bn) hoff _ _ _)
  · intro s w l g d b k wp bn i h e r bank j hon hword hbound hoff hacq hclean
    exact comp_issues h rfl rfl (Env.slotAt_eq e b k) hword hbound hon hacq hclean _
      (DCtx.drainAll_record (x := r.drainCtx e bn) hoff _ _ _)
  · intro s w l g d b k wp bn i h e r bank j hon hword hbound hacq hclean
    exact comp_issues h rfl rfl (Env.slotAt_eq e b k) hword hbound hon hacq hclean _ rfl
  · intro s w l g d a b k wp ws r' i h e r bank j hon hword hbound hacq hclean
    obtain ⟨bn, hbn⟩ := Option.isSome_iff_exists.1 hbound
    have hat := Env.slotAt_eq e b k
    exact ⟨crpl_issues h hat hon hacq, Run.crplLane_overflowed hat hword hbn hclean, Run.crplLane_empty hat hword hbn hclean⟩
  · intro s w l g d a wp bn i h e r bank
    exact ⟨cflush_limit h rfl rfl rfl, fun hg hlt hbound hoff hclean hacq =>
      cflush_drains h rfl rfl rfl hg hlt hbound hoff hclean hacq⟩
  · intro s w l g d a logsz logs wp i h e r bank base hg hlt hacq hfree harea
    obtain ⟨hbinds, hstart⟩ := r.bindBank_core wp.core (bankKey wp.team bank) ⟨e.us (a + 1), logs, base, logsz⟩
    obtain ⟨t, hexec, hs, hmem, hcbinds, hbanks⟩ := bank_effect h
      (cbind_binds h rfl rfl rfl rfl hg hlt hacq hfree harea) rfl rfl rfl
    exact ⟨t, hexec, hs, hmem, hcbinds ▸ hbinds, (hbanks _).trans hstart⟩
  · intro s w l g d a wp i h e r bank hg hlt hacq hfree
    obtain ⟨t, hexec, hs, hmem, hcbinds, _⟩ := bank_effect h (cbindUnb_unbinds h rfl rfl rfl hg hlt hacq hfree) rfl rfl rfl
    exact ⟨t, hexec, hs, hmem, hcbinds ▸ r.unbindBank_core wp.core (bankKey wp.team bank)⟩
  · intro x j m d hlen hpw
    obtain ⟨hlen', hpw'⟩ := x.add_ordered j m (d := d) ⟨hlen, hpw⟩
    refine ⟨hlen', hpw', fun hret => ?_⟩
    rw [x.add_retired j m hret]
    exact ⟨rfl, rfl, rfl⟩

end Sys2Proof.Machine
end
